-- ==== Sys2Proof/Word.lean ====
section
/-! DEFINITION. The plain word types of the model and the byte memory's cell list. -/

namespace Sys2Proof

/-- One byte. -/
abbrev Byte := BitVec 8

/-- One 32-bit register word (01_architecture, 10_host_interface R286). -/
abbrev Word := BitVec 32

/-- A value of the time base in whole ticks of 1 ns (R10, R80). -/
abbrev Tb := Nat

/-- A byte memory: address and byte pairs in one canonical form (addresses strictly rising, no entry equal to
what an unlisted address reads as). -/
abbrev Mem := List (Nat × Byte)

end Sys2Proof
end

