-- ==== Sys2Proof/Syntax.lean ====
section
/-! DEFINITION. The commands of the block: one constructor per row of spec/opcode_table.json, in the table's order.

The first operand `t` of every command is the value of TB at which the step happens. A payload field has the width that
its descriptor, register or frame gives it, so every value a sender can write down is an operand. What the part reads
from the world outside it at that step (host memory, comparators, converters, PLL lock, eyes) is an operand too. -/

namespace Sys2Proof

/-- The header of a mailbox command (R306, R307): the inlet it came through, its tag, its flags and its DEADLINE.
OPCODE and CLASS are fixed by the constructor. -/
structure Hdr where
  inlet    : BitVec 4
  tag      : BitVec 12
  want     : Bool
  fence    : Bool
  indirect : Bool
  deadline : BitVec 64
  deriving DecidableEq, Repr, Inhabited

/-- What the devices of one die's DRAM port show at a training (R255, R267, R268). `known` is false when they identify
themselves outside R255; `chFail` has a bit per channel that fails a step; `lane` is the byte lane within the channel
that failed; `eyes` are the four byte lanes' read centre, read width, write centre and write width. -/
structure DramEnv where
  known   : Bool
  ranksM1 : Bool
  density : BitVec 2
  chFail  : BitVec 2
  lane    : BitVec 1
  eyes    : List (BitVec 8 × BitVec 8 × BitVec 8 × BitVec 8)
  deriving DecidableEq, Repr, Inhabited

/-- What the world shows the part during a boot (R436 to R443). `width` and `speed` are what the host link has trained
to by the end of a PERST_N reset (R277, R291); `upTo` is the stage the boot has reached when the step
ends, 1 ROM to 8 READY; `stageTb` the TB at which each of the eight stages is entered; `flashFail` is 0, or the
FAIL_DETAIL of 0xE2; masks have one bit per die; `portsDown` has bit 2d for port UP and 2d + 1 for port DOWN of die d. -/
structure BootEnv where
  width     : BitVec 6
  speed     : BitVec 3
  upTo      : Nat
  stageTb   : List Tb
  romOk     : Bool
  refOk     : Bool
  flashFail : BitVec 8
  sizeMib   : BitVec 16
  pageLog2  : BitVec 4
  mode      : BitVec 4
  clkDiv    : BitVec 9
  eraseMax  : BitVec 32
  readFailA : Bool
  readFailB : Bool
  fwOk      : Bool
  portsDown : BitVec 16
  fwFail    : BitVec 8
  alignFail : BitVec 8
  dram      : List DramEnv
  tj        : List (BitVec 16)
  selfTest  : List (BitVec 8)
  rpsFail   : BitVec 8
  kelvin    : List Nat
  deriving DecidableEq, Repr, Inhabited

/-- What the world shows the part during steps 4 to 7 of a DIE handling (R342). -/
structure RecEnv where
  started  : Bool
  dram     : DramEnv
  tj       : BitVec 16
  selfTest : List (BitVec 8)
  deriving DecidableEq, Repr, Inhabited

/-- A register as the host names it: an offset in BAR 0, one in BAR 4 (the MSI-X table and PBA, R283), or a word address
in die d's register space given as offset from 0x18_0000_0000 (R284, R29). -/
inductive RegAddr where
  | bar0 (off : Nat)
  | bar4 (off : Nat)
  | die (d off : Nat)
  deriving DecidableEq, Repr, Inhabited

/-- A ring of the host interface (R292). -/
inductive RingId where
  | inlet (i : BitVec 4)
  | outlet (o : BitVec 4)
  | event
  deriving DecidableEq, Repr, Inhabited

/-- The access path of a read (R287). -/
inductive Path where
  | bar0 | diag
  deriving DecidableEq, Repr, Inhabited

/-- A pattern PLL setting as PLL_SET carries it (R86): the 16 bytes, field by field, reserved bits included. -/
structure PllArg where
  frac  : BitVec 32
  nint  : BitVec 8
  post  : BitVec 8
  flags : BitVec 8
  rsv0  : BitVec 8
  seed  : BitVec 32
  rsv1  : BitVec 32
  deriving DecidableEq, Repr, Inhabited

/-- What the DMA of a host read met (R299). -/
inductive DmaRead where
  | descriptor (inlet : BitVec 4)
  | payload (inlet : BitVec 4)
  | bulk (tag : BitVec 12)
  deriving DecidableEq, Repr, Inhabited

/-- The commands. -/
inductive Instr where
  -- mailbox, group 0x000x (R320)
  | identify (t : Tb) (h : Hdr) (hostAddr : BitVec 64)
  | getStatus (t : Tb) (h : Hdr)
  | resync (t : Tb) (h : Hdr) (hostAddr : BitVec 64)
  -- group 0x001x (R322)
  | channelConfig (t : Tb) (h : Hdr) (k : BitVec 8) (lanes : BitVec 8) (apply : BitVec 8) (mode : BitVec 8)
      (cfg : BitVec 8) (measSel : BitVec 8) (avgM1 : BitVec 16) (dacDiv : BitVec 16)
  | channelConnect (t : Tb) (h : Hdr) (k : BitVec 8) (lanes : BitVec 8) (mode : BitVec 8) (range : BitVec 8)
      (force : BitVec 32) (levels : List (BitVec 16))
  | channelDisconnect (t : Tb) (h : Hdr) (k : BitVec 8) (lanes : BitVec 8)
  | channelRange (t : Tb) (h : Hdr) (k : BitVec 8) (lanes : BitVec 8) (range : BitVec 8)
  | channelForce (t : Tb) (h : Hdr) (k : BitVec 8) (lanes : BitVec 8) (kinds : BitVec 8) (force : BitVec 32)
      (levels : List (BitVec 16))
  | channelMeasure (t : Tb) (h : Hdr) (k : BitVec 8) (lanes : BitVec 8)
  | gangSet (t : Tb) (h : Hdr) (k : BitVec 8) (l0 : BitVec 8) (m : BitVec 8) (range : BitVec 8)
  | refDacSet (t : Tb) (h : Hdr) (die : BitVec 8) (j : BitVec 8) (code : BitVec 16) (tick : BitVec 64)
  | guardSet (t : Tb) (h : Hdr) (k : BitVec 8) (guard : BitVec 8)
  | channelQuery (t : Tb) (h : Hdr) (n : BitVec 16)
  -- group 0x002x (R324)
  | imageLoad (t : Tb) (h : Hdr) (hostAddr : BitVec 64) (size : BitVec 64) (units : List (BitVec 32))
  | imageVerify (t : Tb) (h : Hdr) (id : BitVec 64)
  | imageUnload (t : Tb) (h : Hdr) (id : BitVec 64)
  | imageQuery (t : Tb) (h : Hdr) (id : BitVec 64)
  -- group 0x003x (R325)
  | runStart (t : Tb) (h : Hdr) (id : BitVec 64) (group : BitVec 8) (mode : BitVec 8) (startTb : BitVec 64)
  | runStop (t : Tb) (h : Hdr) (group : BitVec 8) (runTag : BitVec 16)
  | runAbort (t : Tb) (h : Hdr) (group : BitVec 8) (runTag : BitVec 16)
  | runQuery (t : Tb) (h : Hdr) (group : BitVec 8) (runTag : BitVec 16)
  | trigConfig (t : Tb) (h : Hdr) (k : BitVec 8) (source : BitVec 4) (cond : BitVec 2) (pol : BitVec 2)
      (select : BitVec 16) (lane : BitVec 8) (thrHi : BitVec 32) (thrLo : BitVec 32)
  | trigArm (t : Tb) (h : Hdr) (kind : BitVec 8) (id : BitVec 8) (opts : BitVec 8) (max : BitVec 32)
      (hold : BitVec 64) (a : BitVec 64)
  | trigDisarm (t : Tb) (h : Hdr) (kind : BitVec 8) (id : BitVec 8) (d : BitVec 64)
  -- group 0x004x (R327)
  | captureConfig (t : Tb) (h : Hdr) (k : BitVec 8) (s : BitVec 8) (mode : BitVec 8) (sram : BitVec 8)
      (chunk : BitVec 16) (pre : BitVec 16) (post : BitVec 16) (ringBase : BitVec 64) (ringSize : BitVec 32)
  | captureStart (t : Tb) (h : Hdr) (k : BitVec 8) (streams : BitVec 16) (tick : BitVec 64)
  | captureStop (t : Tb) (h : Hdr) (k : BitVec 8) (streams : BitVec 16) (tick : BitVec 64)
  | captureRelease (t : Tb) (h : Hdr) (k : BitVec 8) (s : BitVec 8) (readOff : BitVec 32)
  | captureRead (t : Tb) (h : Hdr) (k : BitVec 8) (s : BitVec 8) (length : BitVec 32) (ringOff : BitVec 32)
      (hostAddr : BitVec 64)
  | resultsRead (t : Tb) (h : Hdr) (group : BitVec 8) (hist : BitVec 8) (first : BitVec 16) (count : BitVec 16)
      (runS : BitVec 64) (hostAddr : BitVec 64)
  | failLogRead (t : Tb) (h : Hdr) (k : BitVec 8) (first : BitVec 32) (count : BitVec 32) (hostAddr : BitVec 64)
  | failLogConfig (t : Tb) (h : Hdr) (k : BitVec 8) (policy : BitVec 8)
  | failClear (t : Tb) (h : Hdr) (k : BitVec 8) (lanes : BitVec 8)
  | chargeClear (t : Tb) (h : Hdr) (k : BitVec 8) (lanes : BitVec 8) (b : BitVec 64)
  | captureQuery (t : Tb) (h : Hdr) (k : BitVec 8) (s : BitVec 8)
  -- group 0x005x (R329)
  | lockGroupSet (t : Tb) (h : Hdr) (group : BitVec 8) (master : BitVec 8) (flags : BitVec 8) (slot : BitVec 8)
      (mask : BitVec 64)
  | lockGroupQuery (t : Tb) (h : Hdr) (group : BitVec 8)
  | pllSet (t : Tb) (h : Hdr) (die : BitVec 8) (setting : PllArg)
  | pllSync (t : Tb) (h : Hdr) (mask : BitVec 8) (tick : BitVec 64)
  | tbAlign (t : Tb) (h : Hdr)
  | lockLinkCfg (t : Tb) (h : Hdr) (role : BitVec 8) (lat : BitVec 8)
  | weirConfig (t : Tb) (h : Hdr) (horizonRun : BitVec 32) (horizonBulk : BitVec 32)
  -- groups 0x006x to 0x008x (R330)
  | calRead (t : Tb) (h : Hdr) (die : BitVec 8) (off : BitVec 32) (len : BitVec 32) (hostAddr : BitVec 64)
  | calWrite (t : Tb) (h : Hdr) (die : BitVec 8) (off : BitVec 32) (len : BitVec 32) (hostAddr : BitVec 64)
      (data : List Byte)
  | calCommit (t : Tb) (h : Hdr)
  | calStep (t : Tb) (h : Hdr) (step : BitVec 16) (arg : List Byte) (meas : List Int)
  | calStatus (t : Tb) (h : Hdr)
  | thermalRead (t : Tb) (h : Hdr) (die : BitVec 8) (sensor : BitVec 8)
  | thermalConfig (t : Tb) (h : Hdr) (die : BitVec 8) (apply : BitVec 8) (watchMs : BitVec 16) (warn : BitVec 16)
      (throttle : BitVec 16) (shutdown : BitVec 16) (graceMs : BitVec 16) (extType : BitVec 8) (a : BitVec 32)
      (b : BitVec 32) (c : BitVec 32)
  | thermalClear (t : Tb) (h : Hdr) (die : BitVec 8)
  | thermalStatus (t : Tb) (h : Hdr) (die : BitVec 8)
  | nvmRead (t : Tb) (h : Hdr) (off : BitVec 32) (len : BitVec 32) (hostAddr : BitVec 64)
  | nvmWrite (t : Tb) (h : Hdr) (off : BitVec 32) (len : BitVec 32) (hostAddr : BitVec 64) (data : List Byte)
  | nvmErase (t : Tb) (h : Hdr) (off : BitVec 32) (len : BitVec 32)
  | nvmStatus (t : Tb) (h : Hdr)
  -- groups 0x009x to 0x00Cx (R331)
  | eventConfig (t : Tb) (h : Hdr) (minSev : BitVec 8) (watch : BitVec 8) (hostLoss : BitVec 8)
  | heartbeat (t : Tb) (h : Hdr)
  | eventQuery (t : Tb) (h : Hdr)
  | patchApply (t : Tb) (h : Hdr)
  | patchQuery (t : Tb) (h : Hdr)
  | regRead (t : Tb) (h : Hdr) (addr : BitVec 64) (count : BitVec 8) (snap : BitVec 8) (hostAddr : BitVec 64)
  | regWrite (t : Tb) (h : Hdr) (addr : BitVec 64) (count : BitVec 8) (words : List Word)
  | dramStatus (t : Tb) (h : Hdr) (die : BitVec 8)
  | dramConfig (t : Tb) (h : Hdr) (mask : BitVec 8) (apply : BitVec 8) (ageNs : BitVec 16) (pdUs : BitVec 16)
      (rhThr : BitVec 16) (interval : BitVec 16) (eyeMin : BitVec 8)
  | dramRetrain (t : Tb) (h : Hdr) (die : BitVec 8) (mode : BitVec 8)
  -- serial slave frames (R371): the words of the frame, its header first
  | slvEcho (t : Tb) (words : List Word)
  | slvStatus (t : Tb) (words : List Word)
  | slvRegRead (t : Tb) (words : List Word)
  | slvThermal (t : Tb) (words : List Word)
  | slvStill (t : Tb) (words : List Word)
  -- BAR and configuration accesses (R284 to R305)
  | inletDb (t : Tb) (i : BitVec 4) (v : Word)
  | outletDb (t : Tb) (o : BitVec 4) (v : Word)
  | eventDb (t : Tb) (v : Word)
  | ringCfgWrite (t : Tb) (r : RingId) (v : Word)
  | snapshot (t : Tb) (v : Word)
  | diagGo (t : Tb) (v : Word)
  | diagDataEarly (t : Tb) (write : Bool)
  | apertureWrite (t : Tb) (hi : Bool) (v : Word)
  | registerWrite (t : Tb) (r : RegAddr) (v : Word) (be : BitVec 4)
  | rcRead (t : Tb) (p : Path) (r : RegAddr) (be : BitVec 4)
  | loReadLatch (t : Tb) (p : Path) (r : RegAddr)
  | bar2Read (t : Tb) (off : Nat) (len : Nat)
  | bar2Write (t : Tb) (off : Nat) (data : List Byte)
  | d3hotEntry (t : Tb)
  | interfaceReset (t : Tb)
  -- the endpoint's own steps
  | linkChange (t : Tb) (width : BitVec 6) (speed : BitVec 3)
  | l1Entry (t : Tb)
  | ptmDialogue (t : Tb) (t1 : Tb) (resp : Option (BitVec 64 × Nat))
  | descriptorFetch (t : Tb) (i : BitVec 4) (bytes : List Byte) (payload : Option (List Byte)) (ns : Nat)
  | hostDmaFail (t : Tb) (what : DmaRead) (bytes : List Byte)
  | bulkComplete (t : Tb) (tag : BitVec 12) (die : Nat) (data : List Byte)
  | msixCoalesce (t : Tb) (r : RingId)
  | eventPost (t : Tb)
  | hostWatchTimeout (t : Tb)
  -- resets and boot (R434 to R443)
  | powerOnReset (t : Tb)
  | perstNAssert (t : Tb)
  | perstNRelease (t : Tb) (env : BootEnv)
  | bootStageTimeout (t : Tb)
  -- faults and recovery
  | fwWatchdog (t : Tb) (d : Nat) (rec : Option RecEnv) (boot : Option BootEnv)
  | dieRecoveryTimeout (t : Tb) (d : Nat)
  | handlingDequeue (t : Tb) (d : Nat) (rec : Option RecEnv)
  | journalAppend (t : Tb)
  | protTrip (t : Tb) (n : Nat) (above : Bool)
  | senseDiverge (t : Tb) (n : Nat)
  | overtempStage (t : Tb) (n : Nat) (pmu : Bool)
  | otFlagClear (t : Tb) (n : Nat) (pmu : Bool)
  | pllLol (t : Tb) (d : Nat)
  | holdoverExit (t : Tb) (d : Nat)
  | relockDone (t : Tb) (d : Nat) (ok : Bool)
  | trackedStepDone (t : Tb) (d : Nat)
  | guardHit (t : Tb) (d : Nat)
  | tbpllLol (t : Tb) (d : Nat) (rec : Option RecEnv) (boot : Option BootEnv)
  | rpsFault (t : Tb) (d : Nat) (ctx : BitVec 3) (kind : BitVec 4) (addr : BitVec 13) (rec : Option RecEnv)
      (boot : Option BootEnv)
  | bridgeDegrade (t : Tb) (port : Nat)
  -- lock link, triggers and ripple
  | llFrame (t : Tb) (dn : Bool) (frame : BitVec 80)
  | llSuperframe (t : Tb) (dn : Bool) (sf : BitVec 128) (phaseErr : BitVec 16)
  | llEventAct (t : Tb)
  | llLinkLost (t : Tb) (dn : Bool)
  | trigInEdge (t : Tb) (line : BitVec 2) (level : Bool)
  | rippleArm (t : Tb) (kind : BitVec 1) (id : Nat)
  | rippleFire (t : Tb) (kind : BitVec 1) (id : Nat)
  | holdoffEnd (t : Tb) (k : Nat)
  | rearmEnd (t : Tb) (k : Nat)
  | disarmTick (t : Tb) (kind : BitVec 1) (id : Nat)
  | rippleAbort (t : Tb) (k : Nat)
  | rippleSync (t : Tb) (tag : BitVec 12)
  | refdacUpdate (t : Tb) (d : Nat)
  | chargeClearTick (t : Tb) (tag : BitVec 12)
  | captureStartTick (t : Tb) (k s : Nat)
  | captureStopTick (t : Tb) (k s : Nat)
  -- steps of a run
  | runArm (t : Tb) (tag : BitVec 12)
  | runBegin (t : Tb) (tag : BitVec 12) (phase : BitVec 32)
  | segmentStart (t : Tb) (k : Nat)
  | runEnd (t : Tb) (tag : BitVec 12)
  | branchDecision (t : Tb) (k : Nat) (seen : List Bool)
  | dict (t : Tb) (k : Nat)
  | repeatTok (t : Tb) (k : Nat)
  | literal (t : Tb) (k : Nat)
  | nop (t : Tb) (k : Nat)
  | swap (t : Tb) (k : Nat)
  | timerStart (t : Tb) (k : Nat)
  | timerStop (t : Tb) (k : Nat)
  | maskStrobe (t : Tb) (k : Nat)
  | unmaskStrobe (t : Tb) (k : Nat)
  | seqEvent (t : Tb) (k : Nat)
  | clusterTimerExpiry (t : Tb) (k : Nat) (j : BitVec 2)
  | failLogEntry (t : Tb) (k : Nat) (copy : Nat) (above : BitVec 8) (below : BitVec 8) (full : Bool)
  | dacUpdateInstant (t : Tb) (n : Nat)
  | springIssue (t : Tb) (k i : Nat)
  | springComplete (t : Tb) (k i : Nat)
  | springLate (t : Tb) (k i : Nat)
  | hold (t : Tb) (g : Nat) (h : Tb) (d : Nat)
  | holdEntry (t : Tb) (k : Nat)
  | resume (t : Tb) (g : Nat)
  | timelineResume (t : Tb) (k : Nat)
  | stretchLimit (t : Tb) (g : Nat)
  | runLimit (t : Tb) (tag : BitVec 12)
  | segWatchdog (t : Tb) (k : Nat)
  -- measurement and reduction
  | sarSample (t : Tb) (n : Nat) (codes : List (BitVec 18)) (clamp hit live : Bool) (batchEnd : Bool)
  | chargeIncrement (t : Tb) (n : Nat) (m : Nat) (dq : Int) (ovr clamp hit live : Bool) (batchEnd : Bool)
  | gapRecord (t : Tb) (k s : Nat)
  | recordCloseTimeout (t : Tb) (k s : Nat)
  | captureDrain (t : Tb) (k s : Nat)
  | windowOpen (t : Tb) (k i : Nat)
  | closePass (t : Tb) (k i : Nat)
  | rpsDone (t : Tb) (d c : Nat) (kelvinFail : BitVec 8)
  -- memory
  | maintenanceWindow (t : Tb) (d ch : Nat) (mr4 mr4b : Option (BitVec 3)) (pass : BitVec 2) (wake : BitVec 2)
  | retrainInterval (t : Tb) (d : Nat)
  | reformDone (t : Tb) (d : Nat)
  | dramPowerDown (t : Tb) (d ch rank : Nat)
  | agePromotion (t : Tb) (d : Nat)
  -- thermal
  | thermalWatch (t : Tb) (d : Nat)
  | thermalConversion (t : Tb) (d : Nat) (reading : Option (BitVec 16)) (rec : Option RecEnv) (boot : Option BootEnv)
  | graceExpiry (t : Tb) (d : Nat)
  -- serial port and flash
  | mmf (t : Tb)
  | mmfBackoffExpiry (t : Tb) (idle : Bool)
  | flashOpDone (t : Tb)
  | xipTimeout (t : Tb)
  | spSlvSelNFall (t : Tb) (opcodeSent : Bool)
  | spSlvSelNRise (t : Tb) (partialWord : Bool)
  -- rows the table gives last
  | returnToD0 (t : Tb)
  | bulkTransferStart (t : Tb) (tag : BitVec 12) (die : Nat) (header : List Byte)
  | bulkDeadlineStop (t : Tb) (tag : BitVec 12) (moved : Nat)
  | fullRetrainDone (t : Tb) (d : Nat) (env : DramEnv)
  | verificationDone (t : Tb) (tag : BitVec 12)
  deriving DecidableEq, Repr

end Sys2Proof
end

