-- ==== Sys2Proof/Decode.lean ====
section
/-! DEFINITION. Commands from words: spec/opcode_table.json gives its rows no bits, so no word spells a command. The
64-byte descriptors of the mailbox (R306) are decoded by the fetch, in Machine/Mailbox.lean. -/

namespace Sys2Proof

/-- The command that a word of `nbits` bits spells by the opcode table's bits: the table gives none. -/
def decodeTableWord (_nbits _w : Nat) : Option Instr := none

end Sys2Proof
end

