-- ==== Sys2Proof/Machine/Bits.lean ====
section
/-! DEFINITION. Byte order, bit fields, saturating counts and the operations of a byte memory. -/

namespace Sys2Proof.Machine

/-- The low `n` bytes of `v`, least significant first (R9). -/
def leBytes : Nat → Nat → List Byte
  | 0, _ => []
  | n + 1, v => BitVec.ofNat 8 (v % 256) :: leBytes n (v / 256)

/-- The value of bytes in little-endian order (R9). -/
def ofLe : List Byte → Nat
  | [] => 0
  | b :: bs => b.toNat + 256 * ofLe bs

/-- A Boolean as a bit. -/
def bit (b : Bool) : Nat := if b then 1 else 0

/-- The bit field [hi:lo] of `v`. -/
def field (v hi lo : Nat) : Nat := v / 2 ^ lo % 2 ^ (hi + 1 - lo)

/-- A 32-bit word put together from fields: pairs of the field's lowest bit and its value. -/
def packWord (fs : List (Nat × Nat)) : Word := BitVec.ofNat 32 ((fs.map fun f => f.2 * 2 ^ f.1).sum)

/-- `v` as a 32-bit word, its low bits. -/
def word (v : Nat) : Word := BitVec.ofNat 32 v

/-- The low word of a 64-bit quantity. -/
def loWord (v : Nat) : Word := BitVec.ofNat 32 v

/-- The high word of a 64-bit quantity. -/
def hiWord (v : Nat) : Word := BitVec.ofNat 32 (v / 2 ^ 32)

/-- A count of `w` bits that holds at its largest value. -/
def satTo (w v : Nat) : Nat := min v (2 ^ w - 1)

/-- A 32-bit saturating count plus one. -/
def inc32 (v : Nat) : Nat := satTo 32 (v + 1)

/-- A 32-bit saturating count plus `n`. -/
def add32 (v n : Nat) : Nat := satTo 32 (v + n)

/-- The signed value of the low `w` bits of `v`. -/
def signed (w v : Nat) : Int :=
  let m := v % 2 ^ w
  if m < 2 ^ (w - 1) then (m : Int) else (m : Int) - (2 ^ w : Nat)

/-- A signed value in two's complement on `w` bits. -/
def twos (w : Nat) (v : Int) : Nat := (v % ((2 ^ w : Nat) : Int)).toNat

/-- `v` rounded up to a multiple of `m`. -/
def roundUp (v m : Nat) : Nat := (v + m - 1) / m * m

/-- The smallest whole number at or above a quotient. -/
def ceilDiv (a b : Nat) : Nat := (a + b - 1) / b

/-- Bit `i` of a mask. -/
def hasBit {w : Nat} (m : BitVec w) (i : Nat) : Bool := m.getLsbD i

/-- A mask with bit `i` set. -/
def setBit {w : Nat} (m : BitVec w) (i : Nat) : BitVec w := m ||| BitVec.ofNat w (2 ^ i)

/-- A mask with bit `i` cleared. -/
def clearBit {w : Nat} (m : BitVec w) (i : Nat) : BitVec w := m &&& ~~~(BitVec.ofNat w (2 ^ i))

/-- The set bits of a mask of `w` bits, ascending. -/
def bitsOf {w : Nat} (m : BitVec w) : List Nat := (List.range w).filter fun i => m.getLsbD i

/-- The mask of a list of bit numbers. -/
def maskOf (w : Nat) (is : List Nat) : BitVec w := is.foldl (fun m i => setBit m i) 0

/-- Bytes `n` of a list from `off` on; a byte past its end reads 0. -/
def sliceBytes (bs : List Byte) (off n : Nat) : List Byte :=
  (List.range n).map fun i => bs.getD (off + i) 0

/-- A little-endian field of a byte list. -/
def fieldAt (bs : List Byte) (off n : Nat) : Nat := ofLe ((bs.drop off).take n)

/-! ### Byte memory -/

/-- What a memory reads at an address; `d` is what an unlisted address reads as. -/
def Mem.get (d : Byte) : Mem → Nat → Byte
  | [], _ => d
  | c :: m, a => if a = c.1 then c.2 else Mem.get d m a

/-- A memory after one byte is written. The canonical form is kept: addresses stay rising and a byte equal to what an
unlisted address reads as is not listed. -/
def Mem.set (d : Byte) : Mem → Nat → Byte → Mem
  | [], a, v => if v = d then [] else [(a, v)]
  | c :: m, a, v =>
    if a < c.1 then (if v = d then c :: m else (a, v) :: c :: m)
    else if a = c.1 then (if v = d then m else (a, v) :: m)
    else c :: Mem.set d m a v

/-- A memory after bytes are written from an address on. -/
def Mem.setBytes (d : Byte) : Mem → Nat → List Byte → Mem
  | m, _, [] => m
  | m, a, v :: vs => Mem.setBytes d (Mem.set d m a v) (a + 1) vs

/-- The entries that a run of bytes from an address on makes in a memory. -/
def Mem.ofBytes (d : Byte) : Nat → List Byte → Mem
  | _, [] => []
  | a, v :: vs => if v = d then Mem.ofBytes d (a + 1) vs else (a, v) :: Mem.ofBytes d (a + 1) vs

/-- A memory after a block of bytes is written from an address on, at once. -/
def Mem.put (d : Byte) (m : Mem) (a : Nat) (vs : List Byte) : Mem :=
  (m.filter fun c => decide (c.1 < a)) ++ Mem.ofBytes d a vs ++ m.filter fun c => decide (a + vs.length ≤ c.1)

/-- `n` bytes of a memory from an address on. -/
def Mem.bytes (d : Byte) (m : Mem) (a n : Nat) : List Byte := (List.range n).map fun i => Mem.get d m (a + i)

/-- A little-endian value of `n` bytes. -/
def Mem.le (d : Byte) (m : Mem) (a n : Nat) : Nat := ofLe (Mem.bytes d m a n)

/-- A memory in which every byte from `lo` to `lo + n - 1` reads as an unlisted one. -/
def Mem.clear (m : Mem) (lo n : Nat) : Mem := m.filter fun c => decide (c.1 < lo ∨ lo + n ≤ c.1)

/-- The canonical form: addresses strictly rising, and no entry equal to what an unlisted address reads as. -/
def Mem.wf (d : Byte) : Mem → Bool
  | [] => true
  | c :: m => (c.2 != d) && m.all (fun e => decide (c.1 < e.1)) && Mem.wf d m

/-- The byte an unlisted address of DRAM, of an SRAM and of calibration RAM reads as (log entry 3). -/
def ramByte : Byte := 0

/-- The byte erased flash reads as (R362, R366; log entry 3). -/
def flashByte : Byte := 0xFF

end Sys2Proof.Machine
end

