-- ==== Sys2Proof/Config.lean ====
section
/-! DEFINITION. What an implementation fixes and the spec leaves open: constants without a body, so that no proof can
use a value of them. -/

namespace Sys2Proof.Config

/-- A value that the spec leaves open and that the part nevertheless produces. The argument is the state's counter
`free`, which the step advances at each use, so that each use is a value of its own (log entry 7). -/
opaque freeValue : Nat → BitVec 64

/-- The integer that a NaN constant gives in CAPACITY (R187), which the spec does not state (log entry 78). -/
opaque nanInteger : BitVec 32 → Int

/-- The micro ROM of the range and protection sequencer (R427), whose contents the spec does not list (log entry 80). -/
opaque microRom : BitVec 12 → BitVec 24

/-- The nano ROM (R427), whose contents the spec does not list (log entry 80). -/
opaque nanoRom : BitVec 11 → BitVec 128

/-- The kind code of a request, which the spec does not number (R424); the argument is the request's place in the model's list
(log entry 80). -/
opaque requestKind : Nat → BitVec 8

/-- What the microcode condition SETTLED finds on a channel at a TB (R423): the force loop's error lies inside its window (log
entry 80). -/
opaque loopSettled : Nat → Nat → Bool

/-- The resistance that a Kelvin measurement begun at a TB finds on a channel (R60, R423; log entry 80). -/
opaque kelvinOhms : Nat → Nat → Rat

/-- The bank of a rank and the row in which a 64-byte piece of a DRAM channel lies, which the spec keeps internal (R257, R265; log
entry 81). -/
opaque dramPlace : Nat → Nat × Nat

/-- What a byte of a die's training area, which the DRAM controller alone uses, reads as at a TB (R257; log entry 81). -/
opaque trainingByte : Nat → Nat → BitVec 8

end Sys2Proof.Config
end

