-- ==== Sys2Proof/Machine/State.lean ====
section
/-! DEFINITION. The state of the block as plain data, the reasons a step can stop, and the state after reset.

Times of TB are whole ticks; exact times within a run are rational numbers of nanoseconds. Registers that the spec
numbers bit by bit keep their width; counts and indexes are natural numbers. -/

namespace Sys2Proof.Machine

/-! ### Enumerations -/

/-- The model of the family (R1). -/
inductive Model where
  | lx8512 | lx4256 | lx2128
  deriving DecidableEq, Repr, Inhabited

/-- The mode of a channel (R63, R78). -/
inductive Mode where
  | off | digital | fv | fi | hizMeas
  deriving DecidableEq, Repr, Inhabited

/-- STATUS of a reply (R314). -/
inductive Status where
  | ok | refusedTime | refusedPower | refusedBandwidth | refusedSlots | badArg | badState | revoked | short
  | timeout | hwFault | notAvailable | authFail | refusedUncal
  deriving DecidableEq, Repr, Inhabited

/-- Severity of an event (R336). -/
inductive Sev where
  | info | degrade | channel | cluster | die | part
  deriving DecidableEq, Repr, Inhabited

/-- DIE_STATE (R335). -/
inductive DieSt where
  | absent | active | offline | thermalOff | recovering
  deriving DecidableEq, Repr, Inhabited

/-- PART_STATE (R291). -/
inductive PartSt where
  | booting | ready | degraded | failed
  deriving DecidableEq, Repr, Inhabited

/-- RSTATE of a run (R325). -/
inductive RState where
  | accepted | arming | running | hold | ending
  deriving DecidableEq, Repr, Inhabited

/-! ### Host interface: rings, replies, events -/

/-- A reply as written to an outlet (R310). `result` holds bytes +0x10 to +0x1F, little-endian. -/
structure Reply where
  opcode : BitVec 16
  status : Status
  detail : BitVec 8
  tag    : BitVec 12
  epoch  : BitVec 16
  tb     : Tb
  result : BitVec 128
  deriving DecidableEq, Repr, Inhabited

/-- A reply held inside the part (R296): `last` says that posting it frees its tag (R309); `cause` is the SEQ of the
event that must be written first (R347), 0 for none; `group` is the lock group of a final reply, within which the order
of acceptance holds (R219), and `dies` the dies of its command (R214). -/
structure Held where
  reply : Reply
  last  : Bool
  cause : Nat
  group : Option Nat
  dies  : BitVec 8
  deriving DecidableEq, Repr, Inhabited

/-- An outlet or the event ring (R292, R293, R295). `index` is the part's producer index, `peer` the host's consumer
index; `lastMsi` the TB of its previous message and `msiOwed` that entries were written since. -/
structure Ring where
  base     : BitVec 64
  sizeLog2 : Nat
  enable   : Bool
  vector   : Nat
  index    : BitVec 16
  peer     : BitVec 16
  wb       : BitVec 64
  coal     : Nat
  lastMsi  : Option Tb
  msiOwed  : Bool
  held     : List Held
  deriving DecidableEq, Repr, Inhabited

/-- A descriptor between fetch and decision (R296): the decoded command (its time operand 0), the TB from which the bound
of its decision runs (its doorbell, or the opening of its fence), and FENCE (R307). -/
structure Fetched where
  cmd   : Instr
  dbTb  : Tb
  fence : Bool
  deriving DecidableEq, Repr

/-- An inlet (R292 to R296). `index` is the part's consumer index, `peer` the host's producer index, `announced` the
doorbell TB of every descriptor announced and not fetched, `retried` that the fetch at `index` has failed once (R299),
`fenced` that a FENCE descriptor waits (R307). -/
structure Inlet where
  base      : BitVec 64
  sizeLog2  : Nat
  enable    : Bool
  index     : BitVec 16
  peer      : BitVec 16
  stopped   : Bool
  announced : List Tb
  retried   : Bool
  slot      : Option Fetched
  deriving DecidableEq, Repr

/-- An event record (R338). -/
structure Event where
  tb        : Tb
  seq       : Nat
  code      : BitVec 16
  epoch     : BitVec 16
  sev       : Sev
  escalated : Bool
  ovfBefore : Bool
  locKind   : Nat
  location  : Nat
  run       : BitVec 16
  linkBack  : Nat
  detail    : BitVec 64
  deriving DecidableEq, Repr, Inhabited

/-- The device event queue and the event registers of die 0 (R318, R348, R350), with the host watch (R317). `jobs` are
the J events that wait to be appended to the journal (R349), `bootQ` the events that wait for READY (R443). -/
structure EventUnit where
  queue     : List Event
  seqNext   : Nat
  ovfCnt    : Nat
  ovfBefore : Bool
  filterCnt : Nat
  posted    : Nat
  minSev    : Bool
  watch     : Bool
  hostLoss  : Nat
  hostLost  : Bool
  lastSign  : Tb
  jobs      : List Event
  bootQ     : List Event
  deriving DecidableEq, Repr, Inhabited

/-- The interrupt cause registers, part status, link and power state of the endpoint (R277 to R282, R291, R297). -/
structure Pci where
  intOutlet   : BitVec 16
  intEvent    : Bool
  intEventOvf : Bool
  intInletErr : Bool
  intDmaErr   : Bool
  intLink     : Bool
  intPtm      : Bool
  intHeld     : Bool
  fetchMax    : Nat
  width       : Nat
  speed       : Nat
  l1          : Bool
  aspmL1      : Bool
  d3hot       : Bool
  bar2Discard : Nat
  bar0Partial : Nat
  dbBad       : Nat
  apBaseLo    : BitVec 4
  apBaseHi    : BitVec 2
  apDie       : BitVec 3
  apBad       : Bool
  msix        : List Word
  maskAll     : BitVec 64
  pba         : BitVec 64
  lastFetch   : Nat
  deriving DecidableEq, Repr, Inhabited

/-- PTM (R302, R303). `lastDialogue` holds the t1 of the previous dialogue. -/
structure Ptm where
  enable   : Bool
  interval : Nat
  valid    : Bool
  pairs    : Nat
  pairTb   : Nat
  pairHost : BitVec 64
  prop     : Nat
  prevT1   : Option Tb
  missed   : Nat
  deriving DecidableEq, Repr, Inhabited

/-- The diagnostic indirect window (R304, R305). `readyTb` is the TB at which the operation in hand completes. -/
structure Diag where
  addrLo  : Word
  addrHi  : BitVec 8
  count   : Nat
  write   : Bool
  snap    : Bool
  busy    : Bool
  early   : Bool
  valid   : Nat
  status  : BitVec 8
  data    : List Word
  readyTb : Tb
  deriving DecidableEq, Repr, Inhabited

/-- The latched upper halves of one access path (R287): pairs of the _LO register's address and the latched value. -/
abbrev Latches := List (Nat × Word)

/-- A frozen snapshot group of BAR 0 (R288): the group and the copied words. -/
structure Frozen where
  group : Nat
  words : List (Nat × Word)
  deriving DecidableEq, Repr, Inhabited

/-! ### Boot and identity -/

/-- Boot status (R290, R436 to R446). -/
structure Boot where
  stage      : BitVec 8
  ready      : Bool
  fwSlot     : Bool
  firstSlot  : Bool
  failDetail : BitVec 8
  readyTb    : Tb
  fwVersion  : Word
  resetCause : Nat
  rollback   : Nat
  dieOff     : BitVec 8
  stageTb    : List Tb
  perstLow   : Bool
  powerGood  : Bool
  part       : PartSt
  epoch      : BitVec 16
  deriving DecidableEq, Repr, Inhabited

/-- What the part read of the identity and board data area at its last reset (R245, R278, R364): the signing policy, the
key slots that hold a key with their 96 bytes, and the subsystem IDs. -/
structure Ident where
  signing : Bool
  keyMask : BitVec 4
  keys    : List (List Byte)
  subVendor : BitVec 16
  subId   : BitVec 16
  deriving DecidableEq, Repr, Inhabited

/-- One-time programmable fuses (R441, R442, R445, R290). -/
structure Otp where
  serial   : BitVec 64
  keyHash  : List Word
  rollback : Nat
  deriving DecidableEq, Repr, Inhabited
/-! ### The weir -/

/-- A tag in flight (R309): its class decides the limit of R209. -/
structure TagUse where
  tag : BitVec 12
  cls : Nat
  deriving DecidableEq, Repr, Inhabited

/-- What an accepted command waits for: the data that its later steps need. A class 3 command names its resource (R217; bit
d die d, bit 8 the serial port and the flash), its bound in ns and, while an earlier one uses the resource, itself. -/
inductive WorkKind where
  | plain
  | rps (reqId : Nat)
  | force (die : Nat)
  | measure (n : Nat) (from_ : Tb)
  | refdac (die j : Nat)
  | trigArm (kind id : Nat) (a : Tb)
  | trigDisarm (kind id : Nat) (d : Tb)
  | capStart (k : Nat) (streams : BitVec 16) (tick : Tb)
  | capStop (k : Nat) (streams : BitVec 16) (tick : Tb)
  | chargeClear (k : Nat) (lanes : BitVec 8) (b : Tb)
  | run
  | stopOf (run : BitVec 12)
  | abortOf (run : BitVec 12)
  | endingOf (run : BitVec 12)
  | bulk
  | verify (image : Nat)
  | pllSet (die : Nat)
  | pllSync (mask lost : BitVec 8) (t : Tb)
  | thermal (die sensor : Nat)
  | thermalClear (die : Nat)
  | class3 (resource : BitVec 9) (bound : Nat) (waiting : Option Instr)
  deriving DecidableEq, Repr, Inhabited

/-- An accepted command without its final reply (R195): in acceptance order in `State.works`. `group` is the lock
group that orders its final reply (R312); `dieMask` the dies it touches; `moving` that it has started; `done` its formed
final reply, held for an earlier command of the same inlet and group (R219), with the SEQ of its cause event. -/
structure Work where
  tag     : BitVec 12
  inlet   : Nat
  opcode  : BitVec 16
  cls     : Nat
  start   : Tb
  promise : Tb
  deadline : Tb
  group   : Option Nat
  dieMask : BitVec 8
  moving  : Bool
  kind    : WorkKind
  done    : Option (Reply × Nat)
  deriving DecidableEq, Repr, Inhabited

/-- The weir's own settings and counters (R204, R205, R223, R224). The caps of a die stand in `Die`. -/
structure Weir where
  horizonRun  : Nat
  horizonBulk : Nat
  decideMax   : Nat
  decideLate  : Nat
  refuse      : List Nat
  accept      : List Nat
  deriving DecidableEq, Repr, Inhabited

/-- One BULK transfer of an accepted class 2 command (R213): its die, direction, bytes, granted rate, window and DMA
channel. `dir` true is host to part. -/
structure Bulk where
  tag     : BitVec 12
  die     : Nat
  dir     : Bool
  bytes   : Nat
  rate    : Nat
  start   : Tb
  stop    : Tb
  channel : Nat
  moving  : Bool
  moved   : Nat
  late    : Bool
  slow    : Bool
  source  : Nat
  host    : BitVec 64
  done    : Bool
  deriving DecidableEq, Repr, Inhabited

/-- A DMA channel's last state (R291): what DMA_STATE and DMA_DONE show of it. -/
structure Dma where
  doneKib : Nat
  deriving DecidableEq, Repr, Inhabited

/-- An accepted run (R197 to R203). Times are S, A, P and the end of its window. `loads` gives per die the arm bytes,
SPRING_PEAK and LOAD_PEAK. `mapped` lists the mapped channels. `stopTb` is a stop that waits for the master's first
segment boundary at or after a TB, with the reply that it gives (R142, R401); `outcome` the end decided for it before
RUN_END, with the SEQ of its cause; `held` the ticks it has spent in holds that a RESUME has ended, `holds` the hold times
sent to its dies, `holdTb` the one of the stretch in hand and `lateEnd` the TB at which its late entries had all
completed (R140). -/
structure Run where
  tag       : BitVec 12
  inlet     : Nat
  group     : Nat
  image     : Nat
  s         : Tb
  a         : Tb
  p         : Tb
  d         : Nat
  windowEnd : Tb
  stretch   : Bool
  state     : RState
  loads     : List (Nat × Nat × Nat)
  mapped    : List Nat
  firstVec  : Tb
  held      : Nat
  holds     : List Tb
  holdTb    : Option Tb
  lateEnd   : Option Tb
  stopTb    : Option (Tb × Status × BitVec 8)
  outcome   : Option (Status × BitVec 8)
  cause     : Nat
  broken    : Bool
  lateUntaken : Bool
  dramLost  : Bool
  stretched : Bool
  endTb     : Tb
  deriving DecidableEq, Repr, Inhabited

/-- A lock group (R199). -/
structure Group where
  members : BitVec 64
  master  : Option Nat
  span    : Bool
  slot    : Nat
  deriving DecidableEq, Repr, Inhabited

/-- ISTATE of an image (R324). -/
inductive IState where
  | loading | loaded | verifying | verified | broken
  deriving DecidableEq, Repr, Inhabited

/-- An image slot in use (R246): its id, state, its bytes as loaded, the DRAM it takes on each die in 4 KiB units, and
where its sections lie on each die; `duration` holds DURATION, and the size named while the image loads; `lost` are the
dies that have lost its content (R253, R272); `loads` the verified loads of its clusters' recipes (R183, R192). -/
structure Image where
  id       : Nat
  state    : IState
  dieMask  : BitVec 8
  bytes    : List Byte
  units    : List Nat
  places   : List (List (Nat × Nat))
  duration : Nat
  lost     : BitVec 8
  loads    : List (Nat × Nat)
  deriving DecidableEq, Repr, Inhabited

/-! ### Channels -/

/-- An entry of a channel's code queue (R43); `owner` is the tag of the CHANNEL_FORCE that queued it. -/
structure QEntry where
  code  : BitVec 18
  kind  : BitVec 3
  apply : Bool
  owner : Option (BitVec 12) := none
  deriving DecidableEq, Repr, Inhabited

/-- CH_STATE (R78). -/
structure ChState where
  mode         : Mode
  still        : Bool
  range        : BitVec 3
  switchClosed : Bool
  rpsBusy      : Bool
  inRun        : Bool
  gangMember   : Bool
  gangMeas     : Bool
  gangSizeM1   : BitVec 3
  clampLive    : Bool
  otDrvLive    : Bool
  otPmuLive    : Bool
  rangeSettle  : Bool
  lastCause    : BitVec 4
  deriving DecidableEq, Repr, Inhabited

/-- CH_FLAGS (R78). -/
structure ChFlags where
  otDrv        : Bool
  otPmu        : Bool
  clampHit     : Bool
  protTrip     : Bool
  senseDiverge : Bool
  senseOpen    : Bool
  queueEmpty   : Bool
  overrange    : Bool
  deriving DecidableEq, Repr, Inhabited

/-- CH_CFG (R78). -/
structure ChCfg where
  hyst       : BitVec 3
  termEn     : Bool
  dclampEn   : Bool
  senseCheck : Bool
  deriving DecidableEq, Repr, Inhabited

/-- The codes of a channel's DACs: the force code and the seven level codes VIH, VIL, VTT, VOH, VOL, CLAMP_HI and
CLAMP_LO (R42, R47). -/
structure Codes where
  force  : BitVec 18
  levels : List (BitVec 16)
  deriving DecidableEq, Repr, Inhabited

/-- The state of a channel's driver (R53, R109). -/
inductive Drive where
  | off | low | high | term
  deriving DecidableEq, Repr, Inhabited

/-- A still-code table entry as it stands in force for a channel (R68, R70). -/
structure StillCodes where
  connected : Bool
  mode      : Mode
  range     : BitVec 3
  force     : BitVec 18
  clampHi   : BitVec 16
  clampLo   : BitVec 16
  deriving DecidableEq, Repr, Inhabited

/-- What a channel was until a TB: its mode and range, whether its switch was closed and RANGE_SETTLE was 1. -/
structure PinPast where
  until_ : Tb
  mode   : Mode
  range  : BitVec 3
  closed : Bool
  settle : Bool
  deriving DecidableEq, Repr, Inhabited

/-- The measure registers of a channel (R171) and the charge integrator (R149 to R152): `frac` is the part of a unit
that the calibrated increment left over, `clearAt` the TB of a clear that a run asks for and that is not due yet, `cleared` the
TB of the last clear; `avgFrom` the TB from which samples at the present averaging may be stamped (R145). -/
structure Meas where
  sel      : BitVec 2
  avgM1    : BitVec 16
  avgFrom  : Tb
  lastTb   : Tb
  last     : Word
  chg      : BitVec 64
  chgTb    : Tb
  ovr      : Bool
  chgSat   : Bool
  fails    : Nat
  frac     : Int
  clearAt  : Option Tb
  cleared  : Tb
  deriving DecidableEq, Repr, Inhabited

/-- The waveform a channel's resampler plays (R131 to R134): its descriptor, the sample index `i`, the remainder `num`,
the history of eight samples, whether its ONE_SHOT end is past and whether it waits for a streamed sample. -/
structure Wave where
  index   : Nat
  i       : Nat
  num     : Nat
  hist    : List Nat
  ended   : Bool
  stalled : Bool
  deriving DecidableEq, Repr, Inhabited

/-- A host force group that waits for its lane's instant, the first DAC instant at or after `instant` (R44, R323). -/
structure HostForce where
  tag     : BitVec 12
  instant : Tb
  entries : List QEntry
  deriving DecidableEq, Repr, Inhabited

/-- A pin channel (R41, R78, R171). `grid` is the TB from which a run's DAC grid counts (R132), none outside
runs; `faulted` marks a channel that a CHANNEL fault took out of its run (R340); `savedCfg` are the settings to return
to at the run's end (R78); `lastEdge` and `lastStrobe` the exact times of the edge generator's last drive event and
strobe in fine units, `prevStrobe` that of the last strobe before the last token (R99); `waveNext` a waveform start or
stop (0xFFFF) that waits for its TB, `levelDue` that a level-set group is due (R121, R132). The first 16 entries of `queue`
stand in the FIFO of R34 and R43; what stands behind them waits to enter it, since the spec gives only its empty case (DESIGN
CHOICE, unsafe, log entry 77). `past` is what the channel was before its latest changes, the newest first, as far back as
a sample or an increment still looks (R147, R150). `anaHeld` are the outputs of the DACs, by KIND, that were loaded before the
coefficients changed (R376, R388). -/
structure Chan where
  st       : ChState
  fl       : ChFlags
  dac      : Codes
  shadow   : Codes
  dacDiv   : Nat
  cfg      : ChCfg
  queue    : List QEntry
  qEmpty   : Nat
  drive    : Drive
  still    : StillCodes
  override : Option StillCodes
  forces   : List HostForce
  meas     : Meas
  wave     : Option Wave
  grid     : Option Tb
  faulted  : Bool
  savedCfg : Option ChCfg
  lastEdge : Rat
  lastStrobe : Rat
  prevStrobe : Rat
  waveNext : Option (Tb × Nat)
  levelDue : Bool
  past     : List PinPast
  anaHeld  : List (Option Nat)
  deriving DecidableEq, Repr
/-! ### Clocks and the lock link -/

/-- A pattern PLL setting (R86). -/
structure PllSetting where
  frac   : BitVec 32
  nint   : BitVec 8
  post   : BitVec 6
  dither : Bool
  seed   : BitVec 32
  deriving DecidableEq, Repr, Inhabited

/-- The fractional modulator of a pattern PLL (R87): its dither LFSR and its three accumulators as of the REF cycle at or
before `asOf` (log entry 79). -/
structure Modulator where
  lfsr : BitVec 32
  acc1 : BitVec 32
  acc2 : BitVec 32
  acc3 : BitVec 32
  asOf : Tb
  deriving DecidableEq, Repr, Inhabited

/-- The pattern PLL of a die (R85 to R94, R107). `target` is the setting a tracked step or a relock moves to; `cmd` the
tag of the PLL_SET it executes for; `waiting` the PLL_SETs accepted behind it (R88); `edge` an instant, in ns of TB+fine, at
which a ×4 rising edge lies, counted on or back at the frequency that a tracked step in progress began at, else at the present
one, none while nothing has shown the phase that a lock has left (R469); `switchTb` the tick of the latest switch to or from
holdover (R90). -/
structure Pll where
  set      : PllSetting
  locked   : Bool
  holdover : Bool
  tracking : Bool
  relocking : Bool
  synced   : Bool
  lol      : Bool
  guardHit : Bool
  lolCnt   : Nat
  lolTb    : Tb
  syncTb   : Tb
  target   : Option PllSetting
  startTb  : Tb
  from_    : Rat
  cmd      : Option (BitVec 12)
  waiting  : List (BitVec 12 × PllSetting)
  modulator : Modulator
  edge     : Option Rat
  switchTb : Option Tb
  deriving DecidableEq, Repr

/-- An event word of the lock link (R102). -/
structure LlEvent where
  slot     : Nat
  line     : Nat
  t8       : Tb
  deriving DecidableEq, Repr, Inhabited

/-- The lock link of die 0 (R101 to R107). `evs` are events waiting for their act time, `qUp` and `qDn` the events
queued to leave by a port, each with the TB of the frame that carries it; `overdue` are events that found no frame in
time and whose LL_FAULT has not been raised yet (R106): slot + 8 × port; `sfUp` and `sfDn` the last superframe of a port,
its SF_TB and the TB of its start; `offset` the master-side time less the part's TB, in ticks; `returned` that the link
has been lost and no superframe has shown an offset within ±500 ps since, `stray` that one has shown a larger offset since
(R104); `mgmtUp` and `mgmtDn` the latest MGMT nibbles of a port, at most 32 (R102); `trim` the fine-unit steps by which the
part has trimmed the phase of its time-base PLL, and `trimTb` the time up to which the rate of 1 ps per µs is used up (R103). -/
structure LockLink where
  role     : Nat
  lat      : Nat
  up       : Bool
  dn       : Bool
  aligned  : Bool
  late     : Bool
  transit  : Nat
  phaseErr : BitVec 16
  crcCnt   : Nat
  evs      : List LlEvent
  qUp      : List (LlEvent × Tb)
  qDn      : List (LlEvent × Tb)
  sfUp     : Option (BitVec 64 × Tb)
  sfDn     : Option (BitVec 64 × Tb)
  offset   : Int
  returned : Bool
  stray    : Bool
  mgmtUp   : List (BitVec 4)
  mgmtDn   : List (BitVec 4)
  trim     : Int
  trimTb   : Rat
  overdue  : List Nat
  deriving DecidableEq, Repr, Inhabited

/-! ### Vector sequencer -/

/-- STATE of a sequencer (R143). -/
inductive SeqSt where
  | idle | armed | running | hold | ending | done
  deriving DecidableEq, Repr, Inhabited

/-- A cluster timer (R113). `expiry` is when a running one reaches its count; `stamp` when an expired one did. -/
structure Timer where
  running : Bool
  expired : Bool
  expiry  : Tb
  stamp   : Tb
  deriving DecidableEq, Repr, Inhabited

/-- SEQ_FLAGS (R143). -/
structure SeqFlags where
  underrun     : Bool
  stretched    : Bool
  jumpDeferred : Bool
  lateDropped  : Bool
  springLate   : Bool
  waveUnderrun : Bool
  deriving DecidableEq, Repr, Inhabited

/-- SEQ_BR_LAST (R143). -/
structure BrLast where
  branch    : Nat
  result    : Bool
  uncertain : Bool
  deferred  : Bool
  deriving DecidableEq, Repr, Inhabited

/-- A loop level in force (R122): the BEGIN segment that pushed it and the iterations that remain. -/
structure LoopLevel where
  begin_ : Nat
  remain : Nat
  deriving DecidableEq, Repr, Inhabited

/-- A spring entry queued or in flight (R136): its index, the bound segment's σ, whether it has issued and whether its
deadline has passed; `at_` is the place in its waveform ring, in samples from the run's start, that it was issued for. -/
structure SpringQ where
  entry  : Nat
  sigma  : Rat
  issued : Bool
  late   : Bool
  at_    : Nat
  deriving DecidableEq, Repr

/-- A waveform ring (R130, R136): samples asked for, written and consumed since the run's start. -/
structure WaveRing where
  asked   : Nat
  written : Nat
  read    : Nat
  deriving DecidableEq, Repr, Inhabited

/-- A change of an event source of R126 as its origin saw it, in the current segment: the source code, its qualifier
(line, lane, flag or timer), the origin in ns and the new value. -/
structure SrcEvent where
  src    : Nat
  idx    : Nat
  origin : Rat
  on     : Bool
  deriving DecidableEq, Repr

/-- A cluster's vector sequencer (R108 to R143). `sigma` is the exact start of the current segment in ns, `period` the
vector period, `ptr` the offset of the next token, `vecInSeg` and `vecs` the vectors produced in the segment and the
run, `copies` the vectors of the last token and `word` their vector word; `since` the start of the current segment as TB
saw it, which a STRETCH does not move; `fillA` and `fillB` that a half has been released and its next block has not issued
whole (R135); `underTb` the first missing vector of an underrun and `underSeq` the SEQ of its event; `deferSeg` and `deferTb` the
segment and the TB of the deferred request; `holdAt` and `resumeAt` a HOLD or RESUME that waits; `watch` the end, the
branch entry and the index of each earlier segment whose late requests still count (R128). -/
structure Seq where
  state      : SeqSt
  activeHalf : Bool
  defer      : Bool
  group      : Nat
  inRun      : Bool
  stretch    : Bool
  owner      : Bool
  fl         : SeqFlags
  seg        : Nat
  prevSeg    : Nat
  br         : BrLast
  sigma      : Rat
  vecs       : Nat
  loops      : List LoopLevel
  gap        : Nat
  deferCnt   : Nat
  dropCnt    : Nat
  lateCnt    : Nat
  holdTb     : Tb
  resumeTb   : Tb
  readyA     : Bool
  readyB     : Bool
  fillA      : Bool
  fillB      : Bool
  timers     : List Timer
  rate       : Nat
  period     : Rat
  tset       : Nat
  lset       : Nat
  ptr        : Nat
  vecInSeg   : Nat
  copies     : Nat
  word       : Word
  strobeMask : BitVec 8
  allMasked  : Bool
  failSeg    : BitVec 8
  failRun    : BitVec 8
  failTb     : Tb
  decided    : Option Bool
  lateDone   : Bool
  deferSeg   : Nat
  deferTb    : Tb
  underTb    : Option Tb
  underSeq   : Nat
  abortSeen  : Bool
  holdAt     : Option Tb
  resumeAt   : Option Tb
  watch      : List (Rat × Nat × Nat)
  since      : Rat
  springs    : List SpringQ
  rings      : List WaveRing
  srcLog     : List SrcEvent
  deriving DecidableEq, Repr
/-! ### Triggers, capture, fails -/

/-- STATE of a trigger engine (R162). -/
inductive TrigSt where
  | idle | armed | holdoff | rearm | done
  deriving DecidableEq, Repr, Inhabited

/-- A change of an engine's source on its way to the engine (R160): the tick in which the engine sees it, its origin, and
the new level, none for a pulse. -/
structure TrigSeen where
  tick   : Tb
  origin : Tb
  level  : Option Bool
  deriving DecidableEq, Repr, Inhabited

/-- A trigger engine (R160 to R167, R172). `armAt` and `disarmAt` are the ticks of a TRIG_ARM or TRIG_DISARM that is
accepted and not yet acted on; `ignoredArm` the fires ignored since the arm; `fires` those of the present hold-off;
`zone` the sample detector's zone; `level` the source level last seen and `inbox` the changes still on their way; `mine`
this cluster's own assertions of FIRE that no member has acted on, with their origins; `ignFrom` and `ignTo` the ticks
between which a fire is ignored since the latest arm (HOLDOFF and REARM), `holdStop` the end of HOLDOFF among them
(R166). -/
structure Trig where
  state    : TrigSt
  source   : BitVec 4
  cond     : BitVec 2
  pol      : BitVec 2
  lane     : BitVec 3
  select   : BitVec 16
  thrHi    : BitVec 24
  thrLo    : BitVec 24
  holdMode : Bool
  rearm    : Bool
  logIgn   : Bool
  hold     : BitVec 48
  max      : BitVec 32
  win      : Nat
  armTb    : Tb
  lastTb   : Tb
  count    : Nat
  ignored  : Nat
  ignoredArm : Nat
  fires    : Nat
  armAt    : Option Tb
  armWin   : Nat
  disarmAt : Option Tb
  holdEnd  : Option Tb
  rearmEnd : Tb
  zone     : Option Bool
  level    : Bool
  inbox    : List TrigSeen
  mine     : List (Tb × Tb)
  ignFrom  : Option Tb
  holdStop : Option Tb
  ignTo    : Option Tb
  deriving DecidableEq, Repr, Inhabited

/-- A data record that a stream is filling (R156, R157). Samples are the stream's words in stamp order. -/
structure OpenRec where
  first    : Tb
  samples  : List (BitVec 64)
  pre      : Nat
  flags    : BitVec 8
  deriving DecidableEq, Repr, Inhabited

/-- A trigger window in collection (R165): its trigger TB, the ARMED tick before it, the post samples still to come, and
whether its first data record is still to close. -/
structure CapWin where
  t        : Tb
  armTb    : Tb
  left     : Nat
  first    : Bool
  deriving DecidableEq, Repr, Inhabited

/-- A gap of a stream (R159): the first dropped stamp, how many samples it has dropped, and whether its GAP record has been
formed and waits for RESUME_TB, the stamp of the first sample stored after it. -/
structure Gap where
  first  : Tb
  count  : Nat
  formed : Bool
  deriving DecidableEq, Repr, Inhabited

/-- A capture stream (R153 to R159). `mode` is 0 OFF, 1 CONTINUOUS, 2 TRIGGERED; `closed` the records closed in SRAM
and not yet drained, oldest first; `starts` the ring offsets of the records in DRAM and not released; `used` the bytes
of the ring not released; `preRing` the newest samples before a trigger, one that found no room without its word; `owed` the
TRIGGER records that wait for room; `rate` the declared rate in MB/s. -/
structure Cap where
  mode     : Nat
  sramSize : Nat
  chunk    : Nat
  pre      : Nat
  post     : Nat
  ringBase : Nat
  ringSize : Nat
  active   : Bool
  startAt  : Option Tb
  stopAt   : Option Tb
  wr       : Nat
  rd       : Nat
  used     : Nat
  starts   : List Nat
  dropped  : Nat
  blocked  : Bool
  gapCount : Nat
  openRec  : Option OpenRec
  closed   : List (List Byte)
  preRing  : List (Tb × Option (BitVec 64))
  win      : Option CapWin
  gap      : Option Gap
  owed     : List (List Byte)
  rate     : Rat
  deriving DecidableEq, Repr, Inhabited

/-- The first-fail registers (R169, R172). -/
structure FirstFail where
  vec   : Nat
  tb    : Tb
  fine  : Nat
  mask  : BitVec 8
  valid : Bool
  seg   : Nat
  expect : BitVec 16
  above : BitVec 8
  below : BitVec 8
  deriving DecidableEq, Repr, Inhabited

/-- The fail log (R170): `kept` are the entries the log holds, in the order of their numbers; the last has number
`wr - 1` under LAST. -/
structure FailLog where
  last   : Bool
  wr     : Nat
  ovf    : Nat
  full   : Nat
  kept   : List (BitVec 128)
  deriving DecidableEq, Repr, Inhabited

/-! ### Reduction unit -/

/-- A step output or operand value (R179): its type, its VALID bit and its value (INT in `i`, binary32 in `f`). -/
structure Val where
  isF   : Bool
  valid : Bool
  i     : Int
  f     : BitVec 32
  deriving DecidableEq, Repr, Inhabited

/-- What an aggregating step keeps (R181): folded count, sums, extreme, indexed values, the first true stamp and the
histogram counts. -/
structure Agg where
  n     : Nat
  sum   : Int
  sumSq : Nat
  sumJ  : Nat
  sumJJ : Nat
  sumJA : Int
  v1    : Val
  v2    : Val
  from_ : Option Tb
  hist  : List Nat
  deriving DecidableEq, Repr, Inhabited

/-- An instance of a recipe on one lane (R174, R177, R178). `x` is the last taken sample; `closeAt` its close TB once it
is known; `closed` that its close pass has run. -/
structure Instance where
  lane   : Nat
  outs   : List Val
  aggs   : List Agg
  taken  : Nat
  x      : Val
  lost   : Bool
  closeAt : Option Tb
  closed : Bool
  deriving DecidableEq, Repr, Inhabited

/-- A window of a recipe (R175, R176): `start` its open TB; `isOpen` that it has opened and no close TB has passed. -/
structure RWindow where
  recipe  : Nat
  isOpen  : Bool
  start   : Tb
  insts   : List Instance
  deriving DecidableEq, Repr, Inhabited

/-- The reduction unit of a cluster (R173 to R192). `windows` are the windows that are started and whose close passes have
not all run, in the order in which they started. -/
structure Red where
  windows  : List RWindow
  flags    : BitVec 16
  flagTb   : List Tb
  sat      : Bool
  invalid  : Bool
  div0     : Bool
  lost     : Bool
  empty    : Bool
  latMax   : Nat
  closes   : Nat
  load     : Nat
  deriving DecidableEq, Repr, Inhabited

/-- A result record (R186). `f` holds END_V, OCV, DCIR and U0 to U3. -/
structure ResRec where
  ch       : Nat
  bin      : Nat
  final    : Bool
  aborted  : Bool
  stretched : Bool
  lost     : Bool
  stored   : BitVec 16
  exc      : BitVec 16
  startTb  : Tb
  closeTb  : Tb
  capacity : Int
  f        : List (BitVec 32)
  deriving DecidableEq, Repr, Inhabited

/-- A histogram block written at a close (R188, R328). -/
structure HistBlock where
  ch      : Nat
  recipe  : Nat
  step    : Nat
  closeTb : Tb
  counts  : List Nat
  deriving DecidableEq, Repr, Inhabited

/-- The results of the latest run of a lock group (R188, R328). -/
structure Results where
  group : Nat
  s     : Tb
  image : Nat
  recs  : List ResRec
  hists : List HistBlock
  deriving DecidableEq, Repr, Inhabited

/-! ### Clusters -/

/-- The timing of one pin in a timing set (R96). -/
structure PinTiming where
  d1     : Nat
  d2     : Nat
  strobe : Nat
  ret    : BitVec 2
  deriving DecidableEq, Repr, Inhabited

/-- A cluster (R17): its sequencer, trigger engine, reduction unit, capture streams, fail path, guard and SRAMs.
`deskew` holds S of each lane for D1, D2 and STROBE as taken at the segment start (R98). -/
structure Cluster where
  seq     : Seq
  trig    : Trig
  red     : Red
  caps    : List Cap
  ff      : FirstFail
  flog    : FailLog
  guardLane : BitVec 3
  guardSrc : Bool
  vsram   : Mem
  csram   : Mem
  rstore  : Mem
  levels  : List (List (BitVec 16))
  tsets   : List (List PinTiming)
  deskew  : List (List Int)
  deriving DecidableEq, Repr

/-! ### The range and protection sequencer -/

/-- What an RPS request does (R63, R418, R421). -/
inductive RpsOp where
  | connect (mode : Mode) (range : BitVec 3) (codes : Codes)
  | disconnect
  | config (mode : Mode)
  | range (r : BitVec 3)
  | change (lanes : List (Nat × Mode × BitVec 3 × Option (BitVec 18))) (seg : Nat)
  | gangForm (l0 m : Nat) (range : BitVec 3)
  | gangDissolve (l0 : Nat)
  | still (cause : BitVec 4) (keep : BitVec 8)
  | stillLoad
  | calRoute (net : Nat) (release : Bool)
  | selfTest
  deriving DecidableEq, Repr

/-- An RPS request (R416 to R419): its cluster of the die, the lanes named, the lanes still in it, the tag that waits
for it and whether lanes were abandoned (R417). -/
structure RpsReq where
  id     : Nat
  c      : Nat
  lanes  : BitVec 8
  live   : BitVec 8
  tag    : Option (BitVec 12)
  op     : RpsOp
  lostAny : Bool
  deriving DecidableEq, Repr

/-- How a microcode sequence ended (R422, R428): done, or a fault of a KIND at the address of a fetch. -/
inductive MicroEnd where
  | done
  | fault (kind : Nat) (addr : BitVec 13)
  deriving DecidableEq, Repr, Inhabited

/-- The engine of an RPS context (R416, R422 to R425): its address, return stack (newest first), the address and count of the LOOP
in progress, the TB at which its timer reaches zero, its flags, the slot at which a WAIT in progress began, what its nano-words
have made of its eight lanes (switch controls, strobes of requested and of still codes, charge scale, RANGE_SETTLE and STILL
values), the slot of its latest Kelvin measurement, MON_HOLD, RANGE_DONE and the calibration net, how it stopped, and its next
slot. -/
structure Micro where
  pc       : BitVec 13
  stack    : List (BitVec 13)
  loop     : Option (BitVec 13 × Nat)
  timerEnd : Tb
  flags    : BitVec 8
  waitFrom : Option Tb
  sw       : List (BitVec 8)
  strobeReq : BitVec 8
  strobeStill : BitVec 8
  scaled   : BitVec 8
  settle   : BitVec 8
  still    : BitVec 8
  kelvinTb : Option Tb
  monHold  : Bool
  rangeDone : Bool
  net      : BitVec 2
  stop     : Option MicroEnd
  next     : Tb
  deriving DecidableEq, Repr, Inhabited

/-- An engine that has run nothing (R433). -/
def Micro.reset : Micro :=
  { pc := 0, stack := [], loop := none, timerEnd := 0, flags := 0, waitFrom := none, sw := List.replicate 8 0
    strobeReq := 0, strobeStill := 0, scaled := 0, settle := 0, still := 0, kelvinTb := none, monHold := false
    rangeDone := false, net := 0, stop := some .done, next := 0 }

/-- An RPS context (R416, R424, R433). `change` is a segment-start change record that waits for the context; `startTb` is
when the sequence in progress began (R65); `eng` is its engine as of its last slot that has been followed. -/
structure RpsCtx where
  cur    : Option RpsReq
  startTb : Tb
  change : Option RpsReq
  eng    : Micro
  mask   : BitVec 8
  selfTest : BitVec 8
  deriving DecidableEq, Repr

/-- The RPS of a die (R416 to R433). `queue` is the die queue with the requests the controller keeps behind it in
arrival order (the first 32 stand in the die queue); `urgent` the fault requests that start ahead of it. -/
structure Rps where
  ctxs    : List RpsCtx
  queue   : List RpsReq
  urgent  : List RpsReq
  nextId  : Nat
  loading : Bool
  fault   : Bool
  patchVer : BitVec 32
  faultAddr : BitVec 13
  faultCtx : BitVec 3
  faultKind : BitVec 4
  reqCnt  : Nat
  abandonCnt : Nat
  matchRegs : List (BitVec 12 × BitVec 8 × Bool)
  micro   : List (BitVec 24)
  nano    : List (BitVec 128)
  deriving DecidableEq, Repr
/-! ### Dies -/

/-- A reference DAC (R50 to R52, R79): `cmd` is the tag of the REF_DAC_SET that waits for its tick. -/
structure RefDac where
  code    : BitVec 16
  shadow  : BitVec 16
  pending : Bool
  tick    : Tb
  cmd     : BitVec 12
  out     : Nat
  deriving DecidableEq, Repr, Inhabited

/-- STATE of a die's DRAM (R256, R276). -/
inductive DramSt where
  | init | full | half | offline
  deriving DecidableEq, Repr, Inhabited

/-- The eye of one byte lane (R276). -/
structure Eye where
  rdC : BitVec 8
  rdW : BitVec 8
  wrC : BitVec 8
  wrW : BitVec 8
  deriving DecidableEq, Repr, Inhabited

/-- A byte lane in a sweep (R270): the length of the passing run in progress, the longest one, and the position after
its last step. -/
structure LaneRun where
  run  : Nat
  best : Nat
  stop : Nat
  deriving DecidableEq, Repr, Inhabited

/-- One channel's place in a retraining (R270): the sweep it is in (0 read ±48, 1 read full, 2 write ±48, 3 write
full, 4 its last window is past and the new centres wait for its next one, 5 none), the positions done in it, its two byte
lanes in the present sweep, and the centre and width of each lane's read and write direction. -/
structure Sweep where
  phase : Nat
  done  : Nat
  lanes : List LaneRun
  rd    : List (Nat × Nat)
  wr    : List (Nat × Nat)
  deriving DecidableEq, Repr, Inhabited

/-- The service class of a DRAM request (R261). -/
inductive DramClass where
  | spring | capture | host | house
  deriving DecidableEq, Repr, Inhabited

/-- What a request is metered to (R261 to R263): a run on the die, a capture stream, a BULK transfer, the HOUSE floor, the age
margin, or nothing. -/
inductive DramOwner where
  | run (tag : BitVec 12)
  | stream (k i : Nat)
  | bulk (tag : BitVec 12)
  | house
  | age
  | free
  deriving DecidableEq, Repr, Inhabited

/-- A request that waits at a die's DRAM controller (R261 to R263): the span it moves, how many 64-byte accesses it has had on each
channel, its arrival, the DEADLINE of a spring entry, and whether it has been promoted. `key` names the spring entry it serves;
`stays` that a step of its own completes it. -/
structure DramReq where
  cls      : DramClass
  owner    : DramOwner
  key      : Nat
  addr     : Nat
  len      : Nat
  served0  : Nat
  served1  : Nat
  arrival  : Tb
  deadline : Tb
  promoted : Bool
  stays    : Bool
  deriving DecidableEq, Repr, Inhabited

/-- The meter of a reservation (R262): its rate in MB/s and its credit in bytes. -/
structure DramMeter where
  owner  : DramOwner
  rate   : Rat
  credit : Rat
  deriving DecidableEq, Repr, Inhabited

/-- A DRAM bank (R265): the row that is open and the activate counters, at most 32, as row and count. -/
structure Bank where
  row  : Option Nat
  rows : List (Nat × Nat)
  deriving DecidableEq, Repr, Inhabited

/-- A die's DRAM port (R254 to R276). `lowPower` says per channel and rank (2c + r) that the rank is in power-down;
`rates` the refresh rate each channel's ranks request, as a power of two; `rfmDue` the activate counters of a channel that
have reached RH_THR and have had no RFM yet; `windows` a channel's maintenance windows since the last MR4 read; `wanted` a
retraining trigger that waits for the next window; `eyeUse` EYE_MIN as the training in hand takes it; `waiters` the tags of
DRAM_RETRAIN commands whose final reply follows the retraining; `fullRun` that a FULL retrain is in progress;
`was` AGE_NS, PD_US, INTERVAL_MS and RH_THR before the DRAM_CONFIG of `cfgTb`, in use until the frame after it; `reqs` the
requests that wait, in the order of their arrival, and `meters` the meters, whose credit is as of `meterTb` (R262); `banks` per
channel the banks of its ranks, and `refTb` the start of its refresh window (R265); `lastUse` per channel and rank (2c + r) when a
request last needed the rank (R266). -/
structure Dram where
  st        : DramSt
  chOk      : BitVec 2
  ranksM1   : Bool
  density   : BitVec 2
  reforming : Bool
  retraining : Bool
  failedLane : BitVec 3
  sizeGib   : Nat
  ageNs     : BitVec 16
  pdUs      : BitVec 16
  rhThr     : BitVec 16
  interval  : BitVec 16
  was       : List (BitVec 16)
  cfgTb     : Tb
  eyeMin    : BitVec 8
  trainTj   : BitVec 16
  trainTb   : Tb
  eyes      : List Eye
  mult      : BitVec 2
  rfmCnt    : Nat
  promoteCnt : Nat
  retrainCnt : Nat
  failTb    : Tb
  wanted    : Option Tb
  eyeUse    : BitVec 8
  waiters   : List (BitVec 12)
  rates     : List Nat
  sweeps    : List Sweep
  lowPower  : List Bool
  rfmDue    : List Nat
  windows   : List Nat
  fullRun   : Bool
  reqs      : List DramReq
  meters    : List DramMeter
  meterTb   : Tb
  banks     : List (List Bank)
  refTb     : List Tb
  lastUse   : List Tb
  mem       : Mem
  deriving DecidableEq, Repr, Inhabited

/-- A conversion in progress or waiting (R396): its sensor (0 junction, 1 external) and the tags that wait for it. -/
structure Conv where
  sensor : Nat
  tags   : List (BitVec 12)
  deriving DecidableEq, Repr, Inhabited

/-- THERMAL_STATE (R335, R399). -/
inductive ThmSt where
  | normal | warn | throttle | shutdown
  deriving DecidableEq, Repr, Inhabited

/-- A die's thermal unit (R395 to R410, R415). `convs` are the conversion in progress (head) and those
waiting, `convTb` the TB at which the one in progress ends, `watchTb` that of the last start of the watch, `formed` the last
junction reading that was formed. -/
structure Thermal where
  st       : ThmSt
  steps    : Nat
  extType  : BitVec 2
  tj       : BitVec 16
  tjTb     : Tb
  text     : BitVec 16
  extTb    : Tb
  watchMs  : BitVec 16
  warn     : BitVec 16
  throttle : BitVec 16
  shut     : BitVec 16
  graceMs  : BitVec 16
  graceTb  : Tb
  shedCnt  : Nat
  hotNs    : Nat
  tjMax    : BitVec 16
  shA      : Word
  shB      : Word
  shC      : Word
  formed   : BitVec 16
  watching : Bool
  convs    : List Conv
  convTb   : Tb
  watchTb  : Tb
  deriving DecidableEq, Repr, Inhabited

/-- What a handling acts on (R336, R337). -/
structure Scope where
  sev      : Sev
  locKind  : Nat
  location : Nat
  deriving DecidableEq, Repr, Inhabited

/-- A fault's handling in hand or queued (R344, R345): its scope, the event that started it, the event code, and the
TB it arrived. `out` says that its scope leaves service, `stale` that a queued one's scope was reset meanwhile, `later` that
the abort of its run waits for a segment boundary (R139). -/
structure Handling where
  scope  : Scope
  seq    : Nat
  code   : BitVec 16
  tb     : Tb
  out    : Bool
  lockKept : Bool
  stale  : Bool
  later  : Bool
  deriving DecidableEq, Repr, Inhabited

/-- A CAL_STEP that the RPS is at work for (R383, R384): its tag and the command. -/
structure CalRun where
  tag  : BitVec 12
  step : Instr
  deriving DecidableEq, Repr

/-- A die (R16): its state, time base flags, pattern PLL, reference DACs, DRAM, thermal unit, RPS, calibration RAM,
weir caps, bridge ports, recovery registers and calibration-bus state. `tbLoose` is the TB of a die that is not
aligned to die 0 (R80, R82). -/
structure Die where
  st        : DieSt
  aligned   : Bool
  tbLock    : Bool
  stepped   : Bool
  tbLoose   : Tb
  pll       : Pll
  deskewTj  : BitVec 16
  squeeze   : Nat
  refdac    : List RefDac
  refLate   : BitVec 8
  refSuper  : BitVec 8
  dram      : Dram
  thm       : Thermal
  rps       : Rps
  cal       : Mem
  calRun    : Option CalRun
  calLane   : BitVec 6
  calNet    : BitVec 2
  loadCap   : Nat
  bwCap     : Nat
  springCap : Nat
  upLink    : Bool
  dnLink    : Bool
  hand      : Option Handling
  handQ     : List Handling
  lastSeq   : Nat
  escCnt    : Nat
  ovfCnt    : Nat
  wdCnt     : Nat
  deriving DecidableEq, Repr

/-! ### Serial port and flash -/

/-- A flash operation (R361, R363, R389 to R391): `kind` 0 writes `data` from `addr` on, 1 erases `total` bytes from
`addr` on, 2 commits the staged calibration images and header of `data` into the slot at `addr`, `total` counting its
sub-operations done, 3 reads `total` bytes to the host; `whole` is what a write began with. `begun` says that the present
program or erase has been sent, at `started`; `mmf` that the operation has met a foreign select (R356), `stop` that a
commit is abandoned after the page in progress (R392). -/
structure FlashOp where
  tag    : Option (BitVec 12)
  kind   : Nat
  addr   : Nat
  data   : List Byte
  total  : Nat
  started : Tb
  whole  : List Byte
  host   : BitVec 64
  begun  : Bool
  mmf    : Bool
  stop   : Bool
  deriving DecidableEq, Repr, Inhabited

/-- The serial port of die 0 with its master, its slave and the flash (R352 to R373): `ops` the flash operation in hand,
`mmfTb` when a foreign select was last seen, `slvOut` the reply that the slave shifts out. -/
structure Serial where
  cmdW     : BitVec 2
  addrW    : BitVec 2
  dataW    : BitVec 2
  ddr      : Bool
  dummy    : BitVec 8
  div      : BitVec 9
  selLead  : BitVec 8
  selLag   : BitVec 8
  selIdle  : BitVec 8
  busy     : Bool
  mmfLive  : Bool
  mmf      : Bool
  slvActive : Bool
  xipTo    : Bool
  verifyFail : Bool
  slvFraming : Bool
  attempt  : Nat
  sizeMib  : BitVec 16
  pageLog2 : BitVec 4
  mode     : BitVec 4
  eraseMax : Nat
  mmfCnt   : Nat
  slvOvf   : Nat
  slvPreempt : Nat
  jHead    : Nat
  jseq     : Nat
  jWritten : Nat
  slvRdy   : Bool
  slvOut   : List Word
  mmfTb    : Tb
  ops      : List FlashOp
  flash    : Mem
  deriving DecidableEq, Repr, Inhabited

/-- The calibration slots (R389 to R394). -/
structure CalUnit where
  inForce  : Nat
  aOk      : Bool
  bOk      : Bool
  sequence : BitVec 32
  deriving DecidableEq, Repr, Inhabited

/-- A ripple line's latest assertion (R26, R27): the tick it rose and how many ticks it lasts. -/
structure Line where
  at_  : Tb
  len  : Nat
  deriving DecidableEq, Repr, Inhabited

/-- The ripple (R26 to R28): per group the ARM line, the assertions of FIRE not yet acted on, the ABORT line and four MARK lines, the four TRIG_IN lines with
their present levels, and SYNC. -/
structure Ripple where
  arm    : List Line
  fire   : List (List Line)
  abort  : List Line
  mark   : List Line
  trigIn : List Line
  trigLv : BitVec 4
  sync   : Line
  trigOut : List Line
  deriving DecidableEq, Repr, Inhabited

/-- What the block has shown to the outside: the words of the last read, the writes to host memory (address and
bytes, oldest first), the MSI-X messages, the superframes relayed out of DN,
and the lock-link frames that carried events, each with its port (DN: true) and the TB at which it began (R102). -/
structure Outputs where
  readData : List Word
  hostOut  : List (Nat × List Byte)
  msix     : List Nat
  relayed  : List (BitVec 128)
  frames   : List (Bool × Tb × BitVec 80)
  deriving DecidableEq, Repr, Inhabited

/-- The whole state of the block, with its queue of waiting commands. -/
structure State where
  tb      : Tb
  model   : Model
  boot    : Boot
  otp     : Otp
  ident   : Ident
  pci     : Pci
  ptm     : Ptm
  diag    : Diag
  latBar  : Latches
  latDiag : Latches
  frozen  : Option Frozen
  inlets  : List Inlet
  outlets : List Ring
  evRing  : Ring
  ev      : EventUnit
  tags    : List TagUse
  works   : List Work
  weir    : Weir
  bulks   : List Bulk
  dma     : List Dma
  runs    : List Run
  groups  : List Group
  images  : List Image
  nextImage : Nat
  results : List Results
  dies    : List Die
  clusters : List Cluster
  chans   : List Chan
  link    : LockLink
  ripple  : Ripple
  serial  : Serial
  cal     : CalUnit
  out     : Outputs
  free    : Nat
  pending : List Instr
  deriving DecidableEq, Repr
/-! ### Outcomes -/

/-- Reasons a step can stop with a fault. -/
inductive Fault where
  /-- Raised by no command: every event the hardware calls a fault is an effect on the state (R336 to R349), so a step
  of the block never stops. Safe. -/
  | none_
  deriving DecidableEq, Repr

/-- Reasons a step can be refused. -/
inductive Refusal where
  /-- Raised by a command that has no meaning in the model yet; the mnemonic names it. Safe. -/
  | notModelled (mnemonic : String)
  deriving DecidableEq, Repr

/-! ### Reset values -/

/-- Number of dies of a model (R1). -/
def Model.dies : Model → Nat
  | .lx8512 => 8
  | .lx4256 => 4
  | .lx2128 => 2

/-- Model mask bit (R1, R4). -/
def Model.mask : Model → BitVec 8
  | .lx8512 => 4
  | .lx4256 => 2
  | .lx2128 => 1

/-- PCI device ID (R1). -/
def Model.device : Model → BitVec 16
  | .lx8512 => 0x8512
  | .lx4256 => 0x4256
  | .lx2128 => 0x2128

/-- Mask of the dies a model populates (R1). -/
def Model.dieMask : Model → BitVec 8
  | .lx8512 => 0xFF
  | .lx4256 => 0x0F
  | .lx2128 => 0x03

/-- The identity defaults (R278, R364). -/
def Ident.default (m : Model) : Ident :=
  { signing := false, keyMask := 0, keys := List.replicate 4 [], subVendor := 0x1F3C, subId := m.device }

/-- The default still-code entry (R68). -/
def StillCodes.default : StillCodes :=
  { connected := false, mode := .hizMeas, range := 0, force := 0x10000, clampHi := 0xF0A3, clampLo := 0x0F5D }

/-- The reset codes of a channel's DACs (R78). -/
def Codes.reset : Codes :=
  { force := 0x10000, levels := [0x4000, 0x4000, 0x4000, 0x4000, 0x4000, 0xF0A3, 0x0F5D] }

/-- A channel after reset (R66, R78, R171). -/
def Chan.reset : Chan :=
  { st := { mode := .off, still := true, range := 0, switchClosed := false, rpsBusy := false, inRun := false,
            gangMember := false, gangMeas := false, gangSizeM1 := 0, clampLive := false, otDrvLive := false,
            otPmuLive := false, rangeSettle := false, lastCause := 0 }
    fl := { otDrv := false, otPmu := false, clampHit := false, protTrip := false, senseDiverge := false,
            senseOpen := false, queueEmpty := false, overrange := false }
    dac := Codes.reset
    shadow := Codes.reset
    dacDiv := 100
    cfg := { hyst := 0, termEn := true, dclampEn := true, senseCheck := true }
    queue := []
    qEmpty := 0
    drive := .off
    still := StillCodes.default
    override := none
    forces := []
    meas := { sel := 0, avgM1 := 0, avgFrom := 0, lastTb := 0, last := 0, chg := 0, chgTb := 0, ovr := false, chgSat := false,
              fails := 0, frac := 0, clearAt := none, cleared := 0 }
    wave := none
    grid := none
    faulted := false
    savedCfg := none
    lastEdge := 0
    lastStrobe := 0
    prevStrobe := 0
    waveNext := none
    levelDue := false
    past := []
    anaHeld := List.replicate 8 none }

/-- The pattern PLL setting after reset (R107). -/
def PllSetting.reset : PllSetting := { frac := 0, nint := 96, post := 12, dither := true, seed := 1 }

/-- A pattern PLL after reset (R107). -/
def Pll.reset : Pll :=
  { set := PllSetting.reset, locked := false, holdover := false, tracking := false, relocking := false,
    synced := false, lol := false, guardHit := false, lolCnt := 0, lolTb := 0, syncTb := 0, target := none,
    startTb := 0, from_ := 0, cmd := none, waiting := []
    modulator := { lfsr := 1, acc1 := 0, acc2 := 0, acc3 := 0, asOf := 0 }, edge := none, switchTb := none }

/-- A vector sequencer after reset (R143). -/
def Seq.reset : Seq :=
  { state := .idle, activeHalf := false, defer := false, group := 0, inRun := false, stretch := false, owner := false,
    fl := { underrun := false, stretched := false, jumpDeferred := false, lateDropped := false, springLate := false,
            waveUnderrun := false }
    seg := 0, prevSeg := 0, br := { branch := 0, result := false, uncertain := false, deferred := false }
    sigma := 0, vecs := 0, loops := [], gap := 0, deferCnt := 0, dropCnt := 0, lateCnt := 0, holdTb := 0,
    resumeTb := 0, readyA := false, readyB := false, fillA := true, fillB := true
    timers := List.replicate 4 { running := false, expired := false, expiry := 0, stamp := 0 }
    rate := 0, period := 0, tset := 0, lset := 0, ptr := 0, vecInSeg := 0, copies := 0, word := 0, strobeMask := 0,
    allMasked := false, failSeg := 0, failRun := 0, failTb := 0, decided := none, lateDone := false, deferSeg := 0,
    deferTb := 0, underTb := none, underSeq := 0, abortSeen := false, holdAt := none, resumeAt := none,
    watch := [], since := 0, springs := [], rings := [], srcLog := [] }

/-- A trigger engine after reset (R162, R172). -/
def Trig.reset : Trig :=
  { state := .idle, source := 0, cond := 0, pol := 0, lane := 0, select := 0, thrHi := 0, thrLo := 0,
    holdMode := false, rearm := false, logIgn := false, hold := 0, max := 0, win := 0, armTb := 0, lastTb := 0,
    count := 0, ignored := 0, ignoredArm := 0, fires := 0, armAt := none, armWin := 0, disarmAt := none,
    holdEnd := none, rearmEnd := 0, zone := none, level := false, inbox := [], mine := [], ignFrom := none
    holdStop := none, ignTo := none }

/-- A capture stream after reset: OFF (R153, R172). -/
def Cap.reset : Cap :=
  { mode := 0, sramSize := 0, chunk := 0, pre := 0, post := 0, ringBase := 0, ringSize := 0, active := false,
    startAt := none, stopAt := none, wr := 0, rd := 0, used := 0, starts := [], dropped := 0, blocked := false,
    gapCount := 0, openRec := none, closed := [], preRing := [], win := none, gap := none, owed := [], rate := 0 }

/-- A reduction unit after reset (R192). -/
def Red.reset : Red :=
  { windows := [], flags := 0, flagTb := List.replicate 16 0, sat := false,
    invalid := false, div0 := false, lost := false, empty := false, latMax := 0, closes := 0, load := 0 }

/-- First-fail registers after reset (R172). -/
def FirstFail.reset : FirstFail :=
  { vec := 0, tb := 0, fine := 0, mask := 0, valid := false, seg := 0, expect := 0, above := 0, below := 0 }

/-- A cluster after reset. -/
def Cluster.reset : Cluster :=
  { seq := Seq.reset, trig := Trig.reset, red := Red.reset, caps := List.replicate 16 Cap.reset,
    ff := FirstFail.reset, flog := { last := false, wr := 0, ovf := 0, full := 0, kept := [] }
    guardLane := 0, guardSrc := false, vsram := [], csram := [], rstore := [], levels := [], tsets := [],
    deskew := [] }

/-- The reset code of reference DAC j (R50). -/
def RefDac.resetCode (j : Nat) : BitVec 16 :=
  if j < 4 then 0x4000 else if j = 4 ∨ j = 6 then 0xFFFF else 0

/-- The RPS after reset (R433). -/
def Rps.reset : Rps :=
  { ctxs := List.replicate 8 { cur := none, startTb := 0, change := none, eng := .reset, mask := 0, selfTest := 0 }
    queue := [], urgent := [], nextId := 0, loading := false, fault := false, patchVer := 0, faultAddr := 0,
    faultCtx := 0, faultKind := 0, reqCnt := 0, abandonCnt := 0,
    matchRegs := List.replicate 16 (0, 0, false), micro := [], nano := [] }

/-- A channel outside retraining. -/
def Sweep.none : Sweep := { phase := 5, done := 0, lanes := [], rd := [], wr := [] }

/-- The meters that a controller always has, full: the HOUSE floor and the age margin (R259, R263; log entry 81). -/
def DramMeter.fixed : List DramMeter :=
  [{ owner := .house, rate := 640, credit := 1280 }, { owner := .age, rate := 400, credit := 800 }]

/-- A die's DRAM port after reset (R276). -/
def Dram.reset : Dram :=
  { st := .init, chOk := 0, ranksM1 := false, density := 0, reforming := false, retraining := false,
    failedLane := 0, sizeGib := 0, ageNs := 2000, pdUs := 10, rhThr := 4096, interval := 1000,
    was := [2000, 10, 1000, 4096], cfgTb := 0, eyeMin := 12,
    trainTj := 0, trainTb := 0, eyes := List.replicate 4 { rdC := 0, rdW := 0, wrC := 0, wrW := 0 }, mult := 0,
    rfmCnt := 0, promoteCnt := 0, retrainCnt := 0, failTb := 0, wanted := none,
    eyeUse := 12, waiters := [], rates := List.replicate 2 0,
    sweeps := List.replicate 2 Sweep.none, lowPower := List.replicate 4 false,
    rfmDue := List.replicate 2 0, windows := List.replicate 2 0, fullRun := false, reqs := []
    meters := DramMeter.fixed, meterTb := 0, banks := List.replicate 2 (List.replicate 32 { row := none, rows := [] })
    refTb := List.replicate 2 0, lastUse := List.replicate 4 0, mem := [] }

/-- A die's thermal unit after reset (R415). -/
def Thermal.reset : Thermal :=
  { st := .normal, steps := 0, extType := 0, tj := 0, tjTb := 0, text := 0x8000, extTb := 0, watchMs := 10,
    warn := 0x05F0, throttle := 0x0690, shut := 0x0780, graceMs := 2000, graceTb := 0, shedCnt := 0, hotNs := 0,
    tjMax := 0x8000, shA := 0, shB := 0, shC := 0, formed := 0, watching := false, convs := [], convTb := 0, watchTb := 0 }

/-- Die `d` of a model after reset. -/
def Die.reset (m : Model) (d : Nat) : Die :=
  { st := if d < m.dies then .active else .absent, aligned := false, tbLock := false, stepped := false, tbLoose := 0,
    pll := Pll.reset, deskewTj := 0, squeeze := 0,
    refdac := (List.range 8).map fun j =>
      { code := RefDac.resetCode j, shadow := 0, pending := false, tick := 0, cmd := 0, out := (RefDac.resetCode j).toNat }
    refLate := 0, refSuper := 0, dram := Dram.reset, thm := Thermal.reset, rps := Rps.reset, cal := [],
    calRun := none, calLane := 0, calNet := 0, loadCap := 16000, bwCap := 18800,
    springCap := 16000, upLink := true, dnLink := true, hand := none, handQ := [], lastSeq := 0, escCnt := 0,
    ovfCnt := 0, wdCnt := 0 }

/-- An inlet after reset (R292). -/
def Inlet.reset : Inlet :=
  { base := 0, sizeLog2 := 4, enable := false, index := 0, peer := 0, stopped := false,
    announced := [], retried := false, slot := none }

/-- An outlet or the event ring after reset, with its default vector (R292, R297). -/
def Ring.reset (v : Nat) : Ring :=
  { base := 0, sizeLog2 := 4, enable := false, vector := v, index := 0, peer := 0, wb := 0, coal := 0,
    lastMsi := none, msiOwed := false, held := [] }

/-- The event unit after reset (R350, R317). -/
def EventUnit.reset : EventUnit :=
  { queue := [], seqNext := 1, ovfCnt := 0, ovfBefore := false, filterCnt := 0, posted := 0, minSev := false,
    watch := false, hostLoss := 0, hostLost := false, lastSign := 0, jobs := [], bootQ := [] }

/-- The endpoint after reset (R291, R297). -/
def Pci.reset : Pci :=
  { intOutlet := 0, intEvent := false, intEventOvf := false, intInletErr := false, intDmaErr := false,
    intLink := false, intPtm := false, intHeld := false, fetchMax := 0, width := 0, speed := 0, l1 := false,
    aspmL1 := false, d3hot := false, bar2Discard := 0, bar0Partial := 0, dbBad := 0, apBaseLo := 0,
    apBaseHi := 0, apDie := 0, apBad := false, msix := List.replicate 192 0, maskAll := BitVec.allOnes 64, pba := 0, lastFetch := 15 }

/-- PTM after reset (R302). -/
def Ptm.reset : Ptm :=
  { enable := false, interval := 10, valid := false, pairs := 0, pairTb := 0, pairHost := 0, prop := 0,
    prevT1 := none, missed := 0 }

/-- The diagnostic window after reset (R304). -/
def Diag.reset : Diag :=
  { addrLo := 0, addrHi := 0, count := 1, write := false, snap := false, busy := false, early := false, valid := 0,
    status := 0, data := List.replicate 64 0, readyTb := 0 }

/-- Boot status after reset (R290, R446). -/
def Boot.reset : Boot :=
  { stage := 0, ready := false, fwSlot := false, firstSlot := false, failDetail := 0, readyTb := 0, fwVersion := 0,
    resetCause := 0, rollback := 0, dieOff := 0, stageTb := List.replicate 8 0, perstLow := true, powerGood := true,
    part := .booting, epoch := 0 }

/-- The weir after reset (R223). -/
def Weir.reset : Weir :=
  { horizonRun := 10000, horizonBulk := 1000000, decideMax := 0, decideLate := 0,
    refuse := List.replicate 80 0, accept := List.replicate 16 0 }

/-- The lock link after reset (R107). -/
def LockLink.reset : LockLink :=
  { role := 0, lat := 8, up := false, dn := false, aligned := false, late := false, transit := 0, phaseErr := 0,
    crcCnt := 0, evs := [], qUp := [], qDn := [], sfUp := none, sfDn := none, offset := 0, returned := false,
    stray := false, mgmtUp := [], mgmtDn := [], trim := 0, trimTb := 0, overdue := [] }

/-- The serial port after reset (R373), with erased flash. -/
def Serial.reset : Serial :=
  { cmdW := 0, addrW := 0, dataW := 0, ddr := false, dummy := 8, div := 160, selLead := 4, selLag := 4,
    selIdle := 20, busy := false, mmfLive := false, mmf := false, slvActive := false, xipTo := false,
    verifyFail := false, slvFraming := false, attempt := 0, sizeMib := 0, pageLog2 := 0, mode := 0, eraseMax := 0,
    mmfCnt := 0, slvOvf := 0, slvPreempt := 0, jHead := 0, jseq := 0, jWritten := 0, slvRdy := false, slvOut := [],
    mmfTb := 0, ops := [], flash := [] }

/-- A ripple line that has not been asserted. -/
def Line.none : Line := { at_ := 0, len := 0 }

/-- The ripple after reset (R26). -/
def Ripple.reset : Ripple :=
  { arm := List.replicate 32 Line.none, fire := List.replicate 32 [], abort := List.replicate 32 Line.none,
    mark := List.replicate 128 Line.none, trigIn := List.replicate 4 Line.none, trigLv := 0, sync := Line.none,
    trigOut := List.replicate 4 Line.none }

/-- A lock group without members (R199). -/
def Group.empty : Group := { members := 0, master := none, span := false, slot := 0 }

/-- The state right after a power-on reset of a model, with PERST_N still low (R434, R436). -/
def State.resetOf (m : Model) : State :=
  { tb := 0
    model := m
    boot := Boot.reset
    otp := { serial := 0, keyHash := List.replicate 12 0, rollback := 0 }
    ident := Ident.default m
    pci := Pci.reset
    ptm := Ptm.reset
    diag := Diag.reset
    latBar := []
    latDiag := []
    frozen := none
    inlets := List.replicate 16 Inlet.reset
    outlets := (List.range 16).map Ring.reset
    evRing := Ring.reset 16
    ev := EventUnit.reset
    tags := []
    works := []
    weir := Weir.reset
    bulks := []
    dma := List.replicate 8 { doneKib := 0 }
    runs := []
    groups := List.replicate 32 Group.empty
    images := []
    nextImage := 1
    results := []
    dies := (List.range 8).map (Die.reset m)
    clusters := List.replicate 64 Cluster.reset
    chans := List.replicate 512 Chan.reset
    link := LockLink.reset
    ripple := Ripple.reset
    serial := Serial.reset
    cal := { inForce := 3, aOk := false, bOk := false, sequence := 0 }
    out := { readData := [], hostOut := [], msix := [], relayed := [], frames := [] }
    free := 0
    pending := [] }

/-- The machine right after reset: an LX8512 (log entry 4). -/
def State.reset : State := State.resetOf .lx8512

end Sys2Proof.Machine
end

