-- ==== Sys2Proof/Machine/Ops.lean ====
section
/-! DEFINITION. Named operations over the state: the parts of the part, time, replies, rings, events, tags and accepted
work. -/

namespace Sys2Proof.Machine

/-! ### The parts of the part -/

/-- The die of a cluster (R5). -/
def dieOfCluster (k : Nat) : Nat := k / 8

/-- The cluster of a channel (R5). -/
def clusterOf (n : Nat) : Nat := n / 8

/-- The lane of a channel (R5). -/
def laneOf (n : Nat) : Nat := n % 8

/-- The channel of a lane of a cluster (R5). -/
def chanOf (k l : Nat) : Nat := k * 8 + l

/-- Channel `n`. -/
def State.chan (s : State) (n : Nat) : Chan := s.chans.getD n Chan.reset

/-- Change channel `n`. -/
def State.updChan (s : State) (n : Nat) (f : Chan → Chan) : State := { s with chans := s.chans.modify n f }

/-- Change every channel for which `p` holds of its number and state. -/
def State.updChans (s : State) (p : Nat → Chan → Bool) (f : Nat → Chan → Chan) : State :=
  { s with chans := s.chans.mapIdx fun n c => if p n c then f n c else c }

/-- Cluster `k`. -/
def State.cluster (s : State) (k : Nat) : Cluster := s.clusters.getD k Cluster.reset

/-- Change cluster `k`. -/
def State.updCluster (s : State) (k : Nat) (f : Cluster → Cluster) : State :=
  { s with clusters := s.clusters.modify k f }

/-- Change every cluster for which `p` holds. -/
def State.updClusters (s : State) (p : Nat → Cluster → Bool) (f : Nat → Cluster → Cluster) : State :=
  { s with clusters := s.clusters.mapIdx fun k c => if p k c then f k c else c }

/-- The sequencer of cluster `k`. -/
def State.seq (s : State) (k : Nat) : Seq := (s.cluster k).seq

/-- Change the sequencer of cluster `k`. -/
def State.updSeq (s : State) (k : Nat) (f : Seq → Seq) : State :=
  s.updCluster k fun c => { c with seq := f c.seq }

/-- The trigger engine of cluster `k`. -/
def State.trig (s : State) (k : Nat) : Trig := (s.cluster k).trig

/-- Change the trigger engine of cluster `k`. -/
def State.updTrig (s : State) (k : Nat) (f : Trig → Trig) : State :=
  s.updCluster k fun c => { c with trig := f c.trig }

/-- The reduction unit of cluster `k`. -/
def State.red (s : State) (k : Nat) : Red := (s.cluster k).red

/-- Change the reduction unit of cluster `k`. -/
def State.updRed (s : State) (k : Nat) (f : Red → Red) : State :=
  s.updCluster k fun c => { c with red := f c.red }

/-- Capture stream `i` of cluster `k`. -/
def State.cap (s : State) (k i : Nat) : Cap := (s.cluster k).caps.getD i Cap.reset

/-- Change capture stream `i` of cluster `k`. -/
def State.updCap (s : State) (k i : Nat) (f : Cap → Cap) : State :=
  s.updCluster k fun c => { c with caps := c.caps.modify i f }

/-- Die `d`. -/
def State.die (s : State) (d : Nat) : Die := s.dies.getD d (Die.reset .lx2128 7)

/-- Change die `d`. -/
def State.updDie (s : State) (d : Nat) (f : Die → Die) : State := { s with dies := s.dies.modify d f }

/-- Change the pattern PLL of die `d`. -/
def State.updPll (s : State) (d : Nat) (f : Pll → Pll) : State := s.updDie d fun x => { x with pll := f x.pll }

/-- Change the DRAM port of die `d`. -/
def State.updDram (s : State) (d : Nat) (f : Dram → Dram) : State := s.updDie d fun x => { x with dram := f x.dram }

/-- Change the thermal unit of die `d`. -/
def State.updThm (s : State) (d : Nat) (f : Thermal → Thermal) : State :=
  s.updDie d fun x => { x with thm := f x.thm }

/-- Change the RPS of die `d`. -/
def State.updRps (s : State) (d : Nat) (f : Rps → Rps) : State := s.updDie d fun x => { x with rps := f x.rps }

/-- Lock group `g`. -/
def State.group (s : State) (g : Nat) : Group := s.groups.getD g Group.empty

/-- Change lock group `g`. -/
def State.updGroup (s : State) (g : Nat) (f : Group → Group) : State := { s with groups := s.groups.modify g f }

/-- Inlet `i`. -/
def State.inlet (s : State) (i : Nat) : Inlet := s.inlets.getD i Inlet.reset

/-- Change inlet `i`. -/
def State.updInlet (s : State) (i : Nat) (f : Inlet → Inlet) : State := { s with inlets := s.inlets.modify i f }

/-- Outlet `o`. -/
def State.outlet (s : State) (o : Nat) : Ring := s.outlets.getD o (Ring.reset o)

/-- Change outlet `o`. -/
def State.updOutlet (s : State) (o : Nat) (f : Ring → Ring) : State := { s with outlets := s.outlets.modify o f }

/-- Change the endpoint. -/
def State.updPci (s : State) (f : Pci → Pci) : State := { s with pci := f s.pci }

/-- Change the event unit. -/
def State.updEv (s : State) (f : EventUnit → EventUnit) : State := { s with ev := f s.ev }

/-- Change the boot status. -/
def State.updBoot (s : State) (f : Boot → Boot) : State := { s with boot := f s.boot }

/-- Change the serial port. -/
def State.updSerial (s : State) (f : Serial → Serial) : State := { s with serial := f s.serial }

/-- Change the lock link. -/
def State.updLink (s : State) (f : LockLink → LockLink) : State := { s with link := f s.link }

/-- Change the outputs. -/
def State.updOut (s : State) (f : Outputs → Outputs) : State := { s with out := f s.out }

/-- The dies of the model, ascending. -/
def State.dieNums (s : State) : List Nat := List.range s.model.dies

/-- The clusters of the model, ascending (R1). -/
def State.clusterNums (s : State) : List Nat := List.range (s.model.dies * 8)

/-- The channels of the model, ascending (R1). -/
def State.chanNums (s : State) : List Nat := List.range (s.model.dies * 64)

/-- Die `d` is present on the model (R3). -/
def State.hasDie (s : State) (d : Nat) : Bool := decide (d < s.model.dies)

/-- Cluster `k` is present on the model (R3). -/
def State.hasCluster (s : State) (k : Nat) : Bool := decide (k < s.model.dies * 8)

/-- Channel `n` is present on the model (R3). -/
def State.hasChan (s : State) (n : Nat) : Bool := decide (n < s.model.dies * 64)

/-- The channel's switch is closed: it is connected for every purpose (R67). -/
def State.connected (s : State) (n : Nat) : Bool := (s.chan n).st.switchClosed

/-- The lock group a cluster belongs to (R199). -/
def State.groupOf (s : State) (k : Nat) : Option Nat :=
  (List.range 32).find? fun g => hasBit (s.group g).members k

/-- The members of a lock group, ascending. -/
def State.membersOf (s : State) (g : Nat) : List Nat := bitsOf (s.group g).members

/-- The master of a lock group: the configured one, else the lowest member (R7, R199). -/
def State.masterOf (s : State) (g : Nat) : Option Nat :=
  match (s.group g).master with
  | some k => some k
  | none => (s.membersOf g).head?

/-- The next free value, and the state in which it has been used (log entry 7). -/
def State.takeFree (s : State) : BitVec 64 × State := (Config.freeValue s.free, { s with free := s.free + 1 })

/-! ### Time -/

/-- Let TB reach `t`: die 0's counter never falls (R83) and stands still until its time-base PLL has locked (R80); a
die that is not aligned counts on by the same ticks while its own PLL is locked. -/
def State.at (s : State) (t : Tb) : State :=
  if (s.die 0).tbLock then
    let tb := max s.tb t
    { s with
      tb := tb
      diag := if s.diag.busy ∧ s.diag.readyTb ≤ tb then { s.diag with busy := false } else s.diag
      dies := s.dies.map fun x => if x.tbLock ∧ ¬ x.aligned then { x with tbLoose := x.tbLoose + (tb - s.tb) } else x }
  else s

/-- TB as die `d` counts it (R80). -/
def State.tbOf (s : State) (d : Nat) : Tb :=
  let x := s.die d
  if d = 0 ∨ x.aligned then s.tb else x.tbLoose

/-! ### Interrupts and rings -/

/-- Send the message of MSI-X vector `v`, or set its pending bit while it is masked (R297). -/
def State.sendMsi (s : State) (v : Nat) : State :=
  if hasBit s.pci.maskAll v then s.updPci fun p => { p with pba := setBit p.pba v }
  else s.updOut fun o => { o with msix := o.msix ++ [v] }

/-- Bytes written to host memory by the part; a link in L1 leaves it (R279). -/
def State.hostWrite (s : State) (addr : Nat) (bs : List Byte) : State :=
  (s.updPci fun p => { p with l1 := false }).updOut fun o => { o with hostOut := o.hostOut ++ [(addr, bs)] }

/-- The part can write to the host: the function is in D0 (R210, R296). -/
def State.hostUp (s : State) : Bool := !s.pci.d3hot

/-- The writeback of a ring: producer index and TB (R295). -/
def writeback (r : Ring) (tb : Tb) : List Byte := leBytes 2 r.index.toNat ++ leBytes 6 0 ++ leBytes 8 tb

/-- Whether a ring's message may go now, or waits for COAL (R295). -/
def Ring.msiReady (r : Ring) (tb : Tb) : Bool :=
  match r.lastMsi with
  | none => true
  | some l => r.coal == 0 || decide (l + r.coal ≤ tb)

/-- Signal a ring after entries were written: the writeback, then its message, now or when COAL has passed (R295). -/
def State.signalOutlet (s : State) (o : Nat) : State :=
  let r := s.outlet o
  let s := s.hostWrite r.wb.toNat (writeback r s.tb)
  if r.msiReady s.tb then
    (s.updOutlet o fun r => { r with lastMsi := some s.tb, msiOwed := false }).sendMsi r.vector
  else s.updOutlet o fun r => { r with msiOwed := true }

/-- As `signalOutlet`, for the event ring (R295, R318). -/
def State.signalEvent (s : State) : State :=
  let r := s.evRing
  let s := s.hostWrite r.wb.toNat (writeback r s.tb)
  if r.msiReady s.tb then
    ({ s with evRing := { r with lastMsi := some s.tb, msiOwed := false } } : State).sendMsi r.vector
  else { s with evRing := { r with msiOwed := true } }

/-- The host address of entry `x` of a ring (R293). -/
def entryAddr (base : BitVec 64) (sizeLog2 x size : Nat) : Nat := base.toNat + x % 2 ^ sizeLog2 * size

/-- Entries of an outlet or the event ring that the host has not consumed (R293). -/
def Ring.inUse (r : Ring) : Nat := (r.index - r.peer).toNat

/-- Causes shown in INT_CAUSE_MISC (R291). -/
inductive MiscCause where
  | event | eventOvf | inletErr | dmaErr | link | ptm | held
  deriving DecidableEq, Repr

/-- Set a bit of INT_CAUSE_MISC and send its vector, 17 (R291, R297). -/
def State.misc (s : State) (c : MiscCause) : State :=
  (s.updPci fun p => match c with
    | .event => { p with intEvent := true }
    | .eventOvf => { p with intEventOvf := true }
    | .inletErr => { p with intInletErr := true }
    | .dmaErr => { p with intDmaErr := true }
    | .link => { p with intLink := true }
    | .ptm => { p with intPtm := true }
    | .held => { p with intHeld := true }).sendMsi 17

/-! ### Replies -/

/-- Code of a status (R314). -/
def Status.code : Status → Nat
  | .ok => 0x00
  | .refusedTime => 0x01
  | .refusedPower => 0x02
  | .refusedBandwidth => 0x03
  | .refusedSlots => 0x04
  | .badArg => 0x05
  | .badState => 0x06
  | .revoked => 0x07
  | .short => 0x08
  | .timeout => 0x09
  | .hwFault => 0x0A
  | .notAvailable => 0x0B
  | .authFail => 0x0C
  | .refusedUncal => 0x0D

/-- The 32 bytes of a reply (R310). -/
def Reply.bytes (r : Reply) : List Byte :=
  leBytes 2 r.opcode.toNat ++ leBytes 1 r.status.code ++ leBytes 1 r.detail.toNat ++ leBytes 2 r.tag.toNat
    ++ leBytes 2 r.epoch.toNat ++ leBytes 8 r.tb ++ leBytes 16 r.result.toNat

/-- RESULT from fields: pairs of descriptor offset (+0x10 to +0x1F) and value (R310). -/
def resultOf (fs : List (Nat × Nat)) : BitVec 128 :=
  BitVec.ofNat 128 ((fs.map fun f => f.2 * 2 ^ (8 * (f.1 - 0x10))).sum)

/-- A tag is in flight (R309). -/
def State.tagBusy (s : State) (tag : BitVec 12) : Bool := s.tags.any fun u => u.tag == tag

/-- Put a tag in flight. -/
def State.useTag (s : State) (tag : BitVec 12) (cls : Nat) : State := { s with tags := s.tags ++ [{ tag, cls }] }

/-- Return a tag to the pool; the transfers of its command no longer count on their DMA channels (R209). -/
def State.freeTag (s : State) (tag : BitVec 12) : State :=
  { s with tags := s.tags.filter fun u => u.tag != tag, bulks := s.bulks.filter fun b => b.tag != tag }

/-- The event with this SEQ stands in the device queue while the event ring is enabled, so a final reply that it
causes is held (R347). -/
def State.causePending (s : State) (seq : Nat) : Bool :=
  seq != 0 && s.evRing.enable && s.ev.queue.any fun e => e.seq == seq

/-- A reply can be posted to outlet `o` now: it is enabled and has a free entry, and the link serves it (R293, R296). -/
def State.canPost (s : State) (o : Nat) : Bool :=
  (s.outlet o).enable && decide ((s.outlet o).inUse < 2 ^ (s.outlet o).sizeLog2) && s.hostUp

/-- A reply waits although its outlet could take it: its cause event is not written yet (R347), or a final reply of its
lock group, held before it, waits (R219; log entry 51). -/
def State.heldBack (s : State) (earlier : List Held) (x : Held) : Bool :=
  s.causePending x.cause || (x.group.isSome && earlier.any fun y => y.group == x.group)

/-- Write one reply into outlet `o`; `last` frees its tag (R309, R293, R295). -/
def State.writeReply (s : State) (o : Nat) (r : Reply) (last : Bool) : State :=
  let ring := s.outlet o
  let s := s.hostWrite (entryAddr ring.base ring.sizeLog2 ring.index.toNat 32) r.bytes
  let s := s.updOutlet o fun x => { x with index := x.index + 1 }
  let s := s.updPci fun p => { p with intOutlet := setBit p.intOutlet o }
  let s := if last then s.freeTag r.tag else s
  s.signalOutlet o

/-- Replies held in the part (R296). -/
def State.heldCount (s : State) : Nat := (s.outlets.map fun r => r.held.length).sum

/-- Post a reply on outlet `o`, or hold it behind the replies that the outlet holds already (R296). -/
def State.post (s : State) (o : Nat) (r : Reply) (last : Bool) (cause : Nat) (group : Option Nat := none)
    (dies : BitVec 8 := 0) : State :=
  let x : Held := { reply := r, last, cause, group, dies }
  if s.canPost o && !s.heldBack (s.outlet o).held x then s.writeReply o r last
  else (s.updOutlet o fun y => { y with held := y.held ++ [x] }).misc .held

/-- Post the held replies of outlet `o` in order, but for those that must wait; `kept` are the ones passed over. -/
def State.flushGo : List Held → State → Nat → List Held → State
  | [], s, o, kept => s.updOutlet o fun r => { r with held := kept }
  | x :: xs, s, o, kept =>
    if s.canPost o && !s.heldBack kept x then State.flushGo xs (s.writeReply o x.reply x.last) o kept
    else State.flushGo xs s o (kept ++ [x])

/-- Post what can be posted of an outlet's held replies. -/
def State.flushHeld (s : State) (o : Nat) : State := State.flushGo (s.outlet o).held s o []

/-- Post what can be posted of every outlet's held replies. -/
def State.flushAll (s : State) : State :=
  (List.range 16).foldl State.flushHeld s

/-- A single reply: class 0, or an answer before acceptance (R311). -/
def State.answer (s : State) (opcode : Nat) (h : Hdr) (status : Status) (detail : Nat) (result : BitVec 128)
    (tb : Tb) : State :=
  s.post h.inlet.toNat
    { opcode := BitVec.ofNat 16 opcode, status, detail := BitVec.ofNat 8 detail, tag := h.tag, epoch := s.boot.epoch,
      tb, result } true 0

/-! ### Accepted work and final replies -/

/-- An earlier accepted command of the same inlet and lock group has no final reply yet (R219). -/
def blockedBy (w : Work) (earlier : List Work) : Bool :=
  w.group.isSome && earlier.any fun e => e.inlet == w.inlet && e.group == w.group

/-- Post every formed final reply that no earlier command of its inlet and group holds back (R219): `done` are the
works already passed over, `n` bounds the passes. -/
def State.postDone : Nat → State → List Work → List Work → State
  | 0, s, kept, rest => { s with works := kept.reverse ++ rest }
  | _ + 1, s, kept, [] => { s with works := kept.reverse }
  | n + 1, s, kept, w :: rest =>
    match w.done with
    | some (r, cause) =>
      if blockedBy w kept then State.postDone n s (w :: kept) rest
      else State.postDone n (s.post w.inlet r true cause w.group w.dieMask) kept rest
    | none => State.postDone n s (w :: kept) rest

/-- Post the final replies that may go now. -/
def State.settle (s : State) : State := State.postDone (s.works.length + 1) s [] s.works

/-- The accepted command with this tag. -/
def State.work? (s : State) (tag : BitVec 12) : Option Work := s.works.find? fun w => w.tag == tag

/-- Change the accepted command with this tag. -/
def State.updWork (s : State) (tag : BitVec 12) (f : Work → Work) : State :=
  { s with works := s.works.map fun w => if w.tag == tag then f w else w }

/-- A command accepted from inlet `i` has no final reply posted or held yet (R307). -/
def State.openWork (s : State) (i : Nat) : Bool := s.works.any fun w => w.inlet == i && w.done.isNone

/-- The bound of a descriptor behind a fence runs from the moment its fence opens (R307). -/
def State.unfence (s : State) (i : Nat) : State :=
  if s.openWork i then s
  else s.updInlet i fun x => { x with slot := x.slot.map fun f => if f.fence then { f with dbTb := s.tb } else f }

/-- Form the final reply of an accepted command with COMPLETED `tb`, caused by the event `cause` (0 for none), and post
it when its turn has come (R195, R219, R311). A command whose final reply is already formed keeps it. -/
def State.finishAt (s : State) (tag : BitVec 12) (status : Status) (detail : Nat) (result : BitVec 128) (cause : Nat)
    (tb : Tb) : State :=
  match s.work? tag with
  | none => s
  | some w =>
    if w.done.isSome then s
    else
      let r : Reply := { opcode := w.opcode, status, detail := BitVec.ofNat 8 detail, tag, epoch := s.boot.epoch, tb,
                         result }
      (State.settle (s.updWork tag fun w => { w with done := some (r, cause) })).unfence w.inlet

/-- As `finishAt`, completed now. -/
def State.finish (s : State) (tag : BitVec 12) (status : Status) (detail : Nat) (result : BitVec 128)
    (cause : Nat) : State :=
  s.finishAt tag status detail result cause s.tb

/-- As `finish` for a tag that may be absent. -/
def State.finish? (s : State) (tag : Option (BitVec 12)) (status : Status) (detail : Nat) (result : BitVec 128)
    (cause : Nat) : State :=
  match tag with
  | some t => s.finish t status detail result cause
  | none => s

/-! ### Events -/

/-- Code of a severity (R336). -/
def Sev.code : Sev → Nat
  | .info => 0
  | .degrade => 1
  | .channel => 2
  | .cluster => 3
  | .die => 4
  | .part => 5

/-- The 32 bytes of an event record (R338). -/
def Event.bytes (e : Event) : List Byte :=
  leBytes 8 e.tb ++ leBytes 4 e.seq ++ leBytes 2 e.code.toNat ++ leBytes 2 e.epoch.toNat
    ++ leBytes 1 (e.sev.code + 8 * bit e.escalated + 16 * bit e.ovfBefore) ++ leBytes 1 e.locKind
    ++ leBytes 2 e.location ++ leBytes 2 e.run.toNat ++ leBytes 2 e.linkBack ++ leBytes 8 e.detail.toNat

/-- Event codes (R339). -/
abbrev evEpochMark : Nat := 0x0001
abbrev evStillTableBad : Nat := 0x0010
abbrev evSenseDiverge : Nat := 0x0011
abbrev evProtTrip : Nat := 0x0012
abbrev evOvertempStage : Nat := 0x0013
abbrev evRangeLate : Nat := 0x0014
abbrev evRpsFault : Nat := 0x0015
abbrev evStillOpen : Nat := 0x0016
abbrev evGuardHit : Nat := 0x0020
abbrev evPllLol : Nat := 0x0021
abbrev evTbpllLol : Nat := 0x0022
abbrev evTbStep : Nat := 0x0023
abbrev evLlFault : Nat := 0x0024
abbrev evJumpDeferred : Nat := 0x0030
abbrev evSpringLate : Nat := 0x0031
abbrev evSpringUnderrun : Nat := 0x0032
abbrev evRunStretch : Nat := 0x0033
abbrev evSegWatchdog : Nat := 0x0034
abbrev evTrigIgnored : Nat := 0x0035
abbrev evDramHalf : Nat := 0x0040
abbrev evDramOffline : Nat := 0x0041
abbrev evBridgeDegrade : Nat := 0x0042
abbrev evDieOffline : Nat := 0x0043
abbrev evLinkChange : Nat := 0x0050
abbrev evPtmFail : Nat := 0x0051
abbrev evInletStopped : Nat := 0x0052
abbrev evHostLost : Nat := 0x0053
abbrev evHostBack : Nat := 0x0054
abbrev evFwWatchdog : Nat := 0x0060
abbrev evPartRecovery : Nat := 0x0061
abbrev evThermalWarn : Nat := 0x0070
abbrev evThrottle : Nat := 0x0071
abbrev evThermalShutdown : Nat := 0x0072
abbrev evThermalCleared : Nat := 0x0073
abbrev evFlashMmf : Nat := 0x0080
abbrev evCalSlotBad : Nat := 0x0081
abbrev evFwSlotB : Nat := 0x0082
abbrev evPatchMismatch : Nat := 0x0083

/-- Severity of an event code (R339). -/
def evSev (code : Nat) : Sev :=
  if code ∈ [evSenseDiverge, evProtTrip, evOvertempStage] then .channel
  else if code ∈ [evPllLol, evLlFault, evSpringUnderrun, evSegWatchdog] then .cluster
  else if code ∈ [evRpsFault, evTbpllLol, evDieOffline, evFwWatchdog, evThermalShutdown] then .die
  else if code = evPartRecovery then .part
  else if code ∈ [evStillTableBad, evRunStretch, evDramHalf, evDramOffline, evBridgeDegrade, evInletStopped,
      evHostLost, evThrottle, evFlashMmf, evCalSlotBad, evFwSlotB, evPatchMismatch] then .degrade
  else .info

/-- Events that are also appended to the journal (R339, "J"). -/
def evJournal (code : Nat) : Bool :=
  decide (code ∈ [evRpsFault, evTbpllLol, evDieOffline, evFwWatchdog, evPartRecovery, evThermalShutdown])

/-- What an event record is formed from; SEQ, EPOCH and the flags are the queue's. -/
structure NewEvent where
  code     : Nat
  tb       : Tb
  locKind  : Nat := 0
  location : Nat := 0
  run      : Option (BitVec 12) := none
  linkBack : Nat := 0
  escalated : Bool := false
  detail   : Nat := 0

/-- The record of a new event with a SEQ (R338). -/
def NewEvent.record (e : NewEvent) (seq : Nat) (epoch : BitVec 16) : Event :=
  { tb := e.tb, seq, code := BitVec.ofNat 16 e.code, epoch, sev := evSev e.code, escalated := e.escalated,
    ovfBefore := false, locKind := e.locKind, location := e.location,
    run := match e.run with
      | some t => t.setWidth 16
      | none => 0xFFFF
    linkBack := e.linkBack, detail := BitVec.ofNat 64 e.detail }

/-- EPOCH_MARK and PART_RECOVERY have 16 entries of their own and are never dropped (R348). -/
def Event.kept (e : Event) : Bool := e.code == 0x0001 || e.code == 0x0061

/-- The SEQ after `q` (R338): never 0. -/
def nextSeq (q : Nat) : Nat := if q ≥ 0xFFFFFFFF then 1 else q + 1

/-- Remove the newest queued INFO event that may be dropped; none if there is none (R348). -/
def dropNewestInfo (q : List Event) : Option (List Event) :=
  let rec go : List Event → Option (List Event)
    | [] => none
    | e :: es => if e.sev = .info ∧ ¬ e.kept then some es else (go es).map (e :: ·)
  (go q.reverse).map List.reverse

/-- Count a dropped event (R348). -/
def State.countDrop (s : State) : State :=
  (s.updEv fun v => { v with ovfCnt := inc32 v.ovfCnt, ovfBefore := true }).misc .eventOvf

/-- Append a record to the device queue with the next SEQ. -/
def State.enqueue (s : State) (e : NewEvent) : State :=
  s.updEv fun v => { v with queue := v.queue ++ [e.record v.seqNext s.boot.epoch], seqNext := nextSeq v.seqNext }

/-- An event arrives at the device queue after READY (R318, R348). Answers the SEQ it was given, 0 for none. -/
def State.arrive (s : State) (e : NewEvent) : Nat × State :=
  let sev := evSev e.code
  let seq := s.ev.seqNext
  if e.code = evEpochMark ∨ e.code = evPartRecovery then (seq, s.enqueue e)
  else if sev = .info ∧ s.ev.minSev then (0, s.updEv fun v => { v with filterCnt := inc32 v.filterCnt })
  else if (s.ev.queue.filter fun x => !x.kept).length < 1008 then (seq, s.enqueue e)
  else if sev = .info then (0, s.countDrop)
  else
    match dropNewestInfo s.ev.queue with
    | some q => (seq, ((s.updEv fun v => { v with queue := q }).countDrop).enqueue e)
    | none => (0, s.countDrop)

/-- Raise an event: into the device queue, or kept for READY during a boot (R443); a J event is also owed to the
journal (R349). Answers its SEQ, 0 when it holds nothing (R347). -/
def State.raise (s : State) (e : NewEvent) : Nat × State :=
  if s.boot.ready then
    let (seq, s) := s.arrive e
    (seq, if evJournal e.code then
        s.updEv fun v => { v with jobs := v.jobs ++ [e.record seq s.boot.epoch] }
      else s)
  else (0, s.updEv fun v => { v with bootQ := v.bootQ ++ [e.record 0 s.boot.epoch] })

/-- Raise an event whose SEQ nothing needs. -/
def State.raise_ (s : State) (e : NewEvent) : State := (s.raise e).2

end Sys2Proof.Machine
end

