-- ==== Sys2Proof/Machine/DramOps.lean ====
section
/-! DEFINITION. Training of a die's DRAM port (R255 to R257, R267, R268) and the caps that its state gives (R205). -/

namespace Sys2Proof.Machine

/-- BW_CAP and SPRING_CAP of a DRAM state in MB/s (R205). -/
def DramSt.caps : DramSt → Nat × Nat
  | .full => (18800, 16000)
  | .half => (9400, 8000)
  | _ => (0, 0)

/-- Installed size in GiB of a configuration (R255): the density code is 0 for 8 Gb, 1 for 16 Gb, 2 for 32 Gb. -/
def dramGib (ranksM1 : Bool) (density : BitVec 2) : Nat := 2 * 2 ^ density.toNat * (if ranksM1 then 2 else 1)

/-- The devices identify themselves inside R255. -/
def inTable (e : DramEnv) : Bool := e.known && decide (e.density.toNat < 3)

/-- A measured eye. -/
def eyeOf (x : BitVec 8 × BitVec 8 × BitVec 8 × BitVec 8) : Eye := { rdC := x.1, rdW := x.2.1, wrC := x.2.2.1, wrW := x.2.2.2 }

/-- An eye of at least EYE_MIN in both directions (R267). -/
def Eye.wide (e : Eye) (eyeMin : BitVec 8) : Bool := decide (eyeMin ≤ e.rdW) && decide (eyeMin ≤ e.wrW)

/-- The four eyes of a training. -/
def trainEyes (e : DramEnv) : List Eye :=
  (List.range 4).map fun i => ((e.eyes[i]?).map eyeOf).getD { rdC := 0, rdW := 0, wrC := 0, wrW := 0 }

/-- The byte lane within channel `c` that fails training, none if the channel passes (R267, R268). -/
def failLane (e : DramEnv) (eyeMin : BitVec 8) (c : Nat) : Option Nat :=
  if hasBit e.chFail c then some e.lane.toNat
  else (List.range 2).find? fun l =>
    !(((trainEyes e)[2 * c + l]?).getD { rdC := 0, rdW := 0, wrC := 0, wrW := 0 }).wide eyeMin

/-- The DRAM state that the channels that pass give (R256, R268). -/
def dramStOf (ok : BitVec 2) : DramSt := if ok = 3 then .full else if ok = 0 then .offline else .half

/-- The port after a training that ends at `tb` at junction temperature `tj` (R267, R268), with the EYE_MIN of its start:
the address space is formed, its content is lost and the part area reads zero. -/
def Dram.train (x : Dram) (e : DramEnv) (tj : BitVec 16) (tb : Tb) : Dram :=
  let ok : BitVec 2 := maskOf 2 ((List.range 2).filter fun c => (failLane e x.eyeUse c).isNone)
  let st := dramStOf ok
  let full := dramGib e.ranksM1 e.density
  let lane := (List.range 2).findSome? fun c => (failLane e x.eyeUse c).map fun l => 2 * c + l
  { x with
    st
    chOk := ok
    ranksM1 := e.ranksM1
    density := e.density
    reforming := false
    retraining := false
    failedLane := (lane.map (BitVec.ofNat 3)).getD x.failedLane
    sizeGib := match st with
      | .full => full
      | .half => full / 2
      | _ => 0
    trainTj := tj
    trainTb := tb
    eyes := trainEyes e
    wanted := none
    waiters := []
    fullRun := false
    reqs := []
    meters := DramMeter.fixed
    meterTb := tb
    banks := List.replicate 2 (List.replicate 32 { row := none, rows := [] })
    refTb := List.replicate 2 tb
    lastUse := List.replicate 4 tb
    sweeps := List.replicate 2 Sweep.none
    rates := List.replicate 2 0
    mult := 0
    windows := List.replicate 2 0
    lowPower := List.replicate 4 false
    rfmDue := List.replicate 2 0
    mem := [] }

/-- The event of a training that leaves a channel disabled (R268, R339). -/
def dramEvent (d : Nat) (x : Dram) (tb : Tb) : Option NewEvent :=
  let c := x.failedLane.toNat / 2
  let lane := x.failedLane.toNat % 2
  match x.st with
  | .half => some { code := evDramHalf, tb, locKind := 8, location := 2 * d + c, detail := lane }
  | .offline => some { code := evDramOffline, tb, locKind := 1, location := d, detail := lane + 4 * c }
  | _ => none

/-- The devices that a training of die `d` finds: those outside the table of R255, or not those of the dies already trained, fail on
both channels. A boot that finds such devices fails before it trains (DEDUCED, log entry 66). -/
def State.devicesOk (s : State) (d : Nat) (e : DramEnv) : DramEnv :=
  let like := s.dies.mapIdx fun i x => i == d || x.dram.st == .init || (x.dram.ranksM1 == e.ranksM1 && x.dram.density == e.density)
  if inTable e && like.all id then e else { e with chFail := 3 }

/-- Train the port of die `d`, its caps following its state, and raise what the training leaves (R205, R255, R267, R268). -/
def State.trainDie (s : State) (d : Nat) (e : DramEnv) (tj : BitVec 16) : State :=
  let e := s.devicesOk d e
  let s := s.updDie d fun x =>
    let m := { x.dram with eyeUse := if x.dram.fullRun then x.dram.eyeUse else x.dram.eyeMin }.train e tj s.tb
    { x with dram := m, bwCap := m.st.caps.1, springCap := m.st.caps.2 }
  match dramEvent d (s.die d).dram s.tb with
  | some ev => s.raise_ ev
  | none => s

end Sys2Proof.Machine
end

