-- ==== Sys2Proof/Machine/DramSvc.lean ====
section
/-! DEFINITION. The service of a die's DRAM (R257 to R266): requests and their classes, meters, the order in which the
controller issues, age promotion, and the activate counters. Which bank and row an address lies in, and when a row is opened
again, is the part's own (`Config.dramPlace`); the figures that the spec leaves open are the model's (log entry 81). -/

namespace Sys2Proof.Machine

/-! ### Addresses (R257) -/

/-- The first frame of a channel that starts at or after `t` (R258). -/
def frameFrom (ch t : Nat) : Tb := roundUp (t + 2000 - 1000 * ch) 2000 + 1000 * ch - 2000

/-- A setting as a channel uses it: the one before the last DRAM_CONFIG until that channel's next frame (R276). `i` is
0 AGE_NS, 1 PD_US, 2 INTERVAL_MS, 3 RH_THR. -/
def Dram.inUse (x : Dram) (ch : Nat) (tb : Tb) (i : Nat) : Nat :=
  if tb < frameFrom ch x.cfgTb then (x.was.getD i 0).toNat else ([x.ageNs, x.pdUs, x.interval, x.rhThr].getD i 0).toNat

/-- DRAM of a die in bytes below the part area, the top 512 MiB (R30, R257). -/
def State.dramBelow (s : State) (d : Nat) : Nat := (s.die d).dram.sizeGib * 2 ^ 30 - 2 ^ 29

/-- Where the result record of a channel lies in its die's part area (R186; log entry 71). -/
def State.recordAddr (s : State) (n : Nat) : Nat := s.dramBelow (n / 64) + 0x800000 + n % 64 * 64

/-- Where entry `e` of a cluster's fail log lies (R170; log entry 71). -/
def State.logAddr (s : State) (k e : Nat) : Nat := s.dramBelow (dieOfCluster k) + k % 8 * 0x100000 + e % 65536 * 16

/-- Local address `a` of a die is its 64-byte piece `a / 64`; of the first `p` pieces of a die in FULL, those on channel
`c`. -/
def piecesBelow (c p : Nat) : Nat := p / 8 * 4 + min 4 (p % 8 - 4 * c)

/-- Piece `t` of channel `c` in FULL as a piece of the die. -/
def pieceAt (c t : Nat) : Nat := t / 4 * 8 + 4 * c + t % 4

/-- The pieces of channel `c` in a span of pieces. -/
def DramSt.piecesOn (st : DramSt) (c lo hi : Nat) : Nat :=
  if st = .full then piecesBelow c hi - piecesBelow c lo else hi - lo

/-- The place on its channel of the `n`-th piece of channel `c` from piece `lo` on. -/
def DramSt.localPiece (st : DramSt) (c lo n : Nat) : Nat := if st = .full then piecesBelow c lo + n else lo + n

/-- The channel that a piece of the die lies on. -/
def Dram.channelOf (x : Dram) (p : Nat) : Nat := if x.st = .full then p / 4 % 2 else if hasBit x.chOk 0 then 0 else 1

/-- The pieces that one channel holds. -/
def Dram.channelPieces (x : Dram) : Nat := x.sizeGib * 2 ^ 24 / (if x.st = .full then 2 else 1)

/-- The rank of a place on a channel: the highest address bit of the channel (R257). -/
def Dram.rankOf (x : Dram) (t : Nat) : Nat := bit (x.ranksM1 && decide (x.channelPieces ≤ 2 * t))

/-- Where the training area starts within the part area: its highest 64 KiB, which the controller alone uses (R257). -/
abbrev trainingBase : Nat := 2 ^ 29 - 0x10000

/-! ### Classes and meters (R259, R261, R262) -/

/-- The rank of a service class, 1 the highest (R261). -/
def DramClass.rank : DramClass → Nat
  | .spring => 1
  | .capture => 2
  | .host => 3
  | .house => 4

/-- The rate of a meter in MB/s: the HOUSE floor and the age margin halve at half width (R259). -/
def DramMeter.rateIn (m : DramMeter) (st : DramSt) : Rat :=
  match m.owner with
  | .house => if st = .half then 320 else 640
  | .age => if st = .half then 200 else 400
  | _ => m.rate

/-- A request has pieces that wait. -/
def DramReq.waits (q : DramReq) (st : DramSt) (c : Nat) : Bool :=
  decide ((if c = 0 then q.served0 else q.served1) < st.piecesOn c (q.addr / 64) ((q.addr + q.len + 63) / 64))

/-- A request has pieces that wait on a channel in use. -/
def Dram.pending (x : Dram) (q : DramReq) : Bool := (bitsOf x.chOk).any fun c => q.waits x.st c

/-- The meters gain credit up to `tb`, each at its rate and up to what 2 µs give (R262). One that is full and that no request
waits for is as a new one, and goes. -/
def Dram.gain (x : Dram) (tb : Tb) : Dram :=
  let dt : Rat := ((tb - x.meterTb : Nat) : Rat)
  let full (m : DramMeter) : Rat := 2 * m.rateIn x.st
  let ms := x.meters.map fun m => { m with credit := min (full m) (m.credit + m.rateIn x.st * dt / 1000) }
  { x with
    meterTb := max x.meterTb tb
    meters := ms.filter fun m =>
      m.owner == .house || m.owner == .age || decide (m.credit < full m) || x.reqs.any fun q => q.owner == m.owner }

/-- The credit of a meter in bytes. -/
def Dram.credit (x : Dram) (o : DramOwner) : Rat := ((x.meters.find? fun m => m.owner == o).map (·.credit)).getD 0

/-- A 64-byte access takes credit from a meter. -/
def Dram.spend (x : Dram) (o : DramOwner) : Dram :=
  { x with meters := x.meters.map fun m => if m.owner == o then { m with credit := m.credit - 64 } else m }

/-- A request is within budget (R262): its meter holds credit for an access. BAR 2 traffic has none. -/
def Dram.within (x : Dram) (q : DramReq) : Bool := q.owner != .free && decide (64 ≤ x.credit q.owner)

/-! ### The order of issue (R262, R263) -/

/-- Where a request stands in the order of R262: an age-promoted one while the age margin holds credit; one within budget by class
rank, then by DEADLINE within SPRING; any other by class rank, then age. -/
def Dram.place (x : Dram) (q : DramReq) : Nat × Nat × Nat :=
  if q.promoted && decide (64 ≤ x.credit .age) then (0, 0, q.arrival)
  else if x.within q then (1, q.cls.rank, if q.cls = .spring then q.deadline else q.arrival)
  else (2, q.cls.rank, q.arrival)

/-- A place in the order comes before another. -/
def sooner (a b : Nat × Nat × Nat) : Bool :=
  decide (a.1 < b.1) || (a.1 == b.1 && (decide (a.2.1 < b.2.1) || (a.2.1 == b.2.1 && decide (a.2.2 < b.2.2))))

/-- The request that a data slot of channel `c` at `tb` serves, as its position; the first of several equal ones. -/
def Dram.pick (x : Dram) (c : Nat) (tb : Tb) : Option Nat :=
  ((x.reqs.zipIdx.filter fun p => decide (p.1.arrival ≤ tb) && p.1.waits x.st c).foldl
    (fun (b : Option (DramReq × Nat)) p =>
      match b with
      | some y => if sooner (x.place p.1) (x.place y.1) then some p else some y
      | none => some p) none).map (·.2)

/-! ### Activates (R265) -/

/-- The entry of a table with the smallest count. -/
def leastRow (rows : List (Nat × Nat)) : Nat × Nat :=
  rows.foldl (fun b r => if r.2 < b.2 then r else b) (rows.headD (0, 0))

/-- An activate to a row of a bank (R265): its counter, or that of the entry it replaces, goes up by one. -/
def countRow (rows : List (Nat × Nat)) (row : Nat) : List (Nat × Nat) :=
  if rows.any fun r => r.1 == row then rows.map fun r => if r.1 == row then (r.1, r.2 + 1) else r
  else if rows.length < 32 then rows ++ [(row, 1)]
  else rows.map fun r => if r.1 == (leastRow rows).1 then (row, r.2 + 1) else r

/-- An access to a row of a bank: an access to another row than the open one activates it. Answers whether a counter has reached
`thr`, which asks for an RFM and resets that counter to 0 (R265). -/
def Bank.access (b : Bank) (row thr : Nat) : Bank × Bool :=
  if b.row = some row then (b, false)
  else
    let rows := countRow b.rows row
    if rows.any fun r => r.1 == row && decide (thr ≤ r.2) then
      ({ row := some row, rows := rows.map fun r => if r.1 == row then (row, 0) else r }, true)
    else ({ row := some row, rows }, false)

/-- An access to a place of channel `c` at `tb`. -/
def Dram.access (x : Dram) (c t : Nat) (tb : Tb) : Dram :=
  let rank := x.rankOf t
  let at_ := Config.dramPlace t
  let i := 16 * rank + at_.1 % 16
  let banks := x.banks.getD c []
  let (b, rfm) := (banks.getD i { row := none, rows := [] }).access at_.2 (x.inUse c tb 3)
  { x with
    banks := x.banks.set c (banks.set i b)
    rfmDue := if rfm then x.rfmDue.set c (x.rfmDue.getD c 0 + 1) else x.rfmDue
    lastUse := x.lastUse.set (2 * c + rank) tb }

/-! ### Data slots -/

/-- One data slot of channel `c` at `tb` (R262): the request that is first in the order gets an access. -/
def Dram.slot (x : Dram) (c : Nat) (tb : Tb) : Dram :=
  let x := x.gain tb
  match x.pick c tb with
  | none => x
  | some i =>
    match x.reqs[i]? with
    | none => x
    | some q =>
      let n := if c = 0 then q.served0 else q.served1
      let p := x.place q
      let x := if p.1 = 0 then x.spend .age else if p.1 = 1 then x.spend q.owner else x
      let q := if c = 0 then { q with served0 := n + 1 } else { q with served1 := n + 1 }
      { x with reqs := x.reqs.set i q }.access c (x.st.localPiece c (q.addr / 64) n) tb

/-- `n` data slots of channel `c`, 5 ns apart, the first at `tb`; none are left over where nothing waits. -/
def Dram.slots (c : Nat) : Nat → Tb → Dram → Dram
  | 0, _, x => x
  | n + 1, tb, x => if x.reqs.isEmpty then x else Dram.slots c n (tb + 5) (x.slot c tb)

/-- The accesses that one frame of a channel carries in its 1,600 ns beside turnaround and activation (R258, R259). -/
abbrev frameSlots : Nat := 310

/-- The data slots of the frame of channel `c` that ends at `w0` (R258, R262). A request that no step of its own completes goes
once it has been served. -/
def Dram.serveFrame (x : Dram) (c : Nat) (w0 : Tb) : Dram :=
  let x := (Dram.slots c frameSlots (w0 - 1600) x).gain w0
  { x with reqs := x.reqs.filter fun q => q.stays || x.pending q }

/-- The refresh window of the devices in ns at the base rate (R265; PRESUMED, log entry 81). -/
abbrev refreshNs : Nat := 32000000

/-- The activate counters of a channel are cleared at the start of each refresh window (R265). -/
def Dram.refreshed (x : Dram) (c : Nat) (w0 : Tb) : Dram :=
  if x.refTb.getD c 0 + refreshNs / 2 ^ (x.rates.getD c 0) ≤ w0 then
    { x with refTb := x.refTb.set c w0, banks := x.banks.set c ((x.banks.getD c []).map fun b => { b with rows := [] }) }
  else x

/-! ### Requests -/

/-- The ranks, as 2 × channel + rank, on which a span of a die lies. -/
def Dram.ranksOf (x : Dram) (addr len : Nat) : List Nat :=
  (bitsOf x.chOk).flatMap fun c =>
    let lo := addr / 64
    let n := x.st.piecesOn c lo ((addr + len + 63) / 64)
    if n = 0 then []
    else [2 * c + x.rankOf (x.st.localPiece c lo 0), 2 * c + x.rankOf (x.st.localPiece c lo (n - 1))].eraseDups

/-- A request reaches a die's controller (R261, R266): it wakes the ranks it needs, and its reservation has a meter, full when
new. -/
def State.dramAsk (s : State) (d : Nat) (q : DramReq) (rate : Rat) : State :=
  s.updDram d fun x =>
    if x.st ≠ .full ∧ x.st ≠ .half ∨ q.len = 0 then x
    else
      let x := x.gain s.tb
      let ranks := x.ranksOf q.addr q.len
      { x with
        reqs := x.reqs ++ [q]
        meters := if q.owner == .free || x.meters.any fun m => m.owner == q.owner then x.meters
          else x.meters ++ [{ owner := q.owner, rate, credit := 2 * rate }]
        lowPower := x.lowPower.mapIdx fun i b => b && !ranks.contains i
        lastUse := x.lastUse.mapIdx fun i b => if ranks.contains i then s.tb else b }

/-- A request of a class for `len` bytes at `addr`. -/
def DramReq.new (cls : DramClass) (owner : DramOwner) (addr len : Nat) (now : Tb) : DramReq :=
  { cls, owner, key := 0, addr, len, served0 := 0, served1 := 0, arrival := now, deadline := 0, promoted := false, stays := false }

/-- Die-controller and logging traffic: a HOUSE request (R261). -/
def State.houseAsk (s : State) (d addr len : Nat) : State :=
  s.dramAsk d (.new .house .house addr len s.tb) 0

/-- BAR 2 traffic: a HOST request that no meter covers (R261, R262). -/
def State.apertureAsk (s : State) (d addr len : Nat) : State :=
  s.dramAsk d (.new .host .free addr len s.tb) 0

/-! ### Age promotion (R263) -/

/-- The oldest request of a die that has waited longer than AGE_LIMIT, in use on a channel where it waits, and is not promoted. -/
def Dram.aged (x : Dram) (tb : Tb) : Option Nat :=
  ((x.reqs.zipIdx.filter fun p => !p.1.promoted && (bitsOf x.chOk).any fun c =>
      p.1.waits x.st c && decide (p.1.arrival + x.inUse c tb 0 < tb)).foldl
    (fun (b : Option (DramReq × Nat)) p =>
      match b with
      | some y => if p.1.arrival < y.1.arrival then some p else some y
      | none => some p) none).map (·.2)

/-- A request is promoted and counted, where the age margin holds credit for it (R263). -/
def Dram.promote (x : Dram) (tb : Tb) : Dram :=
  let x := x.gain tb
  match x.aged tb with
  | some i =>
    if 64 ≤ x.credit .age then
      { x with reqs := x.reqs.modify i fun q => { q with promoted := true }, promoteCnt := inc32 x.promoteCnt }
    else x
  | none => x

end Sys2Proof.Machine
end

