-- ==== Sys2Proof/Machine/F32.lean ====
section
/-! DEFINITION. IEEE 754 binary32 with round to nearest, ties to even, over exact rationals (R180). A result that would be
NaN or infinite has no value. -/

namespace Sys2Proof.Machine

/-- 2 to an integer power. -/
def pow2 (e : Int) : Rat := if e ≥ 0 then ((2 ^ e.toNat : Nat) : Rat) else 1 / ((2 ^ (-e).toNat : Nat) : Rat)

/-- The largest `e` with 2^e ≤ q, for positive q. -/
def floorLog2 (q : Rat) : Int :=
  let e : Int := (Nat.log2 q.num.toNat : Int) - (Nat.log2 q.den : Int)
  if pow2 (e + 1) ≤ q then e + 1 else if q < pow2 e then e - 1 else e

/-- A non-negative rational rounded to a whole number, ties to even. -/
def roundEven (q : Rat) : Nat :=
  let f := q.floor.toNat
  let r := q - (f : Rat)
  if r > 1 / 2 ∨ (r = 1 / 2 ∧ f % 2 = 1) then f + 1 else f

/-- A rational rounded to a whole number, ties to even. -/
def roundEvenInt (q : Rat) : Int := if q < 0 then -(roundEven (-q) : Int) else roundEven q

/-- The exponent that a positive value takes in binary32, subnormal values included. -/
def f32Exp (e : Int) : Int := max e (-126)

/-- The bits of ± m x 2^(e - 23), none past the largest finite value. -/
def f32Pack (neg : Bool) (e : Int) (m : Nat) : Option (BitVec 32) :=
  let b := (e + 126).toNat * 2 ^ 23 + m
  if b ≥ 255 * 2 ^ 23 then none else some (BitVec.ofNat 32 ((if neg then 2 ^ 31 else 0) + b))

/-- A rational rounded to binary32; `neg0` is the sign of an exact zero. -/
def f32Round (neg0 : Bool) (q : Rat) : Option (BitVec 32) :=
  if q = 0 then some (if neg0 then 0x80000000 else 0)
  else
    let a := if q < 0 then -q else q
    let e := f32Exp (floorLog2 a)
    f32Pack (decide (q < 0)) e (roundEven (a / pow2 (e - 23)))

/-- The whole square root of a number, by its bits from the highest down. -/
def isqrt (n : Nat) : Nat :=
  let rec go : Nat → Nat → Nat
    | 0, r => r
    | b + 1, r =>
      let r' := r + 2 ^ b
      go b (if r' * r' ≤ n then r' else r)
  go (Nat.log2 n / 2 + 1) 0

/-- The square root of a non-negative rational, rounded once to binary32. -/
def f32Sqrt (q : Rat) : Option (BitVec 32) :=
  if q ≤ 0 then some 0
  else
    let e := f32Exp (floorLog2 q / 2)
    let x := q / (pow2 (e - 23) * pow2 (e - 23))
    let m := isqrt x.floor.toNat
    let h := ((m : Rat) + 1 / 2) * ((m : Rat) + 1 / 2)
    f32Pack false e (if x > h ∨ (x = h ∧ m % 2 = 1) then m + 1 else m)

/-- The sign bit of a binary32 value. -/
def f32Neg (b : BitVec 32) : Bool := b.getLsbD 31

/-- The value of a binary32 pattern, none for NaN and infinities. -/
def f32Val (b : BitVec 32) : Option Rat :=
  let x := field b.toNat 30 23
  let m := field b.toNat 22 0
  if x = 255 then none
  else
    let a := if x = 0 then (m : Rat) * pow2 (-149) else ((m + 2 ^ 23 : Nat) : Rat) * pow2 ((x : Int) - 150)
    some (if f32Neg b then -a else a)

/-- An integer rounded to binary32. -/
def f32OfInt (i : Int) : Option (BitVec 32) := f32Round false (i : Rat)

/-- A binary32 operation on finite operands: the exact result by `f`, and the sign of an exact zero by `z`. -/
def f32Op (f : Rat → Rat → Rat) (z : Bool → Bool → Bool) (a b : BitVec 32) : Option (BitVec 32) := do
  let x ← f32Val a
  let y ← f32Val b
  f32Round (z (f32Neg a) (f32Neg b)) (f x y)

/-- Sum. -/
def f32Add : BitVec 32 → BitVec 32 → Option (BitVec 32) := f32Op (· + ·) (· && ·)

/-- Difference. -/
def f32Sub : BitVec 32 → BitVec 32 → Option (BitVec 32) := f32Op (· - ·) fun a b => a && !b

/-- Product. -/
def f32Mul : BitVec 32 → BitVec 32 → Option (BitVec 32) := f32Op (· * ·) (· != ·)

/-- A pattern as a place on the extended line: 0 and the value, or ± 1 for an infinity; none for NaN. -/
def f32Ext (b : BitVec 32) : Option (Int × Rat) :=
  match f32Val b with
  | some q => some (0, q)
  | none => if field b.toNat 22 0 = 0 then some (if f32Neg b then -1 else 1, 0) else none

/-- The order of the extended line. -/
def extLt (x y : Int × Rat) : Bool := decide (x.1 < y.1) || (x.1 == y.1 && decide (x.2 < y.2))

/-- Quotient; none for a division by zero. A finite value over an infinity is a zero. -/
def f32Div (a b : BitVec 32) : Option (BitVec 32) :=
  match f32Val b with
  | some y => if y = 0 then none else f32Op (· / ·) (· != ·) a b
  | none =>
    if (f32Val a).isSome ∧ (f32Ext b).isSome then some (if f32Neg a = f32Neg b then 0 else 0x80000000) else none

end Sys2Proof.Machine
end

