-- ==== Sys2Proof/Machine/Image.lean ====
section
/-! DEFINITION. The layouts of a Quomet image (R225 to R243): one reader per table, used on an image's bytes at
verification and on vector SRAM or the recipe store during a run. -/

namespace Sys2Proof.Machine

/-- A reader of bytes by offset. -/
abbrev Rd := Nat → Byte

/-- A little-endian value of `n` bytes at an offset. -/
def rd (r : Rd) (off n : Nat) : Nat := ofLe ((List.range n).map fun i => r (off + i))

/-- A reader of a byte list. -/
def rdOf (bs : List Byte) : Rd := fun i => bs.getD i 0

/-- A reader of part of another one. -/
def Rd.from (r : Rd) (off : Nat) : Rd := fun i => r (off + i)

/-- The bytes of a span. -/
def Rd.bytes (r : Rd) (off n : Nat) : List Byte := (List.range n).map fun i => r (off + i)

/-- Every byte of a span is zero. -/
def rdZero (r : Rd) (off n : Nat) : Bool := (List.range n).all fun i => r (off + i) == 0

/-! ### Header, budget block and directory -/

/-- What the part uses of an image header and its budget block (R226, R227). -/
structure Hdr8 where
  magic : Nat
  minor : Nat
  major : Nat
  hdrSize : Nat
  id : Nat
  modelMask : Nat
  flags : Nat
  sectionCount : Nat
  sigSize : Nat
  clusterMask : BitVec 64
  bodySize : Nat
  nameStr : Nat
  toolStr : Nat
  duration : Nat
  segWdMargin : Nat
  policy : Nat
  runFlags : Nat
  trigRoute : BitVec 4
  dieMask : BitVec 8
  armTotal : Nat
  dramTotal : Nat
  springMax : Nat
  loadMax : Nat
  reservedOk : Bool
  deriving DecidableEq, Repr

/-- The header of an image (R226, R227). -/
def imgHdr (r : Rd) : Hdr8 :=
  { magic := rd r 0 4, minor := rd r 4 1, major := rd r 5 1, hdrSize := rd r 6 2, id := rd r 8 8,
    modelMask := rd r 0x10 1, flags := rd r 0x11 1, sectionCount := rd r 0x12 2, sigSize := rd r 0x14 2,
    clusterMask := BitVec.ofNat 64 (rd r 0x18 8), bodySize := rd r 0x20 8, nameStr := rd r 0x90 4,
    toolStr := rd r 0x94 4, duration := rd r 0x50 8, segWdMargin := rd r 0x58 8, policy := rd r 0x60 1,
    runFlags := rd r 0x61 1, trigRoute := BitVec.ofNat 4 (rd r 0x62 1), dieMask := BitVec.ofNat 8 (rd r 0x63 1),
    armTotal := rd r 0x68 8, dramTotal := rd r 0x70 8, springMax := rd r 0x78 4, loadMax := rd r 0x7C 4,
    reservedOk := decide (rd r 0x10 1 < 8) && rdZero r 0x16 2 && rdZero r 0x28 8 && rdZero r 0x64 4 && rdZero r 0x80 16 && rdZero r 0xA0 96
      && decide (rd r 0x11 1 < 4) && decide (rd r 0x61 1 < 2) && decide (rd r 0x62 1 < 16) }

/-- SIGNED (R226). -/
def Hdr8.signed (h : Hdr8) : Bool := h.flags % 2 == 1

/-- ALLOW_UNCAL (R226, R196). -/
def Hdr8.allowUncal (h : Hdr8) : Bool := h.flags / 2 % 2 == 1

/-- CLEAR_CHARGE (R227, R152). -/
def Hdr8.clearCharge (h : Hdr8) : Bool := h.runFlags % 2 == 1

/-- The underrun policy is STRETCH (R227, R140). -/
def Hdr8.stretch (h : Hdr8) : Bool := h.policy == 1

/-- The margin of R191 in ns: 0 means 10 µs (R227). -/
def Hdr8.margin (h : Hdr8) : Nat := if h.segWdMargin = 0 then 10000 else h.segWdMargin

/-- A directory entry (R228). `idx` is its place in the directory. -/
structure Sect where
  idx      : Nat
  typ      : Nat
  cluster  : Nat
  count    : Nat
  off      : Nat
  size     : Nat
  sramOff  : Nat
  sramSize : Nat
  reservedOk : Bool
  deriving DecidableEq, Repr

/-- SRAM_OFF of a section that is not placed (R228). -/
abbrev notPlaced : Nat := 0xFFFFFFFF

/-- Directory entry `i` (R228). -/
def imgSect (r : Rd) (i : Nat) : Sect :=
  let b := 0x100 + 32 * i
  { idx := i, typ := rd r b 1, cluster := rd r (b + 1) 1, count := rd r (b + 4) 4, off := rd r (b + 8) 8,
    size := rd r (b + 0x10) 8, sramOff := rd r (b + 0x18) 4, sramSize := rd r (b + 0x1C) 4,
    reservedOk := rdZero r (b + 2) 2 }

/-- The directory of an image. -/
def imgDir (r : Rd) : List Sect := (List.range (imgHdr r).sectionCount).map (imgSect r)

/-- Section type codes (R229). -/
abbrev secChannelMap : Nat := 1
abbrev secLevels : Nat := 2
abbrev secTiming : Nat := 3
abbrev secSegments : Nat := 4
abbrev secBranches : Nat := 5
abbrev secDictionary : Nat := 6
abbrev secStream : Nat := 7
abbrev secWaveforms : Nat := 8
abbrev secSpring : Nat := 9
abbrev secRecipes : Nat := 10
abbrev secPower : Nat := 11
abbrev secBudget : Nat := 12
abbrev secOverrides : Nat := 13
abbrev secStrings : Nat := 14

/-- The image-wide section types (R229). -/
def imageWide (typ : Nat) : Bool := decide (typ ∈ [1, 11, 12, 13, 14])

/-- The section of a type and cluster (0xFF for an image-wide one), if the image has it. -/
def findSect (dir : List Sect) (typ cluster : Nat) : Option Sect :=
  dir.find? fun s => s.typ == typ && s.cluster == cluster

/-- The reader of a section's content; a section that is not there reads zero. -/
def sectRd (r : Rd) (s : Option Sect) : Rd :=
  match s with
  | some s => r.from s.off
  | none => fun _ => 0

/-! ### Channel map, level sets, timing sets -/

/-- A lane's settings in the channel map (R230). -/
structure MapLane where
  cfg     : Nat
  measSel : Nat
  avgM1   : Nat
  zero    : Bool
  reservedOk : Bool
  deriving DecidableEq, Repr

/-- A channel map record (R230). `gangs` are the entries in use: first lane, size and range; `spareOk` says that the others are
zero. -/
structure MapRec where
  k     : Nat
  lanes : BitVec 8
  fixedUnits : Nat
  setGuard : Bool
  guard : Nat
  nGang : Nat
  gangs : List (Nat × Nat × Nat)
  lane  : List MapLane
  spareOk : Bool
  reservedOk : Bool
  deriving DecidableEq, Repr

/-- Record `i` of CHANNEL_MAP (R230). -/
def mapRec (r : Rd) (i : Nat) : MapRec :=
  let b := 80 * i
  let nGang := rd r (b + 5) 1
  let gang (j : Nat) := rd r (b + 8 + 2 * j) 2
  { k := rd r b 1, lanes := BitVec.ofNat 8 (rd r (b + 1) 1), fixedUnits := rd r (b + 2) 1,
    setGuard := rd r (b + 3) 1 % 2 == 1, guard := rd r (b + 4) 1, nGang,
    gangs := (List.range (min nGang 4)).map fun j =>
      (field (gang j) 2 0, field (gang j) 6 3, field (gang j) 9 7)
    lane := (List.range 8).map fun l =>
      let a := b + 0x10 + 8 * l
      { cfg := rd r a 1, measSel := rd r (a + 1) 1, avgM1 := rd r (a + 2) 2, zero := rdZero r a 8,
        reservedOk := rdZero r (a + 4) 4 && decide (rd r a 1 < 32) }
    spareOk := (List.range 4).all fun j => decide (j < nGang) || gang j == 0
    reservedOk := rdZero r (b + 6) 2 && decide (rd r (b + 3) 1 < 2) && decide (rd r (b + 4) 1 < 16)
      && ((List.range 4).all fun j => decide (gang j < 1024) || !decide (j < nGang)) }

/-- The channel map of an image: one record per used cluster (R230). -/
def imgMap (r : Rd) : List MapRec :=
  match findSect (imgDir r) secChannelMap 0xFF with
  | some s => (List.range s.count).map (mapRec (r.from s.off))
  | none => []

/-- Lane `l` is a member, not the measuring lane, of a gang of the record (R76, R230). -/
def MapRec.isMember (m : MapRec) (l : Nat) : Bool :=
  m.gangs.any fun g => decide (g.1 < l) && decide (l < g.1 + g.2.1)

/-- The mapped lanes that are not gang members. -/
def MapRec.ownLanes (m : MapRec) : List Nat := (bitsOf m.lanes).filter fun l => !m.isMember l

/-- The mapped channels of an image, ascending. -/
def imgChannels (r : Rd) : List Nat := (imgMap r).flatMap fun m => (bitsOf m.lanes).map (chanOf m.k)

/-- A level set: its seven codes and its reserved bytes (R231). -/
def levelSet (r : Rd) (i : Nat) : List (BitVec 16) :=
  (List.range 7).map fun j => BitVec.ofNat 16 (rd r (16 * i + 2 * j) 2)

/-- The timing of pin `l` in timing set `i` (R231). -/
def timingPin (r : Rd) (i l : Nat) : PinTiming :=
  let b := 96 * i + 12 * l
  { d1 := rd r b 3, d2 := rd r (b + 3) 3, strobe := rd r (b + 6) 3, ret := BitVec.ofNat 2 (rd r (b + 9) 1) }

/-- A timing set: eight pins (R231). -/
def timingSet (r : Rd) (i : Nat) : List PinTiming := (List.range 8).map (timingPin r i)

/-! ### Segment table -/

/-- A pattern PLL setting as it lies in 16 bytes (R86). -/
def pllArgAt (r : Rd) (off : Nat) : PllArg :=
  { frac := BitVec.ofNat 32 (rd r off 4), nint := BitVec.ofNat 8 (rd r (off + 4) 1),
    post := BitVec.ofNat 8 (rd r (off + 5) 1), flags := BitVec.ofNat 8 (rd r (off + 6) 1),
    rsv0 := BitVec.ofNat 8 (rd r (off + 7) 1), seed := BitVec.ofNat 32 (rd r (off + 8) 4),
    rsv1 := BitVec.ofNat 32 (rd r (off + 12) 4) }

/-- A rate entry (R116, R232). -/
structure RateEntry where
  own    : Bool
  vdiv   : Nat
  dacDiv : Nat
  pll    : PllArg
  reservedOk : Bool
  deriving DecidableEq, Repr

/-- Number of segments, rate entries and change records of a segment table (R232). -/
def segCounts (r : Rd) : Nat × Nat × Nat := (rd r 0 2, rd r 2 1, rd r 3 1)

/-- Rate entry `i` of a segment table (R232). -/
def rateEntry (r : Rd) (i : Nat) : RateEntry :=
  let b := 16 + 32 * i
  { own := rd r b 1 % 2 == 1, vdiv := rd r (b + 2) 2, dacDiv := rd r (b + 4) 2, pll := pllArgAt r (b + 16),
    reservedOk := decide (rd r b 1 < 2) && rdZero r (b + 1) 1 && rdZero r (b + 6) 10
      && (rd r b 1 % 2 == 1 || rdZero r (b + 16) 16) }

/-- A lane of a change record (R233). -/
structure ChgLane where
  apply   : Bool
  setCode : Bool
  mode    : Nat
  range   : Nat
  force   : Nat
  zero    : Bool
  reservedOk : Bool
  deriving DecidableEq, Repr

/-- Change record `c` of a segment table, `c` from 1 (R233). -/
def changeRec (r : Rd) (c : Nat) : List ChgLane :=
  let nRate := (segCounts r).2.1
  let b := 16 + 32 * nRate + 64 * (c - 1)
  (List.range 8).map fun l =>
    let a := b + 8 * l
    { apply := rd r a 1 % 2 == 1, setCode := rd r a 1 / 2 % 2 == 1, mode := rd r (a + 1) 1,
      range := rd r (a + 2) 1, force := rd r (a + 4) 4, zero := rdZero r a 8,
      reservedOk := decide (rd r a 1 < 4) && rdZero r (a + 3) 1 && decide (rd r (a + 4) 4 < 2 ^ 18)
        && decide (rd r (a + 2) 1 < 8) }

/-- A segment entry (R118, R234). -/
structure SegEntry where
  len        : Nat
  duration   : Bool
  streamed   : Bool
  tokenPtr   : Nat
  rate       : Nat
  lset       : Nat
  tset       : Nat
  marks      : BitVec 4
  depth      : Nat
  loopOp     : Nat
  brEn       : Bool
  recipes    : BitVec 16
  loopCount  : Nat
  chg        : Nat
  wset       : Nat
  loopBegin  : Nat
  branch     : Nat
  next       : Nat
  endAction  : Nat
  springFirst : Nat
  springCount : Nat
  reservedOk : Bool
  deriving DecidableEq, Repr, Inhabited

/-- Segment entry `i` of a segment table (R234). -/
def segEntry (r : Rd) (i : Nat) : SegEntry :=
  let (_, nRate, nChg) := segCounts r
  let b := 16 + 32 * nRate + 64 * nChg + 32 * i
  let q := rd r b 8
  let w8 := rd r (b + 8) 4
  let wC := rd r (b + 0xC) 4
  let w10 := rd r (b + 0x10) 4
  let w14 := rd r (b + 0x14) 4
  let w18 := rd r (b + 0x18) 4
  let w1C := rd r (b + 0x1C) 4
  { len := q % 2 ^ 48, duration := field q 48 48 == 1, streamed := field q 49 49 == 1,
    tokenPtr := field w8 23 0, rate := field w8 27 24, lset := field w8 31 28, tset := field wC 5 0,
    marks := BitVec.ofNat 4 (field wC 9 6), depth := field wC 12 10, loopOp := field wC 14 13,
    brEn := field wC 15 15 == 1, recipes := BitVec.ofNat 16 (field wC 31 16), loopCount := field w10 23 0,
    chg := field w10 31 24, wset := field w14 11 0, loopBegin := field w14 23 12, branch := field w14 31 24,
    next := field w18 11 0, endAction := field w18 13 12, springFirst := field w18 31 16,
    springCount := field w1C 7 0,
    reservedOk := field q 63 50 == 0 && field w18 15 14 == 0 && field w1C 31 8 == 0 }

/-- LOOP_OP BEGIN or BEGIN_END (R118). -/
def SegEntry.begins (e : SegEntry) : Bool := e.loopOp == 1 || e.loopOp == 3

/-- LOOP_OP END or BEGIN_END (R118). -/
def SegEntry.ends (e : SegEntry) : Bool := e.loopOp == 2 || e.loopOp == 3

/-! ### Branches, tokens, waveforms -/

/-- A branch entry (R125, R235). -/
structure BrEntry where
  targetT : Nat
  targetF : Nat
  select  : BitVec 16
  source  : Nat
  latch   : Bool
  invert  : Bool
  drop    : Bool
  reservedOk : Bool
  deriving DecidableEq, Repr

/-- Number of branch entries and timer constants (R235). -/
def brCounts (r : Rd) : Nat × Nat := (rd r 0 2, rd r 2 1)

/-- Branch entry `i` (R235). -/
def brEntry (r : Rd) (i : Nat) : BrEntry :=
  let b := 16 + 8 * i
  let f := rd r (b + 6) 1
  { targetT := rd r b 2, targetF := rd r (b + 2) 2, select := BitVec.ofNat 16 (rd r (b + 4) 2),
    source := field f 3 0, latch := field f 4 4 == 1, invert := field f 5 5 == 1, drop := field f 6 6 == 1,
    reservedOk := field f 7 7 == 0 && rdZero r (b + 7) 1 }

/-- Timer constant `i` (R113, R235). -/
def timerConst (r : Rd) (i : Nat) : Nat := rd r (16 + 8 * (brCounts r).1 + 8 * i) 8

/-- Special target indexes (R118, R125). -/
abbrev targetDone : Nat := 0xFFFF
abbrev targetLoop : Nat := 0xFFFE

/-- A token of vector data (R111). -/
inductive Token where
  | dict (copies index : Nat)
  | repeat_ (n : Nat)
  | literal
  | control (op arg : Nat)
  deriving DecidableEq, Repr

/-- Decode a 16-bit token (R111). -/
def Token.decode (v : Nat) : Token :=
  match v / 2 ^ 14 % 4 with
  | 0 => .dict (field v 13 12 + 1) (field v 11 0)
  | 1 => .repeat_ (field v 13 0 + 1)
  | 2 => .literal
  | _ => .control (field v 13 8) (field v 7 0)

/-- Numbers of waveforms, waveform sets and rings (R237). -/
def waveCounts (r : Rd) : Nat × Nat × Nat := (rd r 0 2, rd r 2 2, rd r 4 1)

/-- Offset and size of ring `i` (R237). -/
def ringEntry (r : Rd) (i : Nat) : Nat × Nat := (rd r (16 + 16 * i) 4, rd r (16 + 16 * i + 4) 4)

/-- A waveform descriptor (R130, R237). -/
structure WaveDesc where
  length   : Nat
  cyclic   : Bool
  streamed : Bool
  sinDiv   : Nat
  location : Nat
  reservedOk : Bool
  deriving DecidableEq, Repr

/-- Waveform descriptor of lane entry `v`, `v` from 1 (R237). -/
def waveDesc (r : Rd) (v : Nat) : WaveDesc :=
  let b := 16 + 16 * (waveCounts r).2.2 + 16 * (v - 1)
  let w := rd r b 4
  { length := field w 23 0 + 1, cyclic := field w 24 24 == 1, streamed := field w 25 25 == 1,
    sinDiv := rd r (b + 4) 4, location := rd r (b + 8) 4,
    reservedOk := field w 31 26 == 0 && rdZero r (b + 12) 4 }

/-- The lane entries of waveform set `w`, `w` from 1 (R130, R237). -/
def waveSet (r : Rd) (w : Nat) : List Nat :=
  let (nWave, _, nRing) := waveCounts r
  let b := 16 + 16 * nRing + 16 * nWave + 16 * (w - 1)
  (List.range 8).map fun l => rd r (b + 2 * l) 2

/-! ### Spring plan and recipes -/

/-- A spring plan entry (R136, R238). -/
structure SpringEntry where
  bind     : Nat
  dest     : Nat
  last     : Bool
  waves    : Bool
  ring     : Nat
  destOff  : Nat
  src      : Nat
  len      : Nat
  issue    : Nat
  deadline : Nat
  firstUse : Nat
  reservedOk : Bool
  deriving DecidableEq, Repr

/-- Spring plan entry `i` (R238). -/
def springEntry (r : Rd) (i : Nat) : SpringEntry :=
  let b := 48 * i
  let f := rd r (b + 2) 1
  { bind := rd r b 2, dest := field f 1 0, last := field f 2 2 == 1, waves := field f 3 3 == 1,
    ring := rd r (b + 3) 1, destOff := rd r (b + 4) 4, src := rd r (b + 8) 8, len := rd r (b + 0x10) 4,
    issue := rd r (b + 0x18) 8, deadline := rd r (b + 0x20) 8, firstUse := rd r (b + 0x28) 8,
    reservedOk := field f 7 4 == 0 && decide (rd r (b + 3) 1 < 16) && rdZero r (b + 0x14) 4
      && decide (rd r (b + 0x18) 8 < 2 ^ 48) && decide (rd r (b + 0x20) 8 < 2 ^ 48)
      && decide (rd r (b + 0x28) 8 < 2 ^ 48) }

/-- BIND of a prefill entry (R136). -/
abbrev bindPrefill : Nat := 0xFFFF

/-- A recipe step (R179, R239). -/
structure Step where
  op     : Nat
  aFrom  : Nat
  aIdx   : Nat
  bFrom  : Nat
  bIdx   : Nat
  bNone  : Bool
  c      : Nat
  m      : Nat
  cmp    : Nat
  flagEn : Bool
  all    : Bool
  flag   : Nat
  dest   : Nat
  reservedOk : Bool
  zero   : Bool
  deriving DecidableEq, Repr, Inhabited

/-- A recipe (R173, R239). -/
structure Recipe where
  laneMask : BitVec 8
  charge   : Bool
  filter   : Nat
  endMode  : Nat
  endSeg   : Nat
  count    : Nat
  skip     : Nat
  nSteps   : Nat
  nConst   : Nat
  consts   : List Nat
  steps    : List Step
  reservedOk : Bool
  deriving DecidableEq, Repr, Inhabited

/-- Step at an offset (R239). -/
def stepAt (r : Rd) (b : Nat) : Step :=
  let b0 := rd r b 1
  let b1 := rd r (b + 1) 1
  let b2 := rd r (b + 2) 1
  let b3 := rd r (b + 3) 1
  let b4 := rd r (b + 4) 1
  let b5 := rd r (b + 5) 1
  { op := field b0 4 0, aFrom := field b1 1 0, aIdx := field b1 6 2, bFrom := field b2 1 0, bIdx := field b2 6 2,
    bNone := field b2 7 7 == 1, c := field b3 3 0, m := field b3 7 4, cmp := field b4 2 0,
    flagEn := field b4 3 3 == 1, all := field b4 4 4 == 1, flag := field b5 3 0, dest := field b5 7 4,
    reservedOk := field b0 7 5 == 0 && field b1 7 7 == 0 && field b4 7 5 == 0 && rdZero r (b + 6) 2
    zero := rdZero r b 8 }

/-- Recipe `i` (R239). -/
def recipeAt (r : Rd) (i : Nat) : Recipe :=
  let b := 416 * i
  let f := rd r (b + 1) 1
  let nSteps := rd r (b + 0x10) 1
  let nConst := rd r (b + 0x11) 1
  { laneMask := BitVec.ofNat 8 (rd r b 1), charge := field f 0 0 == 1, filter := field f 2 1, endMode := field f 4 3,
    endSeg := rd r (b + 2) 2, count := rd r (b + 4) 4, skip := rd r (b + 8) 8, nSteps, nConst,
    consts := (List.range 16).map fun j => rd r (b + 0x20 + 8 * j) 8
    steps := (List.range 32).map fun j => stepAt r (b + 0xA0 + 8 * j)
    reservedOk := field f 7 5 == 0 && rdZero r (b + 0x12) 14 && decide (rd r (b + 2) 2 < 4096)
      && decide (rd r (b + 4) 4 < 2 ^ 24) && decide (rd r (b + 8) 8 < 2 ^ 40) }

/-- The steps in use. -/
def Recipe.live (x : Recipe) : List Step := x.steps.take x.nSteps

/-! ### Power, budget, overrides -/

/-- A power profile block (R240): die, LOAD_PEAK, number of points and where its points lie. -/
structure PowerBlock where
  die      : Nat
  loadPeak : Nat
  nPoints  : Nat
  off      : Nat
  reservedOk : Bool
  deriving DecidableEq, Repr

/-- The power blocks from an offset on, `n` of them (R240). -/
def powerBlocks (r : Rd) : Nat → Nat → List PowerBlock
  | 0, _ => []
  | n + 1, off =>
    let b : PowerBlock :=
      { die := rd r off 1, loadPeak := rd r (off + 4) 4, nPoints := rd r (off + 8) 4, off := off + 16,
        reservedOk := rdZero r (off + 1) 3 && rdZero r (off + 12) 4 }
    b :: powerBlocks r n (off + 16 + 16 * b.nPoints)

/-- A BUDGET entry (R241). -/
structure BudgetEntry where
  die        : Nat
  springPeak : Nat
  armBytes   : Nat
  dramBytes  : Nat
  reservedOk : Bool
  deriving DecidableEq, Repr

/-- BUDGET entry `i` (R241). -/
def budgetEntry (r : Rd) (i : Nat) : BudgetEntry :=
  let b := 32 * i
  { die := rd r b 1, springPeak := rd r (b + 4) 4, armBytes := rd r (b + 8) 8, dramBytes := rd r (b + 0x10) 8,
    reservedOk := rdZero r (b + 1) 3 && rdZero r (b + 0x18) 8 }

/-- The BUDGET section of an image. -/
def imgBudget (r : Rd) : List BudgetEntry :=
  match findSect (imgDir r) secBudget 0xFF with
  | some s => (List.range s.count).map (budgetEntry (r.from s.off))
  | none => []

/-- The POWER_PROFILE section of an image. -/
def imgPower (r : Rd) : List PowerBlock :=
  match findSect (imgDir r) secPower 0xFF with
  | some s => powerBlocks (r.from s.off) s.count 0
  | none => []

/-- A still-code entry as flash or an image holds it (R68). `valid` is false for VALID = 0 and for a reserved
encoding; the clamps are checked where the entry is used. -/
structure StillEntry where
  valid : Bool
  codes : StillCodes
  deriving DecidableEq, Repr

/-- The still-code entry at an offset (R68). -/
def stillEntryAt (r : Rd) (b : Nat) : StillEntry :=
  let f := rd r b 1
  let mode := field f 3 2
  let ok := field f 0 0 == 1 && field f 7 4 == 0 && decide (mode < 3) && decide (rd r (b + 1) 1 < 6)
    && rdZero r (b + 2) 2 && decide (rd r (b + 4) 4 < 2 ^ 18) && rdZero r (b + 0xC) 20
  { valid := ok
    codes := { connected := field f 1 1 == 1, mode := if mode = 0 then .fv else if mode = 1 then .fi else .hizMeas,
               range := BitVec.ofNat 3 (rd r (b + 1) 1), force := BitVec.ofNat 18 (rd r (b + 4) 4),
               clampHi := BitVec.ofNat 16 (rd r (b + 8) 2), clampLo := BitVec.ofNat 16 (rd r (b + 10) 2) } }

/-- The still overrides of an image: channel and entry (R242). -/
def imgOverrides (r : Rd) : List (Nat × StillEntry) :=
  match findSect (imgDir r) secOverrides 0xFF with
  | some s => (List.range s.count).map fun i =>
      let b := s.off + 48 * i
      (rd r b 2, stillEntryAt r (b + 0x10))
  | none => []

/-! ### An image in DRAM (R241, R247) -/

/-- Bytes filled up to a multiple of 4 KiB. -/
def pad4k (bs : List Byte) : List Byte := bs ++ List.replicate (roundUp bs.length 4096 - bs.length) 0

/-- The header, directory and image-wide sections of an image, which every die of a load receives (R247). -/
def imageHead (r : Rd) : List Byte :=
  let wide := (imgDir r).filter fun x => imageWide x.typ
  r.bytes 0 (0x100 + 32 * (imgHdr r).sectionCount) ++ wide.flatMap fun x => r.bytes x.off x.size

/-- The per-cluster sections that a die receives, in the order of the directory. -/
def sectionsOn (r : Rd) (d : Nat) : List Sect :=
  (imgDir r).filter fun x => !imageWide x.typ && dieOfCluster x.cluster == d

/-- What a die receives of an image (R241, R247): header, directory and image-wide sections, and each per-cluster section of its
clusters, each of these parts filled up to 4 KiB. Their order is the model's (log entry 26). -/
def imagePart (r : Rd) (d : Nat) : List Byte :=
  pad4k (imageHead r) ++ (sectionsOn r d).flatMap fun x => pad4k (r.bytes x.off x.size)

/-- Where a per-cluster section starts within its die's part of an image. -/
def partOffset (r : Rd) (typ k : Nat) : Nat :=
  let before := (sectionsOn r (dieOfCluster k)).takeWhile fun x => !(x.typ == typ && x.cluster == k)
  roundUp (imageHead r).length 4096 + (before.map fun x => roundUp x.size 4096).sum

/-- The address at which byte `off` of a sequence of ranges lies. -/
def rangeAddr : List (Nat × Nat) → Nat → Nat
  | [], _ => 0
  | g :: gs, off => if off < g.2 then g.1 + off else rangeAddr gs (off - g.2)

/-! ### An image in its slot -/

/-- The image with this id, in any state (R246). -/
def State.image? (s : State) (id : Nat) : Option Image := s.images.find? fun i => i.id == id

/-- Change the image with this id. -/
def State.updImage (s : State) (id : Nat) (f : Image → Image) : State :=
  { s with images := s.images.map fun i => if i.id == id then f i else i }

/-- The reader of an image's bytes. -/
def Image.rd (i : Image) : Rd := rdOf i.bytes

/-- The reader of an image by id; an unknown image reads zero. -/
def State.imgRd (s : State) (id : Nat) : Rd :=
  match s.image? id with
  | some i => i.rd
  | none => fun _ => 0

end Sys2Proof.Machine
end

