-- ==== Sys2Proof/Machine/Micro.lean ====
section
/-! DEFINITION. The microengine of the range and protection sequencer (R416, R422 to R428): microwords, conditions, the next
address, nano-words and the interlocks behind them. The contents of the ROMs and what the analogue conditions find are the
part's own (`Config`); the numbering and the details that the spec leaves open are the model's (log entry 80). -/

namespace Sys2Proof.Machine

/-- The bits `hi` to `lo` of a word. -/
def bitsAt (w : BitVec n) (hi lo : Nat) : Nat := w.toNat / 2 ^ lo % 2 ^ (hi + 1 - lo)

/-! ### Stores (R424, R427) -/

/-- An address in the micro ROM. -/
def romAddr (a : Nat) : BitVec 13 := BitVec.ofNat 13 (a % 4096)

/-- An address in the micro patch RAM, which has 256 words. -/
def patchAddr (a : Nat) : BitVec 13 := BitVec.ofNat 13 (4096 + a % 256)

/-- A target with its memory (R422). -/
def memAddr (patch : Bool) (a : Nat) : BitVec 13 := if patch then patchAddr a else romAddr a

/-- The address lies in patch RAM. -/
def inPatch (a : BitVec 13) : Bool := hasBit a 12

/-- The incremented address; none past the end of patch RAM (R424). An increment at the end of the ROM starts it anew. -/
def nextAddr (a : BitVec 13) : Option (BitVec 13) :=
  if inPatch a then (if a.toNat % 4096 = 0xFF then none else some (a + 1)) else some (romAddr (a.toNat + 1))

/-- A ROM fetch passes the match registers, the lowest match first (R424, R427). -/
def Rps.matched (r : Rps) (a : BitVec 13) : BitVec 13 :=
  if inPatch a then a
  else match r.matchRegs.find? fun m => m.2.2 && m.1 == a.setWidth 12 with
    | some m => patchAddr m.2.1.toNat
    | none => a

/-- The microword at an address (R424). -/
def Rps.word (r : Rps) (a : BitVec 13) : BitVec 24 :=
  if inPatch a then r.micro.getD (a.toNat % 256) 0 else Config.microRom (a.setWidth 12)

/-- The nano-word that a NANO microword names (R422, R427). -/
def Rps.nanoOf (r : Rps) (w : BitVec 24) : BitVec 128 :=
  if hasBit w 19 then r.nano.getD (bitsAt w 6 0) 0 else Config.nanoRom (w.setWidth 11)

/-! ### Conditions (R423) -/

/-- What the conditions and dispatches of a context look at (R422, R423, R426): the active lanes as channels, the lanes whose
SENSE_CHECK, switch read-back and CONNECTED bits are set, the request and its targets, and the calibration-bus taps that other
contexts have closed. -/
structure MicroIn where
  mask      : BitVec 8
  chans     : List Nat
  check     : BitVec 8
  closed    : BitVec 8
  connected : BitVec 8
  rangeUp   : Bool
  mode      : Nat
  range     : Nat
  kind      : Nat
  gang      : Nat
  hwStill   : Bool
  calrFree  : Bool
  calrTaps  : Nat
  caltTaps  : Nat

/-- A property of every active lane. -/
def MicroIn.all (x : MicroIn) (m : BitVec 8) : Bool := x.mask &&& ~~~m == 0

/-- The Kelvin measurement that a nano-word started has ended, and every active lane reads at most 20 Ω (R60, R423). -/
def Micro.kelvinOk (m : Micro) (x : MicroIn) (slot : Tb) : Bool :=
  match m.kelvinTb with
  | some tb => decide (tb + 10000 ≤ slot) && x.chans.all fun n => decide (Config.kelvinOhms tb n ≤ 20)
  | none => false

/-- A condition at a slot (R423); none for a reserved code. The timer's zero is seen at the first slot after it. -/
def Micro.cond (m : Micro) (x : MicroIn) (slot : Tb) (code : Nat) : Option Bool :=
  match code with
  | 0x00 => some true
  | 0x01 => some (decide (m.timerEnd < slot))
  | 0x02 => some (x.chans.all fun n => Config.loopSettled slot n)
  | 0x03 => some (m.kelvinOk x slot)
  | 0x04 => some (x.all x.check)
  | 0x05 => some (x.all x.closed)
  | 0x06 => some x.rangeUp
  | 0x07 => some (x.mode == 2)
  | 0x08 => some (x.mode == 3)
  | 0x09 => some (x.mode == 1)
  | 0x0A => some (x.mode == 4)
  | 0x0B => some (x.all x.connected)
  | 0x0C => some x.hwStill
  | 0x0D => some (x.mask == 0)
  | 0x0E => some x.calrFree
  | 0x0F => some (decide (2 ≤ x.gang))
  | n => if n < 0x18 then some (hasBit m.flags (n - 0x10)) else none

/-- The source value of a DISPATCH (R422); none for a reserved source. -/
def MicroIn.source (x : MicroIn) (code : Nat) : Option Nat := [x.kind, x.range, x.mode, x.gang][code]?

/-! ### Nano-words (R425, R426) -/

/-- The SW bits of lane `l` in a nano-word (R425). -/
def laneSw (w : BitVec 128) (l : Nat) : BitVec 8 := w.extractLsb' (8 * l) 8

/-- The switch drivers refuse the controls that a lane would have (R426): its force pole beside its calibration-bus tap, or its
force stage without a range resistance. -/
def swRefused (b : BitVec 8) : Bool := (hasBit b 0 && hasBit b 6) || (hasBit b 7 && !hasBit b 2 && !hasBit b 3)

/-- A byte of bits of which the active lanes take one value. -/
def setLanes (old mask : BitVec 8) (v : Bool) : BitVec 8 := if v then old ||| mask else old &&& ~~~mask

/-- Apply a nano-word to the active lanes of a context at a slot (R425); none where an interlock refuses it (R426). -/
def Micro.nano (m : Micro) (x : MicroIn) (slot : Tb) (w : BitVec 128) : Option Micro :=
  let sw := m.sw.mapIdx fun l b => if hasBit x.mask l then laneSw w l else b
  let net := bitsAt w 119 118
  let taps := (sw.filter fun b => hasBit b 6).length
  let shared := (net = 2 ∧ 1 < taps + x.calrTaps) ∨ (net = 3 ∧ 1 < taps + x.caltTaps)
  if sw.any swRefused ∨ (taps ≠ 0 ∧ shared) then none
  else some { m with
    sw, net := BitVec.ofNat 2 net
    strobeReq := m.strobeReq ||| (w.extractLsb' 64 8 &&& x.mask)
    strobeStill := m.strobeStill ||| (w.extractLsb' 72 8 &&& x.mask)
    timerEnd := if bitsAt w 95 80 = 0 then m.timerEnd else slot + 10 * bitsAt w 95 80
    flags := (m.flags &&& ~~~(w.extractLsb' 104 8)) ||| w.extractLsb' 96 8
    kelvinTb := if hasBit w 112 then some slot else m.kelvinTb
    monHold := hasBit w 113
    scaled := if hasBit w 114 then m.scaled ||| x.mask else m.scaled
    settle := setLanes m.settle x.mask (hasBit w 115)
    rangeDone := m.rangeDone || hasBit w 116
    still := setLanes m.still x.mask (hasBit w 117) }

/-! ### The slot (R416, R422, R424) -/

/-- The engine stops on a fault of KIND `kind` at the fetch of `a` (R428, R433). -/
def Micro.fails (m : Micro) (kind : Nat) (a : BitVec 13) : Micro := { m with pc := a, stop := some (.fault kind a) }

/-- Go on at an address; an increment past the end of patch RAM is a fault (R424, R428). -/
def Micro.go (m : Micro) (at_ : BitVec 13) (to_ : Option (BitVec 13)) : Micro :=
  match to_ with
  | some a => { m with pc := a, waitFrom := none }
  | none => m.fails 3 at_

/-- A table marker (R424). -/
def isMarker (w : BitVec 24) : Bool := bitsAt w 23 20 == 7 && bitsAt w 19 12 == 0xFF

/-- One microword at address `a` (R422, R424). -/
def Micro.execWord (m : Micro) (r : Rps) (x : MicroIn) (slot : Tb) (a : BitVec 13) (w : BitVec 24) : Micro :=
  let target := memAddr (hasBit w 19) (bitsAt w 11 0)
  let cond := (m.cond x slot (bitsAt w 17 12)).map (· != hasBit w 18)
  match bitsAt w 23 20 with
  | 0 => match m.nano x slot (r.nanoOf w) with
    | some m => m.go a (nextAddr a)
    | none => m.fails 6 a
  | 1 => match cond with
    | some c => m.go a (if c then some target else nextAddr a)
    | none => m.fails 1 a
  | 2 => match cond, nextAddr a with
    | some true, some b => if m.stack.length < 4 then { m with stack := b :: m.stack }.go a (some target) else m.fails 2 a
    | some true, none => m.fails 3 a
    | some false, b => m.go a b
    | none, _ => m.fails 1 a
  | 3 => match m.stack with
    | b :: rest => { m with stack := rest }.go a (some b)
    | [] => m.fails 2 a
  | 4 => match cond with
    | some true => m.go a (nextAddr a)
    | some false =>
      let from_ := m.waitFrom.getD slot
      let limit := if bitsAt w 11 0 = 0 then 4096 else bitsAt w 11 0
      if from_ + 1000 * limit ≤ slot then m.fails 4 a else { m with pc := a, waitFrom := some from_ }
    | none => m.fails 1 a
  | 5 => match x.source (bitsAt w 19 12) with
    | some v =>
      let marker := Config.microRom (BitVec.ofNat 12 (bitsAt w 11 0 + 4095))
      if isMarker marker ∧ v < bitsAt marker 11 0 then m.go a (some (romAddr (bitsAt w 11 0 + v))) else m.fails 8 a
    | none => m.fails 1 a
  | 6 =>
    let target := memAddr (inPatch a) (bitsAt w 11 0)
    match m.loop with
    | none => { m with loop := some (a, bitsAt w 19 12) }.go a (some target)
    | some (b, n) =>
      if b ≠ a then m.fails 2 a
      else if n ≤ 1 then { m with loop := none }.go a (nextAddr a)
      else { m with loop := some (a, n - 1) }.go a (some target)
  | 7 => if hasBit w 12 then m.fails 5 a else { m with pc := a, stop := some .done }
  | _ => m.fails 1 a

/-- One slot of a context at TB `slot` (R416, R417, R424): a sequence whose mask is empty ends. -/
def Micro.slot (m : Micro) (r : Rps) (x : MicroIn) (slot : Tb) : Micro :=
  if m.stop.isSome then m
  else if x.mask = 0 then { m with stop := some .done }
  else
    let a := r.matched m.pc
    m.execWord r x slot a (r.word a)

/-- `n` slots of a context, 80 ns apart, the first at its next one. -/
def Micro.slots (r : Rps) (x : MicroIn) : Nat → Micro → Micro
  | 0, m => m
  | n + 1, m => if m.stop.isSome then m else Micro.slots r x n { m.slot r x m.next with next := m.next + 80 }

/-- The first slot of context `c` at or after `tb` (R416): an ANA edge whose count modulo 8 is c. -/
def slotAt (c tb : Nat) : Tb :=
  let first := 10 * c
  if tb ≤ first then first else first + roundUp (tb - first) 80

/-- A context starts a request at the ROM entry of its kind (R424): its stack is empty, its loop counter free and its switch
poles are where its lanes' switches are. -/
def Micro.start (m : Micro) (c kind : Nat) (closed : BitVec 8) (tb : Tb) : Micro :=
  { m with
    pc := romAddr (16 * kind), stack := [], loop := none, waitFrom := none, stop := none, next := slotAt c tb
    sw := m.sw.mapIdx fun l b => if hasBit closed l then b ||| 3 else b &&& 0xFC
    strobeReq := 0, strobeStill := 0, scaled := 0, rangeDone := false, kelvinTb := none }

/-- The engine as of `tb`. -/
def Micro.upTo (m : Micro) (r : Rps) (x : MicroIn) (tb : Tb) : Micro :=
  if tb < m.next then m else Micro.slots r x ((tb - m.next) / 80 + 1) m

end Sys2Proof.Machine
end

