-- ==== Sys2Proof/Machine/Rps.lean ====
section
/-! DEFINITION. The range and protection sequencer as a shared machine: its queues and contexts (R416 to R421), what
each request does to its lanes (R63 to R76), and the hardware still path, which does not use it (R69, R71, R417). -/

namespace Sys2Proof.Machine

/-- The mode code of CH_STATE (R78). -/
def Mode.code : Mode → Nat
  | .off => 0
  | .digital => 1
  | .fv => 2
  | .fi => 3
  | .hizMeas => 4

/-- The mode of a code, none for a reserved one (R78). -/
def Mode.ofCode : Nat → Option Mode
  | 0 => some .off
  | 1 => some .digital
  | 2 => some .fv
  | 3 => some .fi
  | 4 => some .hizMeas
  | _ => none

/-- The lanes of the gang that a channel is in, or the channel's own lane alone (R7, R76). The measuring lane is the
lowest; members follow it. -/
def State.gangLanes (s : State) (n : Nat) : List Nat :=
  let k := clusterOf n
  let c := s.chan n
  if c.st.gangMeas then (List.range (c.st.gangSizeM1.toNat + 1)).map (· + laneOf n)
  else if c.st.gangMember then
    match (List.range 8).find? fun l =>
        let m := s.chan (chanOf k l)
        m.st.gangMeas && decide (l ≤ laneOf n) && decide (laneOf n ≤ l + m.st.gangSizeM1.toNat) with
    | some l => (List.range ((s.chan (chanOf k l)).st.gangSizeM1.toNat + 1)).map (· + l)
    | none => [laneOf n]
  else [laneOf n]

/-- A lane mask with every gang it touches taken whole (R76). -/
def State.wholeGangs (s : State) (k : Nat) (m : BitVec 8) : BitVec 8 :=
  maskOf 8 ((bitsOf m).flatMap fun l => s.gangLanes (chanOf k l))

/-- Context `c` of the RPS of die `d`. -/
def State.ctx (s : State) (d c : Nat) : RpsCtx :=
  (s.die d).rps.ctxs.getD c { cur := none, startTb := 0, change := none, eng := .reset, mask := 0, selfTest := 0 }

/-- Change context `c` of the RPS of die `d`. -/
def State.updCtx (s : State) (d c : Nat) (f : RpsCtx → RpsCtx) : State :=
  s.updRps d fun r => { r with ctxs := r.ctxs.modify c f }

/-- What a channel is now, as an entry of its past. -/
def Chan.present (c : Chan) (tb : Tb) : PinPast :=
  { until_ := tb, mode := c.st.mode, range := c.st.range, closed := c.st.switchClosed, settle := c.st.rangeSettle }

/-- A channel that has changed at `tb` from what it `was` notes that, and forgets what no sample and no increment still looks
at (R147, R150). -/
def Chan.noted (c : Chan) (tb : Tb) (was : Chan) : Chan :=
  if c.present tb = was.present tb then c
  else
    let keep := max 100000 ((c.meas.avgM1.toNat + 1) * 1000) + 110000
    { c with past := was.present tb :: c.past.filter fun p => decide (tb < p.until_ + keep) }

/-- What a channel was at TB `x`. -/
def Chan.pastAt (c : Chan) (x : Tb) : PinPast :=
  ((c.past.filter fun p => decide (x < p.until_)).getLast?).getD (c.present x)

/-- What a channel has been at some time within [lo, hi), `v` being the latest and `ps` what was before. -/
def spansGo (lo hi : Tb) : PinPast → List PinPast → List PinPast
  | v, [] => [v]
  | v, p :: ps =>
    let more := if p.until_ ≤ lo then [] else spansGo lo hi p ps
    if p.until_ < hi ∧ p.until_ < v.until_ then v :: more else more

/-- What a channel has been within [lo, hi), up to `now`. -/
def Chan.spans (c : Chan) (now lo hi : Tb) : List PinPast := spansGo lo hi (c.present (max now hi + 1)) c.past

/-- The TBs at which a switch opened, the latest first. -/
def opensGo : PinPast → List PinPast → List Tb
  | _, [] => []
  | v, p :: ps => if p.closed && !v.closed then p.until_ :: opensGo p ps else opensGo p ps

/-- The latest TB in (lo, hi] at which a channel's switch opened. -/
def Chan.openedIn (c : Chan) (lo hi : Tb) : Option Tb :=
  (opensGo (c.present 0) c.past).find? fun x => decide (lo < x) && decide (x ≤ hi)

/-- Change the lanes of a mask in cluster `c` of die `d`. -/
def State.updLanes (s : State) (d c : Nat) (m : BitVec 8) (f : Nat → Chan → Chan) : State :=
  s.updChans (fun n _ => decide (clusterOf n = d * 8 + c) && hasBit m (laneOf n)) fun n x => (f (laneOf n) x).noted s.tb x

/-- The request moves lanes to another range while it runs, so RANGE_SETTLE is 1 (R72). -/
def RpsOp.settles (op : RpsOp) (l : Nat) (c : Chan) : Bool :=
  match op with
  | .range _ => true
  | .change ls _ => ls.any fun e => e.1 == l && e.2.2.1 != c.st.range
  | .still _ _ => (c.override.getD c.still).range != c.st.range
  | .disconnect => c.still.range != c.st.range
  | _ => false

/-! ### The microengine's view of its die (R422 to R426) -/

/-- The place of a request's kind in the model's list; the part's own codes are `Config.requestKind` of it (R424). -/
def RpsOp.place : RpsOp → Nat
  | .connect _ _ _ => 0
  | .disconnect => 1
  | .config _ => 2
  | .range _ => 3
  | .change _ _ => 4
  | .gangForm _ _ _ => 5
  | .gangDissolve _ => 6
  | .still _ _ => 7
  | .stillLoad => 8
  | .calRoute _ _ => 9
  | .selfTest => 10

/-- The kind code of a request (R424). -/
def RpsOp.kind (op : RpsOp) : Nat := (Config.requestKind op.place).toNat

/-- The mode that a request moves a lane to (R422, R423). -/
def RpsOp.mode (op : RpsOp) (l : Nat) (c : Chan) : Mode :=
  match op with
  | .connect m _ _ => m
  | .config m => m
  | .change ls _ => ((ls.find? fun e => e.1 == l).map (·.2.1)).getD c.st.mode
  | .still _ _ => (c.override.getD c.still).mode
  | .disconnect => c.still.mode
  | .stillLoad => c.still.mode
  | _ => c.st.mode

/-- The range that a request moves a lane to (R422, R423). -/
def RpsOp.toRange (op : RpsOp) (l : Nat) (c : Chan) : BitVec 3 :=
  match op with
  | .connect _ r _ => r
  | .range r => r
  | .change ls _ => ((ls.find? fun e => e.1 == l).map (·.2.2.1)).getD c.st.range
  | .gangForm _ _ r => r
  | .still _ _ => (c.override.getD c.still).range
  | .disconnect => c.still.range
  | .stillLoad => c.still.range
  | _ => c.st.range

/-- The calibration-bus taps on `net` that contexts of die `d` have closed, without those of context `but`. -/
def State.tapsOn (s : State) (d net : Nat) (but : Option Nat) : Nat :=
  ((s.die d).rps.ctxs.zipIdx.map fun p =>
    if p.1.eng.net.toNat = net ∧ some p.2 ≠ but then (p.1.eng.sw.filter fun b => hasBit b 6).length else 0).sum

/-- What the conditions and dispatches of context `c` look at while it runs a request (R422, R423, R426). Targets are those of
the lowest active lane; the still entry in use is the override's where a run gives one (R70). -/
def State.microIn (s : State) (d c : Nat) (r : RpsReq) : MicroIn :=
  let k := d * 8 + c
  let lanes := bitsOf r.live
  let having (f : Chan → Bool) : BitVec 8 := maskOf 8 (lanes.filter fun l => f (s.chan (chanOf k l)))
  let l0 := lanes.headD 0
  let c0 := s.chan (chanOf k l0)
  { mask := r.live, chans := lanes.map (chanOf k)
    check := having fun x => x.cfg.senseCheck
    closed := having fun x => x.st.switchClosed
    connected := having fun x => (x.override.getD x.still).connected
    rangeUp := decide (c0.st.range.toNat < (r.op.toRange l0 c0).toNat)
    mode := (r.op.mode l0 c0).code, range := (r.op.toRange l0 c0).toNat, kind := r.op.kind
    gang := match r.op with
      | .gangForm _ m _ => m
      | _ => (s.gangLanes (chanOf k l0)).length
    hwStill := r.op == .stillLoad
    calrFree := s.dies.all fun x => x.calNet != 2
    calrTaps := (s.dieNums.map fun y => s.tapsOn y 2 (if y = d then some c else none)).sum
    caltTaps := s.tapsOn d 3 (some c) }

/-- The engine of context `c` as of now (R416, R424). The conditions are taken as they stand now (log entry 80). -/
def State.microNow (s : State) (d c : Nat) : Micro :=
  let x := s.ctx d c
  match x.cur with
  | some r => if (s.die d).rps.fault then x.eng else x.eng.upTo (s.die d).rps (s.microIn d c r) s.tb
  | none => x.eng

/-- Follow the engine of context `c` up to now. -/
def State.microSync (s : State) (d c : Nat) : State := s.updCtx d c fun x => { x with eng := s.microNow d c }

/-- Follow every engine of a die up to now. -/
def State.microSyncAll (s : State) (d : Nat) : State := (List.range 8).foldl (fun s c => s.microSync d c) s

/-- Start a request on its context (R418, R424): its lanes become busy, and its sequence starts at the ROM entry of its kind. -/
def State.rpsStart (s : State) (d : Nat) (r : RpsReq) : State :=
  let closed := maskOf 8 ((List.range 8).filter fun l => (s.chan (chanOf (d * 8 + r.c) l)).st.switchClosed)
  let s := s.updCtx d r.c fun x =>
    { x with cur := some r, startTb := s.tb, mask := r.live, eng := x.eng.start r.c r.op.kind closed s.tb }
  s.updLanes d r.c r.live fun l c =>
    { c with st := { c.st with rpsBusy := true, rangeSettle := c.st.rangeSettle || r.op.settles l c } }

/-- The request that context `c` starts next and the RPS without it: a fault request first, then a change record of a
run, then the oldest waiting request of the cluster (R20, R418, R419). -/
def rpsNext (r : Rps) (c : Nat) : Option (RpsReq × Rps) :=
  match r.urgent.find? fun q => q.c == c with
  | some q => some (q, { r with urgent := r.urgent.filter fun x => x.id != q.id })
  | none =>
    match (r.ctxs[c]?).bind RpsCtx.change with
    | some q => some (q, { r with ctxs := r.ctxs.modify c fun x => { x with change := none } })
    | none =>
      match r.queue.find? fun q => q.c == c with
      | some q => some (q, { r with queue := r.queue.filter fun x => x.id != q.id })
      | none => none

/-- Start what can start on context `c` of die `d`: nothing during a patch load or after an RPS fault (R428, R430). -/
def State.rpsPumpCtx (s : State) (d c : Nat) : State :=
  let r := (s.die d).rps
  if r.loading || r.fault || (s.ctx d c).cur.isSome then s
  else
    match rpsNext r c with
    | some (q, r') => (s.updRps d fun _ => r').rpsStart d q
    | none => s

/-- Start what can start on every context of a die. -/
def State.rpsPump (s : State) (d : Nat) : State := (List.range 8).foldl (fun s c => s.rpsPumpCtx d c) s

/-- Give a die's RPS a request behind those that wait (R418, R419). -/
def State.rpsSubmit (s : State) (d c : Nat) (lanes : BitVec 8) (tag : Option (BitVec 12)) (op : RpsOp) : State :=
  let s := s.updRps d fun r =>
    { r with queue := r.queue ++ [{ id := r.nextId, c, lanes, live := lanes, tag, op, lostAny := false }]
             nextId := r.nextId + 1 }
  s.rpsPumpCtx d c

/-- Give a die's RPS a fault request, ahead of every waiting one (R20, R418). -/
def State.rpsUrgent (s : State) (d c : Nat) (lanes : BitVec 8) (op : RpsOp) : State :=
  let s := s.updRps d fun r =>
    { r with urgent := r.urgent ++ [{ id := r.nextId, c, lanes, live := lanes, tag := none, op, lostAny := false }]
             nextId := r.nextId + 1 }
  s.rpsPumpCtx d c

/-- Give a context the change record of a segment start (R64, R418). Answers whether the context was busy, which makes
the change late (R75). -/
def State.rpsChange (s : State) (d c : Nat) (lanes : BitVec 8) (op : RpsOp) : Bool × State :=
  let busy := (s.ctx d c).cur.isSome || (s.die d).rps.urgent.any fun q => q.c == c
  let s := s.updRps d fun r =>
    { r with
      ctxs := r.ctxs.modify c fun x =>
        { x with change := some { id := r.nextId, c, lanes, live := lanes, tag := none, op, lostAny := false } }
      nextId := r.nextId + 1 }
  (busy, s.rpsPumpCtx d c)

/-! ### What requests do to their lanes -/

/-- The codes in force when the channel is still: the run's override, else its table entry (R70). -/
def Chan.stillCodes (c : Chan) : StillCodes := c.override.getD c.still

/-- The DAC codes of still codes: the force code and the two clamps; other levels keep their codes (R69). -/
def Codes.withStill (x : Codes) (e : StillCodes) : Codes :=
  { force := e.force, levels := (x.levels.set 5 e.clampHi).set 6 e.clampLo }

/-- The DACs of some KINDs are loaded anew: they go by the coefficients of now (R376, R388). -/
def Chan.fresh (c : Chan) (kinds : List Nat) : Chan :=
  { c with anaHeld := c.anaHeld.mapIdx fun i x => if kinds.contains i then none else x }

/-- The KINDs of the force DAC and of the two clamps (R43), whose pairs go by mode and range (R375). -/
abbrev rangedKinds : List Nat := [0, 6, 7]

/-- Load codes through the shadows into the DACs of some KINDs (R44, R425). -/
def Chan.loadCodes (c : Chan) (x : Codes) (kinds : List Nat) : Chan := { c with dac := x, shadow := x }.fresh kinds

/-- Currents beyond ±1.05 × FS of the range in FI set OVERRANGE_FORCE (R42): |code - 131,072| > 110,100 codes. -/
def Chan.checkOverrange (c : Chan) : Chan :=
  if c.st.mode = .fi ∧ ((c.dac.force.toNat : Int) - 131072).natAbs > 110100 then
    { c with fl := { c.fl with overrange := true } }
  else c

/-- A channel with the codes, mode and range of a still entry applied; the driver is off (R69). A force code beyond the
limit of its range sets OVERRANGE_FORCE (R42). -/
def Chan.applyStill (c : Chan) (e : StillCodes) : Chan :=
  let c := c.loadCodes (c.dac.withStill e) rangedKinds
  ({ c with drive := .off, st := { c.st with mode := e.mode, range := e.range, still := true, clampLive := false } } :
    Chan).checkOverrange

/-- An orderly still entry (R69, R70): the switch stays as CONNECTED of the entry in use says, or closed for a run that
waits (R198); it never closes an open switch. -/
def Chan.orderlyStill (c : Chan) (cause : BitVec 4) (keep : Bool) : Chan :=
  let e := c.stillCodes
  let c := c.applyStill e
  { c with st := { c.st with switchClosed := c.st.switchClosed && (e.connected || keep), lastCause := cause } }

/-- A disconnect (R63, R69): an orderly still entry that opens the switch; the override ends (R70). -/
def Chan.disconnect (c : Chan) : Chan :=
  let c := { c with override := none }
  let c := c.applyStill c.still
  { c with st := { c.st with switchClosed := false, lastCause := 2 } }

/-- A connect (R63, R65): mode, range and codes as requested, the switch closed. -/
def Chan.connect (c : Chan) (mode : Mode) (range : BitVec 3) (codes : Codes) : Chan :=
  let c := { c with override := none }.loadCodes codes (List.range 8)
  { c with st := { c.st with mode, range, switchClosed := true, still := false } }

/-- What a completed request does to one of its lanes. `kelvin` says that the lane's Kelvin check failed (R60, R432): its
switch is open, and it shows the mode, range and codes it had before the connect, which the spec does not say (DESIGN
CHOICE, unsafe, log entry 77). -/
def Chan.rpsEffect (c : Chan) (op : RpsOp) (l : Nat) (kelvin : Bool) : Chan :=
  let c := match op with
    | .connect mode range codes =>
      if kelvin then { c with fl := { c.fl with senseOpen := true }, st := { c.st with switchClosed := false } }
      else (c.connect mode range codes).checkOverrange
    | .disconnect => c.disconnect
    | .config mode => ({ c with st := { c.st with mode, clampLive := false } }.fresh rangedKinds).checkOverrange
    | .range r => { c with st := { c.st with range := r } }.fresh rangedKinds
    | .change ls _ =>
      match ls.find? fun (e : Nat × Mode × BitVec 3 × Option (BitVec 18)) => e.1 == l with
      | some (_, mode, range, force) =>
        (({ c with
            dac := { c.dac with force := force.getD c.dac.force }
            shadow := { c.shadow with force := force.getD c.shadow.force }
            st := { c.st with mode, range, still := false } } : Chan).fresh rangedKinds).checkOverrange
      | none => c
    | .gangForm l0 m range =>
      { c with st := { c.st with gangMeas := l == l0, gangMember := l != l0, gangSizeM1 := BitVec.ofNat 3 (m - 1),
                                 range } }
    | .gangDissolve _ => { c with st := { c.st with gangMeas := false, gangMember := false, gangSizeM1 := 0 } }
    | .still cause keep => c.orderlyStill cause (hasBit keep l)
    | .stillLoad => c.applyStill c.still
    | .calRoute _ _ => c
    | .selfTest => c
  { c with st := { c.st with rpsBusy := false, rangeSettle := false } }

/-- The lanes of a mask that a command names: a gang is named by its measuring lane (R76, R322; log entry 48). -/
def State.namedLanes (s : State) (k : Nat) (m : BitVec 8) : BitVec 8 :=
  maskOf 8 ((bitsOf m).filter fun l => !(s.chan (chanOf k l)).st.gangMember)

/-- Answer the requester of a request that ended on cluster `k` (R71, R323, R417): `fail` are the lanes whose Kelvin check
failed. A CAL_STEP goes on after its route. -/
def State.rpsReply (s : State) (k : Nat) (r : RpsReq) (fail : BitVec 8) : State :=
  let lost := r.lanes &&& ~~~r.live
  match r.op with
  | .connect _ _ _ =>
    let res := resultOf [(0x10, (s.namedLanes k (r.live &&& ~~~fail)).toNat),
      (0x11, (s.namedLanes k (fail ||| lost)).toNat)]
    if fail ≠ 0 then s.finish? r.tag .hwFault 0x01 res 0
    else if r.lostAny then s.finish? r.tag .hwFault 0x08 res 0
    else s.finish? r.tag .ok 0 res 0
  | .calRoute _ _ => if r.lostAny then s.finish? r.tag .hwFault 0x08 0 0 else s
  | _ => if r.lostAny then s.finish? r.tag .hwFault 0x08 0 0 else s.finish? r.tag .ok 0 0 0

/-- A request without the lanes of a mask. -/
def RpsReq.drop (r : RpsReq) (m : BitVec 8) : RpsReq :=
  { r with live := r.live &&& ~~~m, lostAny := r.lostAny || decide (r.live &&& m ≠ 0) }

/-- The requests that wait for context `c` lose the lanes of a mask, which have entered still: those of the die queue, and
orderly stills that go ahead of it. A still-code load stays. One without lanes is discarded and its requester is answered
REVOKED, detail FAULT (R71, R221), a CAL_STEP HW_FAULT, detail RPS (R385). -/
def State.rpsDropQueued (s : State) (d c : Nat) (m : BitVec 8) : State :=
  let hit (q : RpsReq) : Bool := q.c == c && decide (q.live &&& m ≠ 0) && q.op != .stillLoad
  let cut (qs : List RpsReq) : List RpsReq :=
    (qs.map fun q => if hit q then q.drop m else q).filter fun q => decide (q.live ≠ 0)
  let r := (s.die d).rps
  let gone := (r.urgent ++ r.queue).filter fun q => hit q && decide ((q.drop m).live = 0)
  let s := s.updRps d fun r => { r with queue := cut r.queue, urgent := cut r.urgent }
  gone.foldl (fun s q => match q.op with
    | .calRoute _ _ => s.finish? q.tag .hwFault 0x08 0 0
    | _ => s.finish? q.tag .revoked 0x04 0 0) s

/-- The request puts its lanes into still when it ends (R63, R69). -/
def RpsOp.stills (op : RpsOp) : Bool :=
  match op with
  | .still _ _ => true
  | .disconnect => true
  | _ => false

/-- The request on context `c` of die `d` ends: its lanes take its effect, its requester is answered, requests that wait
lose the lanes that entered still (R71), and what waits starts (R20, R418). A lane that failed its self-test is not connected (R432). -/
def State.rpsEnd (s : State) (d c : Nat) (kelvin : BitVec 8) : State :=
  match (s.ctx d c).cur with
  | none => s
  | some r₀ =>
    let r := match r₀.op with
      | .connect _ _ _ => r₀.drop (s.wholeGangs (d * 8 + c) (s.ctx d c).selfTest)
      | _ => r₀
    let checked := maskOf 8 ((bitsOf r.live).filter fun l => (s.chan (chanOf (d * 8 + c) l)).cfg.senseCheck)
    let fail := match r.op with
      | .connect _ _ _ => s.wholeGangs (d * 8 + c) (kelvin &&& checked)
      | _ => 0
    let s := (s.microSync d c).updCtx d c fun x => { x with cur := none, mask := 0 }
    let s := s.updRps d fun x => { x with reqCnt := inc32 x.reqCnt }
    let s := s.updLanes d c r₀.live fun l ch =>
      if hasBit r.live l then ch.rpsEffect r.op l (hasBit fail l)
      else { ch with st := { ch.st with rpsBusy := false, rangeSettle := false } }
    let s := s.rpsReply (d * 8 + c) r fail
    (if r.op.stills then s.rpsDropQueued d c r.live else s).rpsPumpCtx d c

/-! ### Losing lanes -/

/-- Every request that waits loses lanes that a fault puts into still: those of the queues, and a run's change record
(R71, R417). -/
def State.rpsDropWaiting (s : State) (d c : Nat) (m : BitVec 8) : State :=
  (s.updCtx d c fun x =>
    { x with change := (x.change.map fun q => q.drop m).filter fun q => decide (q.live ≠ 0) }).rpsDropQueued d c m

/-- The lanes of a mask leave the sequence in progress on their context (R71, R417); a sequence left without lanes
ends. -/
def State.rpsAbandon (s : State) (d c : Nat) (m : BitVec 8) : State :=
  match (s.ctx d c).cur with
  | none => s
  | some r =>
    let hit := r.live &&& m
    if hit = 0 then s
    else
      let r' := r.drop m
      let s := s.microSync d c
      let s := s.updCtx d c fun x => { x with eng := { x.eng with
        sw := x.eng.sw.mapIdx fun l b => if hasBit hit l then b &&& 0x7C else b } }
      let s := s.updRps d fun x => { x with abandonCnt := add32 x.abandonCnt (bitsOf hit).length }
      let s := s.updLanes d c hit fun _ ch =>
        { ch with st := { ch.st with rpsBusy := false, rangeSettle := false } }
      if r'.live = 0 then
        let s := s.updCtx d c fun x => { x with cur := none, mask := 0 }
        s.rpsReply (d * 8 + c) r' 0
      else s.updCtx d c fun x => { x with cur := some r', mask := r'.live }

/-! ### Still entries -/

/-- A hardware still entry of lanes of one cluster (R69, R71, R417): driver off and switch open at once, the sequence
in progress abandoned for those lanes, waiting requests without them, and the still codes loaded by the RPS ahead of
what waits. -/
def State.hwStillLanes (s : State) (k : Nat) (m : BitVec 8) (cause : BitVec 4) : State :=
  let d := dieOfCluster k
  let c := k % 8
  if m = 0 then s
  else
    let s := s.rpsAbandon d c m
    let s := s.rpsDropWaiting d c m
    let s := s.updLanes d c m fun _ ch =>
      { ch with
        drive := .off
        override := none
        wave := none
        st := { ch.st with still := true, switchClosed := false, clampLive := false, lastCause := cause } }
    (s.rpsUrgent d c m .stillLoad).rpsPumpCtx d c

/-- A hardware still entry of a channel, or of its whole gang (R76). -/
def State.hwStill (s : State) (n : Nat) (cause : BitVec 4) : State :=
  s.hwStillLanes (clusterOf n) (maskOf 8 (s.gangLanes n)) cause

/-- A hardware still entry of every channel of a die (R39, R342, R404). -/
def State.hwStillDie (s : State) (d : Nat) (cause : BitVec 4) : State :=
  (List.range 8).foldl (fun s c => s.hwStillLanes (d * 8 + c) 0xFF cause) s

/-- An orderly still entry of lanes of one cluster in queue order (R69, R418). -/
def State.orderlyStillLanes (s : State) (k : Nat) (m : BitVec 8) (cause : BitVec 4) (keep : BitVec 8) : State :=
  if m = 0 then s else s.rpsSubmit (dieOfCluster k) (k % 8) m none (.still cause keep)

/-- An orderly disconnect of a channel (or its gang) that no command waits for (R317, R371, R402). -/
def State.orderlyDisconnect (s : State) (n : Nat) : State :=
  s.rpsSubmit (dieOfCluster (clusterOf n)) (clusterOf n % 8) (maskOf 8 (s.gangLanes n)) none .disconnect

/-! ### Service bounds -/

/-- The service bound of a request in ns (R421). -/
def RpsOp.bound (op : RpsOp) (rangeChanges : Bool) : Nat :=
  match op with
  | .connect _ _ _ => 62000
  | .disconnect => if rangeChanges then 122000 else 62000
  | .still _ _ => if rangeChanges then 122000 else 62000
  | .config _ => 62000
  | .range _ => 62000
  | .change _ _ => 122000
  | .gangForm _ _ _ => 62000
  | .gangDissolve _ => 62000
  | .stillLoad => 22000
  | .calRoute _ _ => 12000
  | .selfTest => 202000

/-- A lane's still codes name another range than the present one. -/
def State.stillChangesRange (s : State) (k : Nat) (m : BitVec 8) : Bool :=
  (bitsOf m).any fun l => (s.chan (chanOf k l)).stillCodes.range != (s.chan (chanOf k l)).st.range

/-- The service bound of a request that waits or runs. -/
def State.boundOf (s : State) (d : Nat) (r : RpsReq) : Nat := r.op.bound (s.stillChangesRange (d * 8 + r.c) r.live)

/-- The service bounds of the requests already queued ahead for a cluster (R214, R419): waiting fault requests, waiting
requests and the one in progress. -/
def State.queuedBound (s : State) (k : Nat) : Nat :=
  let d := dieOfCluster k
  let r := (s.die d).rps
  let qs := ((r.urgent ++ r.queue).filter fun q => q.c == k % 8) ++ (s.ctx d (k % 8)).cur.toList
  (qs.map fun q => s.boundOf d q).sum

end Sys2Proof.Machine
end

