-- ==== Sys2Proof/Machine/Pin.lean ====
section
/-! DEFINITION. Codes, ranges and levels of the pin channel (R42, R47, R48, R53, R56) and its standing charge (R208).
Voltages are in volts, currents in milliamperes, powers in milliwatts, all exact. -/

namespace Sys2Proof.Machine

/-- Full scale of a range in mA (R56); codes 6 and 7 are reserved. -/
def fullScale (range : Nat) : Rat :=
  match range with
  | 0 => 1 / 1000
  | 1 => 1 / 100
  | 2 => 1 / 10
  | 3 => 1
  | 4 => 8
  | 5 => 32
  | _ => 0

/-- Voltage of a force code (R42). -/
def forceV (code : Nat) : Rat := (code : Rat) * 12 / 262144 - 3

/-- Current of a force code as a part of 1.25 x FS, times FS (R42). -/
def forceI (code : Nat) (fs : Rat) : Rat := ((code : Rat) - 131072) / 131072 * (5 / 4) * fs

/-- Voltage of a level code (R47). -/
def levelV (code : Nat) : Rat := (code : Rat) * 12 / 65536 - 3

/-- Current of a clamp code (R47). -/
def levelI (code : Nat) (fs : Rat) : Rat := ((code : Rat) - 32768) / 32768 * (5 / 4) * fs

/-- The largest swing VIH - VIL at a data rate given as the vector period in ns (R53). -/
def swingLimit (period : Rat) : Rat :=
  if period ≥ 5 then 6
  else if period ≥ 5 / 4 then 9 / 2
  else if period ≥ 5 / 8 then 7 / 2
  else 5 / 2

/-- The conditions of R48 on a level set. `mode` none leaves out the rows that depend on the mode, except
CLAMP_LO ≤ CLAMP_HI (R65); `given j` says that code `j` is checked; a condition counts when it involves a checked
code. -/
def levelsOk (mode : Option Mode) (swing : Rat) (given : Nat → Bool) (ls : List (BitVec 16)) : Bool :=
  let c (j : Nat) : Nat := (ls.getD j 0).toNat
  let v (j : Nat) : Rat := levelV (c j)
  let need (js : List Nat) (p : Bool) : Bool := !(js.any given) || p
  let within (j : Nat) (lo hi : Rat) : Bool := need [j] (decide (lo ≤ v j) && decide (v j ≤ hi))
  within 0 (-1) 6 && within 1 (-1) 6 && within 2 (-1) 6 && within 3 (-2) 7 && within 4 (-2) 7
    && need [0, 1] (decide (c 1 ≤ c 0) && decide (v 0 - v 1 ≤ swing))
    && need [3, 4] (decide (c 4 ≤ c 3))
    && (match mode with
      | none => need [5, 6] (decide (c 6 ≤ c 5))
      | some .digital =>
        within 5 (-5 / 2) (15 / 2) && within 6 (-5 / 2) (15 / 2)
          && need [6, 1, 2, 4] (decide (v 6 ≤ min (v 1) (min (v 2) (v 4)) - 1 / 5))
          && need [5, 0, 2, 3] (decide (max (v 0) (max (v 2) (v 3)) + 1 / 5 ≤ v 5))
      | some .fv =>
        need [5] (decide (33293 ≤ c 5) && decide (c 5 ≤ 61603)) && need [6] (decide (3933 ≤ c 6) && decide (c 6 ≤ 32243))
      | some .fi => need [5, 6] (decide (c 6 + 1093 ≤ c 5))
      | some _ => need [5, 6] (decide (c 6 ≤ c 5)))

/-- Clamps of a still entry that R48 allows for its mode (R68). -/
def StillCodes.clampsOk (e : StillCodes) : Bool :=
  levelsOk (some e.mode) 6 (fun j => j == 5 || j == 6)
    [0x4000, 0x4000, 0x4000, 0x4000, 0x4000, e.clampHi, e.clampLo]

/-- The entry that a channel takes: the table's where it is valid, else the default one (R68). -/
def stillOrDefault (valid : Bool) (e : StillCodes) : StillCodes :=
  if valid && e.clampsOk then e else StillCodes.default

/-- The standing charge in mW of a channel in a mode, range and codes; `m` lanes of a gang together (R208). -/
def chargeOf (mode : Mode) (range : Nat) (x : Codes) (m : Nat) : Rat :=
  let fs := fullScale range
  let cap := 21 / 20 * fs
  let hi := (x.levels.getD 5 0).toNat
  let lo := (x.levels.getD 6 0).toNat
  let abs (a : Rat) : Rat := if a < 0 then -a else a
  match mode with
  | .fv =>
    let i := min (max (abs (levelI hi fs)) (abs (levelI lo fs))) cap
    let v := forceV x.force.toNat
    (m : Rat) * i * max (23 / 2 - v) (v + 5)
  | .fi =>
    let i := min (abs (forceI x.force.toNat fs)) cap
    (m : Rat) * i * max (23 / 2 - levelV lo) (levelV hi + 5)
  | .digital => 100
  | _ => 0

/-- Number of lanes that a channel's charge counts: its gang's size for a measuring lane, none for a member (R208). -/
def Chan.lanesCharged (c : Chan) : Nat :=
  if c.st.gangMember then 0 else if c.st.gangMeas then c.st.gangSizeM1.toNat + 1 else 1

/-- The standing charge of a channel as it stands: nothing while its switch is open (R208). -/
def Chan.charge (c : Chan) : Rat :=
  if c.st.switchClosed ∧ ¬ c.st.gangMember then
    chargeOf c.st.mode c.st.range.toNat c.dac c.lanesCharged
  else 0

/-- The standing charge of a still entry that closes its switch (R67). -/
def StillCodes.charge (e : StillCodes) : Rat :=
  if e.connected then
    chargeOf e.mode e.range.toNat
      { force := e.force, levels := [0, 0, 0, 0, 0, e.clampHi, e.clampLo] } 1
  else 0

/-- The codes that a host force group leaves in the DACs (R44). -/
def Codes.load (x : Codes) (es : List QEntry) : Codes :=
  es.foldl (fun x e =>
    if e.kind = 0 then { x with force := e.code }
    else { x with levels := x.levels.set (e.kind.toNat - 1) (e.code.setWidth 16) }) x

/-- The groups of CHANNEL_FORCE whose time has come enter the code queue in their order (R43, R323). -/
def Chan.join (c : Chan) (tb : Tb) : Chan :=
  let due := c.forces.filter fun f => decide (f.instant ≤ tb)
  { c with queue := c.queue ++ due.flatMap fun f => f.entries.map fun e => { e with owner := some f.tag }
           forces := c.forces.filter fun f => !decide (f.instant ≤ tb) }

/-- Channel `n` once every RPS request and host force group that waits for it has been carried out. -/
def State.futureChan (s : State) (n : Nat) : Chan :=
  let d := dieOfCluster (clusterOf n)
  let c := clusterOf n % 8
  let l := laneOf n
  let r := (s.die d).rps
  let ops := ((s.ctx d c).cur.toList ++ r.queue.filter fun q => q.c == c).filter fun q => hasBit q.live l
  let ch := ops.foldl (fun ch q => ch.rpsEffect q.op l false) (s.chan n)
  { ch with dac := ch.forces.foldl (fun x f => x.load f.entries) (ch.dac.load ch.queue) }

/-- The standing charge that the weir counts for a channel: the larger of its charge now and its charge after what it
has accepted for it (R208). -/
def State.charge (s : State) (n : Nat) : Rat := max (s.chan n).charge (s.futureChan n).charge

end Sys2Proof.Machine
end

