-- ==== Sys2Proof/Machine/Operands.lean ====
section
/-! DEFINITION. Mailbox descriptors (R306 to R331): the opcode, class and payload layout of every mailbox command, the
reading of a descriptor's 64 bytes, and the checks of R308 on the values of a payload. -/

namespace Sys2Proof.Machine

/-- What a descriptor says: opcode, class, header, the command with its time left open and without what the part reads
elsewhere, its payload fields as (descriptor offset, bytes, value), and whether its lists have their full length. -/
structure Desc where
  op     : Nat
  cls    : Nat
  h      : Hdr
  bare   : Instr
  fields : List (Nat × Nat × Nat)
  whole  : Bool

/-- Payload fields of a list of equal entries from a descriptor offset on. -/
def listFields {w : Nat} (off size : Nat) (xs : List (BitVec w)) : List (Nat × Nat × Nat) :=
  xs.zipIdx.map fun p => (off + size * p.2, size, p.1.toNat)

/-- The descriptor of a mailbox command (R319 to R331); none for other commands. -/
def descOf : Instr → Option Desc
  | .identify _ h hostAddr =>
    some { op := 0x0001, cls := 0, h, bare := .identify 0 h hostAddr,
           fields := [(0x10, 8, hostAddr.toNat)],
           whole := true }
  | .getStatus _ h =>
    some { op := 0x0002, cls := 0, h, bare := .getStatus 0 h,
           fields := [],
           whole := true }
  | .resync _ h hostAddr =>
    some { op := 0x0003, cls := 0, h, bare := .resync 0 h hostAddr,
           fields := [(0x10, 8, hostAddr.toNat)],
           whole := true }
  | .channelConfig _ h k lanes apply mode cfg measSel avgM1 dacDiv =>
    some { op := 0x0010, cls := 1, h, bare := .channelConfig 0 h k lanes apply mode cfg measSel avgM1 dacDiv,
           fields := [(0x10, 1, k.toNat), (0x11, 1, lanes.toNat), (0x12, 1, apply.toNat), (0x13, 1, mode.toNat),
               (0x14, 1, cfg.toNat), (0x15, 1, measSel.toNat), (0x16, 2, avgM1.toNat), (0x18, 2, dacDiv.toNat)],
           whole := true }
  | .channelConnect _ h k lanes mode range force levels =>
    some { op := 0x0011, cls := 1, h, bare := .channelConnect 0 h k lanes mode range force levels,
           fields := [(0x10, 1, k.toNat), (0x11, 1, lanes.toNat), (0x12, 1, mode.toNat), (0x13, 1, range.toNat),
               (0x14, 4, force.toNat)] ++ listFields 0x18 2 levels,
           whole := levels.length == 7 }
  | .channelDisconnect _ h k lanes =>
    some { op := 0x0012, cls := 1, h, bare := .channelDisconnect 0 h k lanes,
           fields := [(0x10, 1, k.toNat), (0x11, 1, lanes.toNat)],
           whole := true }
  | .channelRange _ h k lanes range =>
    some { op := 0x0013, cls := 1, h, bare := .channelRange 0 h k lanes range,
           fields := [(0x10, 1, k.toNat), (0x11, 1, lanes.toNat), (0x12, 1, range.toNat)],
           whole := true }
  | .channelForce _ h k lanes kinds force levels =>
    some { op := 0x0014, cls := 1, h, bare := .channelForce 0 h k lanes kinds force levels,
           fields := [(0x10, 1, k.toNat), (0x11, 1, lanes.toNat), (0x12, 1, kinds.toNat), (0x14, 4, force.toNat)] ++
               listFields 0x18 2 levels,
           whole := levels.length == 7 }
  | .channelMeasure _ h k lanes =>
    some { op := 0x0015, cls := 1, h, bare := .channelMeasure 0 h k lanes,
           fields := [(0x10, 1, k.toNat), (0x11, 1, lanes.toNat)],
           whole := true }
  | .gangSet _ h k l0 m range =>
    some { op := 0x0016, cls := 1, h, bare := .gangSet 0 h k l0 m range,
           fields := [(0x10, 1, k.toNat), (0x11, 1, l0.toNat), (0x12, 1, m.toNat), (0x13, 1, range.toNat)],
           whole := true }
  | .refDacSet _ h die j code tick =>
    some { op := 0x0017, cls := 1, h, bare := .refDacSet 0 h die j code tick,
           fields := [(0x10, 1, die.toNat), (0x11, 1, j.toNat), (0x12, 2, code.toNat), (0x18, 8, tick.toNat)],
           whole := true }
  | .guardSet _ h k guard =>
    some { op := 0x0018, cls := 1, h, bare := .guardSet 0 h k guard,
           fields := [(0x10, 1, k.toNat), (0x11, 1, guard.toNat)],
           whole := true }
  | .channelQuery _ h n =>
    some { op := 0x0019, cls := 0, h, bare := .channelQuery 0 h n,
           fields := [(0x10, 2, n.toNat)],
           whole := true }
  | .imageLoad _ h hostAddr size units =>
    some { op := 0x0020, cls := 2, h, bare := .imageLoad 0 h hostAddr size units,
           fields := [(0x10, 8, hostAddr.toNat), (0x18, 8, size.toNat)] ++ listFields 0x20 4 units,
           whole := units.length == 8 }
  | .imageVerify _ h id =>
    some { op := 0x0021, cls := 2, h, bare := .imageVerify 0 h id,
           fields := [(0x10, 8, id.toNat)],
           whole := true }
  | .imageUnload _ h id =>
    some { op := 0x0022, cls := 2, h, bare := .imageUnload 0 h id,
           fields := [(0x10, 8, id.toNat)],
           whole := true }
  | .imageQuery _ h id =>
    some { op := 0x0023, cls := 0, h, bare := .imageQuery 0 h id,
           fields := [(0x10, 8, id.toNat)],
           whole := true }
  | .runStart _ h id group mode startTb =>
    some { op := 0x0030, cls := 1, h, bare := .runStart 0 h id group mode startTb,
           fields := [(0x10, 8, id.toNat), (0x18, 1, group.toNat), (0x19, 1, mode.toNat), (0x20, 8, startTb.toNat)],
           whole := true }
  | .runStop _ h group runTag =>
    some { op := 0x0031, cls := 1, h, bare := .runStop 0 h group runTag,
           fields := [(0x10, 1, group.toNat), (0x12, 2, runTag.toNat)],
           whole := true }
  | .runAbort _ h group runTag =>
    some { op := 0x0032, cls := 1, h, bare := .runAbort 0 h group runTag,
           fields := [(0x10, 1, group.toNat), (0x12, 2, runTag.toNat)],
           whole := true }
  | .runQuery _ h group runTag =>
    some { op := 0x0033, cls := 0, h, bare := .runQuery 0 h group runTag,
           fields := [(0x10, 1, group.toNat), (0x12, 2, runTag.toNat)],
           whole := true }
  | .trigConfig _ h k source cond pol select lane thrHi thrLo =>
    some { op := 0x0034, cls := 1, h, bare := .trigConfig 0 h k source cond pol select lane thrHi thrLo,
           fields := [(0x10, 1, k.toNat), (0x11, 1, source.toNat + 16 * cond.toNat + 64 * pol.toNat), (0x12, 2,
               select.toNat), (0x14, 1, lane.toNat), (0x18, 4, thrHi.toNat), (0x1c, 4, thrLo.toNat)],
           whole := true }
  | .trigArm _ h kind id opts max hold a =>
    some { op := 0x0035, cls := 1, h, bare := .trigArm 0 h kind id opts max hold a,
           fields := [(0x10, 1, kind.toNat), (0x11, 1, id.toNat), (0x12, 1, opts.toNat), (0x14, 4, max.toNat),
               (0x18, 8, hold.toNat), (0x20, 8, a.toNat)],
           whole := true }
  | .trigDisarm _ h kind id d =>
    some { op := 0x0036, cls := 1, h, bare := .trigDisarm 0 h kind id d,
           fields := [(0x10, 1, kind.toNat), (0x11, 1, id.toNat), (0x18, 8, d.toNat)],
           whole := true }
  | .captureConfig _ h k s mode sram chunk pre post ringBase ringSize =>
    some { op := 0x0040, cls := 1, h, bare := .captureConfig 0 h k s mode sram chunk pre post ringBase ringSize,
           fields := [(0x10, 1, k.toNat), (0x11, 1, s.toNat), (0x12, 1, mode.toNat), (0x13, 1, sram.toNat), (0x14,
               2, chunk.toNat), (0x16, 2, pre.toNat), (0x18, 2, post.toNat), (0x20, 8, ringBase.toNat), (0x28, 4,
               ringSize.toNat)],
           whole := true }
  | .captureStart _ h k streams tick =>
    some { op := 0x0041, cls := 1, h, bare := .captureStart 0 h k streams tick,
           fields := [(0x10, 1, k.toNat), (0x12, 2, streams.toNat), (0x18, 8, tick.toNat)],
           whole := true }
  | .captureStop _ h k streams tick =>
    some { op := 0x0042, cls := 1, h, bare := .captureStop 0 h k streams tick,
           fields := [(0x10, 1, k.toNat), (0x12, 2, streams.toNat), (0x18, 8, tick.toNat)],
           whole := true }
  | .captureRelease _ h k s readOff =>
    some { op := 0x0043, cls := 1, h, bare := .captureRelease 0 h k s readOff,
           fields := [(0x10, 1, k.toNat), (0x11, 1, s.toNat), (0x14, 4, readOff.toNat)],
           whole := true }
  | .captureRead _ h k s length ringOff hostAddr =>
    some { op := 0x0044, cls := 2, h, bare := .captureRead 0 h k s length ringOff hostAddr,
           fields := [(0x10, 1, k.toNat), (0x11, 1, s.toNat), (0x14, 4, length.toNat), (0x18, 4, ringOff.toNat),
               (0x20, 8, hostAddr.toNat)],
           whole := true }
  | .resultsRead _ h group hist first count runS hostAddr =>
    some { op := 0x0045, cls := 2, h, bare := .resultsRead 0 h group hist first count runS hostAddr,
           fields := [(0x10, 1, group.toNat), (0x11, 1, hist.toNat), (0x12, 2, first.toNat), (0x14, 2, count.toNat),
               (0x18, 8, runS.toNat), (0x20, 8, hostAddr.toNat)],
           whole := true }
  | .failLogRead _ h k first count hostAddr =>
    some { op := 0x0046, cls := 2, h, bare := .failLogRead 0 h k first count hostAddr,
           fields := [(0x10, 1, k.toNat), (0x14, 4, first.toNat), (0x18, 4, count.toNat), (0x20, 8, hostAddr.toNat)],
           whole := true }
  | .failLogConfig _ h k policy =>
    some { op := 0x0047, cls := 1, h, bare := .failLogConfig 0 h k policy,
           fields := [(0x10, 1, k.toNat), (0x11, 1, policy.toNat)],
           whole := true }
  | .failClear _ h k lanes =>
    some { op := 0x0048, cls := 1, h, bare := .failClear 0 h k lanes,
           fields := [(0x10, 1, k.toNat), (0x11, 1, lanes.toNat)],
           whole := true }
  | .chargeClear _ h k lanes b =>
    some { op := 0x0049, cls := 1, h, bare := .chargeClear 0 h k lanes b,
           fields := [(0x10, 1, k.toNat), (0x11, 1, lanes.toNat), (0x18, 8, b.toNat)],
           whole := true }
  | .captureQuery _ h k s =>
    some { op := 0x004A, cls := 0, h, bare := .captureQuery 0 h k s,
           fields := [(0x10, 1, k.toNat), (0x11, 1, s.toNat)],
           whole := true }
  | .lockGroupSet _ h group master flags slot mask =>
    some { op := 0x0050, cls := 1, h, bare := .lockGroupSet 0 h group master flags slot mask,
           fields := [(0x10, 1, group.toNat), (0x11, 1, master.toNat), (0x12, 1, flags.toNat), (0x13, 1,
               slot.toNat), (0x18, 8, mask.toNat)],
           whole := true }
  | .lockGroupQuery _ h group =>
    some { op := 0x0051, cls := 0, h, bare := .lockGroupQuery 0 h group,
           fields := [(0x10, 1, group.toNat)],
           whole := true }
  | .pllSet _ h die st =>
    some { op := 0x0052, cls := 1, h, bare := .pllSet 0 h die st,
           fields := [(0x10, 1, die.toNat), (0x18, 4, st.frac.toNat), (0x1C, 1, st.nint.toNat), (0x1D, 1,
               st.post.toNat), (0x1E, 1, st.flags.toNat), (0x1F, 1, st.rsv0.toNat), (0x20, 4, st.seed.toNat), (0x24,
               4, st.rsv1.toNat)],
           whole := true }
  | .pllSync _ h mask tick =>
    some { op := 0x0053, cls := 1, h, bare := .pllSync 0 h mask tick,
           fields := [(0x10, 1, mask.toNat), (0x18, 8, tick.toNat)],
           whole := true }
  | .tbAlign _ h =>
    some { op := 0x0054, cls := 1, h, bare := .tbAlign 0 h,
           fields := [],
           whole := true }
  | .lockLinkCfg _ h role lat =>
    some { op := 0x0055, cls := 1, h, bare := .lockLinkCfg 0 h role lat,
           fields := [(0x10, 1, role.toNat), (0x11, 1, lat.toNat)],
           whole := true }
  | .weirConfig _ h horizonRun horizonBulk =>
    some { op := 0x0056, cls := 1, h, bare := .weirConfig 0 h horizonRun horizonBulk,
           fields := [(0x14, 4, horizonRun.toNat), (0x18, 4, horizonBulk.toNat)],
           whole := true }
  | .calRead _ h die off len hostAddr =>
    some { op := 0x0060, cls := 3, h, bare := .calRead 0 h die off len hostAddr,
           fields := [(0x10, 1, die.toNat), (0x14, 4, off.toNat), (0x18, 4, len.toNat), (0x20, 8, hostAddr.toNat)],
           whole := true }
  | .calWrite _ h die off len hostAddr _ =>
    some { op := 0x0061, cls := 3, h, bare := .calWrite 0 h die off len hostAddr [],
           fields := [(0x10, 1, die.toNat), (0x14, 4, off.toNat), (0x18, 4, len.toNat), (0x20, 8, hostAddr.toNat)],
           whole := true }
  | .calCommit _ h =>
    some { op := 0x0062, cls := 3, h, bare := .calCommit 0 h,
           fields := [],
           whole := true }
  | .calStep _ h step arg _ =>
    some { op := 0x0063, cls := 3, h, bare := .calStep 0 h step arg [],
           fields := [(0x10, 2, step.toNat)] ++ listFields 0x14 1 arg,
           whole := arg.length == 12 }
  | .calStatus _ h =>
    some { op := 0x0064, cls := 0, h, bare := .calStatus 0 h,
           fields := [],
           whole := true }
  | .thermalRead _ h die sensor =>
    some { op := 0x0070, cls := 1, h, bare := .thermalRead 0 h die sensor,
           fields := [(0x10, 1, die.toNat), (0x11, 1, sensor.toNat)],
           whole := true }
  | .thermalConfig _ h die apply watchMs warn throttle shutdown graceMs extType a b c =>
    some { op := 0x0071, cls := 1, h, bare := .thermalConfig 0 h die apply watchMs warn throttle shutdown graceMs
             extType a b c,
           fields := [(0x10, 1, die.toNat), (0x11, 1, apply.toNat), (0x12, 2, watchMs.toNat), (0x14, 2, warn.toNat),
               (0x16, 2, throttle.toNat), (0x18, 2, shutdown.toNat), (0x1a, 2, graceMs.toNat), (0x1c, 1,
               extType.toNat), (0x20, 4, a.toNat), (0x24, 4, b.toNat), (0x28, 4, c.toNat)],
           whole := true }
  | .thermalClear _ h die =>
    some { op := 0x0072, cls := 1, h, bare := .thermalClear 0 h die,
           fields := [(0x10, 1, die.toNat)],
           whole := true }
  | .thermalStatus _ h die =>
    some { op := 0x0073, cls := 0, h, bare := .thermalStatus 0 h die,
           fields := [(0x10, 1, die.toNat)],
           whole := true }
  | .nvmRead _ h off len hostAddr =>
    some { op := 0x0080, cls := 3, h, bare := .nvmRead 0 h off len hostAddr,
           fields := [(0x14, 4, off.toNat), (0x18, 4, len.toNat), (0x20, 8, hostAddr.toNat)],
           whole := true }
  | .nvmWrite _ h off len hostAddr _ =>
    some { op := 0x0081, cls := 3, h, bare := .nvmWrite 0 h off len hostAddr [],
           fields := [(0x14, 4, off.toNat), (0x18, 4, len.toNat), (0x20, 8, hostAddr.toNat)],
           whole := true }
  | .nvmErase _ h off len =>
    some { op := 0x0082, cls := 3, h, bare := .nvmErase 0 h off len,
           fields := [(0x14, 4, off.toNat), (0x18, 4, len.toNat)],
           whole := true }
  | .nvmStatus _ h =>
    some { op := 0x0083, cls := 0, h, bare := .nvmStatus 0 h,
           fields := [],
           whole := true }
  | .eventConfig _ h minSev watch hostLoss =>
    some { op := 0x0090, cls := 0, h, bare := .eventConfig 0 h minSev watch hostLoss,
           fields := [(0x10, 1, minSev.toNat), (0x11, 1, watch.toNat), (0x12, 1, hostLoss.toNat)],
           whole := true }
  | .heartbeat _ h =>
    some { op := 0x0091, cls := 0, h, bare := .heartbeat 0 h,
           fields := [],
           whole := true }
  | .eventQuery _ h =>
    some { op := 0x0092, cls := 0, h, bare := .eventQuery 0 h,
           fields := [],
           whole := true }
  | .patchApply _ h =>
    some { op := 0x00A0, cls := 3, h, bare := .patchApply 0 h,
           fields := [],
           whole := true }
  | .patchQuery _ h =>
    some { op := 0x00A1, cls := 0, h, bare := .patchQuery 0 h,
           fields := [],
           whole := true }
  | .regRead _ h addr count snap hostAddr =>
    some { op := 0x00B0, cls := 0, h, bare := .regRead 0 h addr count snap hostAddr,
           fields := [(0x10, 8, addr.toNat), (0x18, 1, count.toNat), (0x19, 1, snap.toNat), (0x20, 8,
               hostAddr.toNat)],
           whole := true }
  | .regWrite _ h addr count words =>
    some { op := 0x00B1, cls := 0, h, bare := .regWrite 0 h addr count words,
           fields := [(0x10, 8, addr.toNat), (0x18, 1, count.toNat)] ++ listFields 0x20 4 words,
           whole := words.length == count.toNat }
  | .dramStatus _ h die =>
    some { op := 0x00C0, cls := 0, h, bare := .dramStatus 0 h die,
           fields := [(0x10, 1, die.toNat)],
           whole := true }
  | .dramConfig _ h mask apply ageNs pdUs rhThr interval eyeMin =>
    some { op := 0x00C1, cls := 3, h, bare := .dramConfig 0 h mask apply ageNs pdUs rhThr interval eyeMin,
           fields := [(0x10, 1, mask.toNat), (0x11, 1, apply.toNat), (0x12, 2, ageNs.toNat), (0x14, 2, pdUs.toNat),
               (0x16, 2, rhThr.toNat), (0x18, 2, interval.toNat), (0x1a, 1, eyeMin.toNat)],
           whole := true }
  | .dramRetrain _ h die mode =>
    some { op := 0x00C2, cls := 3, h, bare := .dramRetrain 0 h die mode,
           fields := [(0x10, 1, die.toNat), (0x11, 1, mode.toNat)],
           whole := true }
  | _ => none

/-- The command of an opcode whose payload lies at the descriptor offsets of `p` (R320 to R331). -/
def decodeOpcode (op : Nat) (h : Hdr) (p : Rd) : Option Instr :=
  let v (off n : Nat) : Nat := rd p off n
  match op with
  | 0x0001 => some (.identify 0 h (BitVec.ofNat 64 (v 0x10 8)))
  | 0x0002 => some (.getStatus 0 h)
  | 0x0003 => some (.resync 0 h (BitVec.ofNat 64 (v 0x10 8)))
  | 0x0010 =>
    some (.channelConfig 0 h (BitVec.ofNat 8 (v 0x10 1)) (BitVec.ofNat 8 (v 0x11 1)) (BitVec.ofNat 8 (v 0x12 1))
      (BitVec.ofNat 8 (v 0x13 1)) (BitVec.ofNat 8 (v 0x14 1)) (BitVec.ofNat 8 (v 0x15 1)) (BitVec.ofNat 16 (v 0x16
      2)) (BitVec.ofNat 16 (v 0x18 2)))
  | 0x0011 =>
    some (.channelConnect 0 h (BitVec.ofNat 8 (v 0x10 1)) (BitVec.ofNat 8 (v 0x11 1)) (BitVec.ofNat 8 (v 0x12 1))
      (BitVec.ofNat 8 (v 0x13 1)) (BitVec.ofNat 32 (v 0x14 4)) ((List.range 7).map fun i => BitVec.ofNat 16 (v (0x18
      + 2 * i) 2)))
  | 0x0012 => some (.channelDisconnect 0 h (BitVec.ofNat 8 (v 0x10 1)) (BitVec.ofNat 8 (v 0x11 1)))
  | 0x0013 =>
    some (.channelRange 0 h (BitVec.ofNat 8 (v 0x10 1)) (BitVec.ofNat 8 (v 0x11 1)) (BitVec.ofNat 8 (v 0x12 1)))
  | 0x0014 =>
    some (.channelForce 0 h (BitVec.ofNat 8 (v 0x10 1)) (BitVec.ofNat 8 (v 0x11 1)) (BitVec.ofNat 8 (v 0x12 1))
      (BitVec.ofNat 32 (v 0x14 4)) ((List.range 7).map fun i => BitVec.ofNat 16 (v (0x18 + 2 * i) 2)))
  | 0x0015 => some (.channelMeasure 0 h (BitVec.ofNat 8 (v 0x10 1)) (BitVec.ofNat 8 (v 0x11 1)))
  | 0x0016 =>
    some (.gangSet 0 h (BitVec.ofNat 8 (v 0x10 1)) (BitVec.ofNat 8 (v 0x11 1)) (BitVec.ofNat 8 (v 0x12 1))
      (BitVec.ofNat 8 (v 0x13 1)))
  | 0x0017 =>
    some (.refDacSet 0 h (BitVec.ofNat 8 (v 0x10 1)) (BitVec.ofNat 8 (v 0x11 1)) (BitVec.ofNat 16 (v 0x12 2))
      (BitVec.ofNat 64 (v 0x18 8)))
  | 0x0018 => some (.guardSet 0 h (BitVec.ofNat 8 (v 0x10 1)) (BitVec.ofNat 8 (v 0x11 1)))
  | 0x0019 => some (.channelQuery 0 h (BitVec.ofNat 16 (v 0x10 2)))
  | 0x0020 =>
    some (.imageLoad 0 h (BitVec.ofNat 64 (v 0x10 8)) (BitVec.ofNat 64 (v 0x18 8)) ((List.range 8).map fun i =>
      BitVec.ofNat 32 (v (0x20 + 4 * i) 4)))
  | 0x0021 => some (.imageVerify 0 h (BitVec.ofNat 64 (v 0x10 8)))
  | 0x0022 => some (.imageUnload 0 h (BitVec.ofNat 64 (v 0x10 8)))
  | 0x0023 => some (.imageQuery 0 h (BitVec.ofNat 64 (v 0x10 8)))
  | 0x0030 =>
    some (.runStart 0 h (BitVec.ofNat 64 (v 0x10 8)) (BitVec.ofNat 8 (v 0x18 1)) (BitVec.ofNat 8 (v 0x19 1))
      (BitVec.ofNat 64 (v 0x20 8)))
  | 0x0031 => some (.runStop 0 h (BitVec.ofNat 8 (v 0x10 1)) (BitVec.ofNat 16 (v 0x12 2)))
  | 0x0032 => some (.runAbort 0 h (BitVec.ofNat 8 (v 0x10 1)) (BitVec.ofNat 16 (v 0x12 2)))
  | 0x0033 => some (.runQuery 0 h (BitVec.ofNat 8 (v 0x10 1)) (BitVec.ofNat 16 (v 0x12 2)))
  | 0x0034 =>
    some (.trigConfig 0 h (BitVec.ofNat 8 (v 0x10 1)) (BitVec.ofNat 4 (v 0x11 1)) (BitVec.ofNat 2 (v 0x11 1 / 16))
      (BitVec.ofNat 2 (v 0x11 1 / 64)) (BitVec.ofNat 16 (v 0x12 2)) (BitVec.ofNat 8 (v 0x14 1)) (BitVec.ofNat 32 (v
      0x18 4)) (BitVec.ofNat 32 (v 0x1c 4)))
  | 0x0035 =>
    some (.trigArm 0 h (BitVec.ofNat 8 (v 0x10 1)) (BitVec.ofNat 8 (v 0x11 1)) (BitVec.ofNat 8 (v 0x12 1))
      (BitVec.ofNat 32 (v 0x14 4)) (BitVec.ofNat 64 (v 0x18 8)) (BitVec.ofNat 64 (v 0x20 8)))
  | 0x0036 =>
    some (.trigDisarm 0 h (BitVec.ofNat 8 (v 0x10 1)) (BitVec.ofNat 8 (v 0x11 1)) (BitVec.ofNat 64 (v 0x18 8)))
  | 0x0040 =>
    some (.captureConfig 0 h (BitVec.ofNat 8 (v 0x10 1)) (BitVec.ofNat 8 (v 0x11 1)) (BitVec.ofNat 8 (v 0x12 1))
      (BitVec.ofNat 8 (v 0x13 1)) (BitVec.ofNat 16 (v 0x14 2)) (BitVec.ofNat 16 (v 0x16 2)) (BitVec.ofNat 16 (v 0x18
      2)) (BitVec.ofNat 64 (v 0x20 8)) (BitVec.ofNat 32 (v 0x28 4)))
  | 0x0041 =>
    some (.captureStart 0 h (BitVec.ofNat 8 (v 0x10 1)) (BitVec.ofNat 16 (v 0x12 2)) (BitVec.ofNat 64 (v 0x18 8)))
  | 0x0042 =>
    some (.captureStop 0 h (BitVec.ofNat 8 (v 0x10 1)) (BitVec.ofNat 16 (v 0x12 2)) (BitVec.ofNat 64 (v 0x18 8)))
  | 0x0043 =>
    some (.captureRelease 0 h (BitVec.ofNat 8 (v 0x10 1)) (BitVec.ofNat 8 (v 0x11 1)) (BitVec.ofNat 32 (v 0x14 4)))
  | 0x0044 =>
    some (.captureRead 0 h (BitVec.ofNat 8 (v 0x10 1)) (BitVec.ofNat 8 (v 0x11 1)) (BitVec.ofNat 32 (v 0x14 4))
      (BitVec.ofNat 32 (v 0x18 4)) (BitVec.ofNat 64 (v 0x20 8)))
  | 0x0045 =>
    some (.resultsRead 0 h (BitVec.ofNat 8 (v 0x10 1)) (BitVec.ofNat 8 (v 0x11 1)) (BitVec.ofNat 16 (v 0x12 2))
      (BitVec.ofNat 16 (v 0x14 2)) (BitVec.ofNat 64 (v 0x18 8)) (BitVec.ofNat 64 (v 0x20 8)))
  | 0x0046 =>
    some (.failLogRead 0 h (BitVec.ofNat 8 (v 0x10 1)) (BitVec.ofNat 32 (v 0x14 4)) (BitVec.ofNat 32 (v 0x18 4))
      (BitVec.ofNat 64 (v 0x20 8)))
  | 0x0047 => some (.failLogConfig 0 h (BitVec.ofNat 8 (v 0x10 1)) (BitVec.ofNat 8 (v 0x11 1)))
  | 0x0048 => some (.failClear 0 h (BitVec.ofNat 8 (v 0x10 1)) (BitVec.ofNat 8 (v 0x11 1)))
  | 0x0049 =>
    some (.chargeClear 0 h (BitVec.ofNat 8 (v 0x10 1)) (BitVec.ofNat 8 (v 0x11 1)) (BitVec.ofNat 64 (v 0x18 8)))
  | 0x004A => some (.captureQuery 0 h (BitVec.ofNat 8 (v 0x10 1)) (BitVec.ofNat 8 (v 0x11 1)))
  | 0x0050 =>
    some (.lockGroupSet 0 h (BitVec.ofNat 8 (v 0x10 1)) (BitVec.ofNat 8 (v 0x11 1)) (BitVec.ofNat 8 (v 0x12 1))
      (BitVec.ofNat 8 (v 0x13 1)) (BitVec.ofNat 64 (v 0x18 8)))
  | 0x0051 => some (.lockGroupQuery 0 h (BitVec.ofNat 8 (v 0x10 1)))
  | 0x0052 => some (.pllSet 0 h (BitVec.ofNat 8 (v 0x10 1)) (pllArgAt p 0x18))
  | 0x0053 => some (.pllSync 0 h (BitVec.ofNat 8 (v 0x10 1)) (BitVec.ofNat 64 (v 0x18 8)))
  | 0x0054 => some (.tbAlign 0 h)
  | 0x0055 => some (.lockLinkCfg 0 h (BitVec.ofNat 8 (v 0x10 1)) (BitVec.ofNat 8 (v 0x11 1)))
  | 0x0056 => some (.weirConfig 0 h (BitVec.ofNat 32 (v 0x14 4)) (BitVec.ofNat 32 (v 0x18 4)))
  | 0x0060 =>
    some (.calRead 0 h (BitVec.ofNat 8 (v 0x10 1)) (BitVec.ofNat 32 (v 0x14 4)) (BitVec.ofNat 32 (v 0x18 4))
      (BitVec.ofNat 64 (v 0x20 8)))
  | 0x0061 =>
    some (.calWrite 0 h (BitVec.ofNat 8 (v 0x10 1)) (BitVec.ofNat 32 (v 0x14 4)) (BitVec.ofNat 32 (v 0x18 4))
      (BitVec.ofNat 64 (v 0x20 8)) [])
  | 0x0062 => some (.calCommit 0 h)
  | 0x0063 =>
    some (.calStep 0 h (BitVec.ofNat 16 (v 0x10 2)) ((List.range 12).map fun i => BitVec.ofNat 8 (v (0x14 + 1 * i)
      1)) [])
  | 0x0064 => some (.calStatus 0 h)
  | 0x0070 => some (.thermalRead 0 h (BitVec.ofNat 8 (v 0x10 1)) (BitVec.ofNat 8 (v 0x11 1)))
  | 0x0071 =>
    some (.thermalConfig 0 h (BitVec.ofNat 8 (v 0x10 1)) (BitVec.ofNat 8 (v 0x11 1)) (BitVec.ofNat 16 (v 0x12 2))
      (BitVec.ofNat 16 (v 0x14 2)) (BitVec.ofNat 16 (v 0x16 2)) (BitVec.ofNat 16 (v 0x18 2)) (BitVec.ofNat 16 (v
      0x1a 2)) (BitVec.ofNat 8 (v 0x1c 1)) (BitVec.ofNat 32 (v 0x20 4)) (BitVec.ofNat 32 (v 0x24 4)) (BitVec.ofNat
      32 (v 0x28 4)))
  | 0x0072 => some (.thermalClear 0 h (BitVec.ofNat 8 (v 0x10 1)))
  | 0x0073 => some (.thermalStatus 0 h (BitVec.ofNat 8 (v 0x10 1)))
  | 0x0080 =>
    some (.nvmRead 0 h (BitVec.ofNat 32 (v 0x14 4)) (BitVec.ofNat 32 (v 0x18 4)) (BitVec.ofNat 64 (v 0x20 8)))
  | 0x0081 =>
    some (.nvmWrite 0 h (BitVec.ofNat 32 (v 0x14 4)) (BitVec.ofNat 32 (v 0x18 4)) (BitVec.ofNat 64 (v 0x20 8)) [])
  | 0x0082 => some (.nvmErase 0 h (BitVec.ofNat 32 (v 0x14 4)) (BitVec.ofNat 32 (v 0x18 4)))
  | 0x0083 => some (.nvmStatus 0 h)
  | 0x0090 =>
    some (.eventConfig 0 h (BitVec.ofNat 8 (v 0x10 1)) (BitVec.ofNat 8 (v 0x11 1)) (BitVec.ofNat 8 (v 0x12 1)))
  | 0x0091 => some (.heartbeat 0 h)
  | 0x0092 => some (.eventQuery 0 h)
  | 0x00A0 => some (.patchApply 0 h)
  | 0x00A1 => some (.patchQuery 0 h)
  | 0x00B0 =>
    some (.regRead 0 h (BitVec.ofNat 64 (v 0x10 8)) (BitVec.ofNat 8 (v 0x18 1)) (BitVec.ofNat 8 (v 0x19 1))
      (BitVec.ofNat 64 (v 0x20 8)))
  | 0x00B1 =>
    some (.regWrite 0 h (BitVec.ofNat 64 (v 0x10 8)) (BitVec.ofNat 8 (v 0x18 1)) ((List.range (min (v 0x18 1)
      8)).map fun i => BitVec.ofNat 32 (v (0x20 + 4 * i) 4)))
  | 0x00C0 => some (.dramStatus 0 h (BitVec.ofNat 8 (v 0x10 1)))
  | 0x00C1 =>
    some (.dramConfig 0 h (BitVec.ofNat 8 (v 0x10 1)) (BitVec.ofNat 8 (v 0x11 1)) (BitVec.ofNat 16 (v 0x12 2))
      (BitVec.ofNat 16 (v 0x14 2)) (BitVec.ofNat 16 (v 0x16 2)) (BitVec.ofNat 16 (v 0x18 2)) (BitVec.ofNat 8 (v 0x1a
      1)))
  | 0x00C2 => some (.dramRetrain 0 h (BitVec.ofNat 8 (v 0x10 1)) (BitVec.ofNat 8 (v 0x11 1)))
  | _ => none

/-! ### Reading a descriptor -/

/-- Descriptor offset at which the payload fields end (R308). -/
def Desc.stop (d : Desc) : Nat := d.fields.foldl (fun m f => max m (f.1 + f.2.1)) 0x10

/-- The payload byte at a descriptor offset as the fields give it; zero outside them. -/
def Desc.byte (d : Desc) (i : Nat) : Byte :=
  match d.fields.find? fun f => decide (f.1 ≤ i) && decide (i < f.1 + f.2.1) with
  | some f => BitVec.ofNat 8 (f.2.2 / 256 ^ (i - f.1))
  | none => 0

/-- BAD_ARG details (R315). -/
abbrev dReserved : Nat := 0x03
abbrev dOpcode : Nat := 0x07
abbrev dClass : Nat := 0x08
abbrev dLength : Nat := 0x09
abbrev dFlags : Nat := 0x0A
abbrev dTagBusy : Nat := 0x0B
abbrev dHostDma : Nat := 0x0C
abbrev dAbsent : Nat := 0x0D
abbrev dRange : Nat := 0x0E
abbrev dNoSuch : Nat := 0x0F
abbrev dLevelSet : Nat := 0x12

/-- The header of a descriptor that came through an inlet (R306). -/
def hdrOf (inlet : BitVec 4) (r : Rd) : Hdr :=
  { inlet, tag := BitVec.ofNat 12 (rd r 4 2), want := rd r 2 1 % 2 == 1, fence := rd r 2 1 / 2 % 2 == 1,
    indirect := rd r 2 1 / 4 % 2 == 1, deadline := BitVec.ofNat 64 (rd r 8 8) }

/-- What the checks 2 to 6 of R308 make of a descriptor's bytes: the command, or the detail of BAD_ARG. `payload` is what
the fetch of an INDIRECT payload read, none when it failed. -/
def readDescr (inlet : BitVec 4) (r : Rd) (payload : Option Rd) : Nat ⊕ Desc :=
  let h := hdrOf inlet r
  let op := rd r 0 2
  let direct : Rd := r
  let far : Rd := match payload with
    | some p => fun i => p (i - 0x10)
    | none => fun _ => 0
  let len := rd r 6 2
  let src : Rd := fun i => if i < 0x10 + len then (if h.indirect then far i else direct i) else 0
  match (decodeOpcode op h src).bind descOf with
  | none => .inl dOpcode
  | some d =>
    if rd r 3 1 ≠ d.cls then .inl dClass
    else if rd r 2 1 ≥ 8 ∨ (d.cls ≠ 0 ∧ ¬ h.want) then .inl dFlags
    else if rd r 4 2 ≥ 4096 ∨ (d.cls = 0 ∧ h.deadline ≠ 0) then .inl dReserved
    else if h.indirect ∧ (¬ rdZero r 0x18 40 ∨ rd r 0x10 8 % 8 ≠ 0) then .inl dReserved
    else if len + 0x10 < d.stop ∨ len > 48 then .inl dLength
    else if h.indirect ∧ payload.isNone then .inl dHostDma
    else
      let full : Rd := if h.indirect then fun i => if i < 0x10 + len then far i else 0 else direct
      if (List.range 48).all fun i => full (0x10 + i) == d.byte (0x10 + i) then .inr d else .inl dReserved

/-! ### Values in their ranges (R308, seventh check) -/

/-- The BAD_ARG detail of the first condition of a list that does not hold. -/
def firstBad (cs : List (Bool × Nat)) : Option Nat := (cs.find? fun c => !c.1).map (·.2)

/-- A cluster index: in range and present (R3). -/
def State.kOk (s : State) (k : BitVec 8) : List (Bool × Nat) :=
  [(decide (k.toNat < 64), dRange), (s.hasCluster k.toNat, dAbsent)]

/-- A die number: in range and present. -/
def State.dieOk (s : State) (d : BitVec 8) : List (Bool × Nat) :=
  [(decide (d.toNat < 8), dRange), (s.hasDie d.toNat, dAbsent)]

/-- A mask of dies, nonzero and present. -/
def State.maskOk (s : State) (m : BitVec 8) : List (Bool × Nat) :=
  [(m != 0, dRange), ((bitsOf m).all s.hasDie, dAbsent)]

/-- The channels that a cluster index and a lane mask name. -/
def lanesOf (k lanes : BitVec 8) : List Nat := (bitsOf lanes).map (chanOf k.toNat)

/-- Cluster and lanes: lanes nonzero (R319). -/
def State.cselOk (s : State) (k lanes : BitVec 8) : List (Bool × Nat) := s.kOk k ++ [(lanes != 0, dRange)]

/-- No named lane is a member of a gang (R76, R322). -/
def State.noMembers (s : State) (k lanes : BitVec 8) : List (Bool × Nat) :=
  [((lanesOf k lanes).all fun n => !(s.chan n).st.gangMember, dRange)]

/-- A host address for a block that the part reads or writes in 64-byte units (R320). -/
def aligned64 (a : BitVec 64) : Bool := decide (a.toNat % 64 = 0)

/-- The limits of a pattern PLL setting on N, Q, VCO and PAT (R85), exact. -/
def pllInLimits (frac nint post : Nat) : Bool :=
  let vco : Rat := 100 * ((nint : Rat) + (frac : Rat) / 4294967296)
  let pat : Rat := vco / (4 * (post : Rat))
  decide (64 ≤ nint) && decide (nint ≤ 128) && decide (2 ≤ post) && decide (post ≤ 64)
    && decide (6400 ≤ vco) && decide (vco ≤ 12800) && decide (100 ≤ pat) && decide (pat ≤ 800)

/-- The conditions on a setting that PLL_SET carries (R85 to R87): reserved bits, limits, SEED. -/
def pllArgBad (a : PllArg) : Option Nat :=
  firstBad [(decide (a.post.toNat < 64) && decide (a.flags.toNat < 2) && a.rsv0 == 0 && a.rsv1 == 0, dReserved),
    (pllInLimits a.frac.toNat a.nint.toNat a.post.toNat && a.seed != 0, dRange)]

/-- The register value of a setting (R86, R107). -/
def pllSettingOf (a : PllArg) : PllSetting :=
  { frac := a.frac, nint := a.nint, post := a.post.setWidth 6, dither := hasBit a.flags 0, seed := a.seed }

/-- A combination of SOURCE, COND and POL that R160 and R161 allow. -/
def trigOk (source : BitVec 4) (cond pol : BitVec 2) (thrHi thrLo : BitVec 32) : Bool :=
  let src := source.toNat
  decide (src < 14) &&
    (if src = 12 then cond == 2 && decide (pol.toNat < 2) && decide (thrLo.toNat < thrHi.toNat)
     else if src = 0 then cond != 2 && cond != 3 && (if cond = 0 then decide (pol.toNat < 2) else pol != 3)
     else if cond = 0 then decide (pol.toNat < 2)
     else cond == 1 && pol != 3)

/-- SELECT fits its source (R160). -/
def selectOk (source : BitVec 4) (select : BitVec 16) : Bool :=
  match source.toNat with
  | 9 => decide (select.toNat < 4)
  | 10 => decide (select.toNat < 256)
  | 11 => true
  | 13 => decide (select.toNat < 4)
  | _ => select == 0

/-- The conditions of R153 on a stream's parameters. -/
def State.capOk (s : State) (k s_ mode sram chunk pre post ringBase ringSize : Nat) : Bool :=
  let size := sampleB s_
  let others := (((s.cluster k).caps.mapIdx fun i c => if i = s_ ∨ c.mode = 0 then 0 else c.sramSize)).sum
  mode == 0 ||
    (decide (1 ≤ sram) && decide (sram ≤ 64) && decide (others + sram ≤ 64)
      && decide (ringSize % 4096 = 0) && decide (0x10000 ≤ ringSize) && decide (ringSize ≤ 0x40000000)
      && decide (ringBase % 4096 = 0)
      && (if mode = 1 then decide (16 ≤ chunk) && decide (chunk ≤ 32768)
          else decide (pre ≤ 32767) && decide (1 ≤ post) && decide (pre + post ≤ 32768)
            && decide (2 * (48 + (pre + post) * size) + 32 ≤ sram * 4096)))
where
  /-- Sample size of a stream. -/
  sampleB (i : Nat) : Nat := if 8 ≤ i then 8 else 4

/-- The first and the last byte of a flash request touch the region [lo, hi). -/
def touches (off len lo hi : Nat) : Bool := decide (off < hi) && decide (lo < off + len)

/-- Bytes of the flash (R362). -/
def State.flashSize (s : State) : Nat := s.serial.sizeMib.toNat * 2 ^ 20

/-- A flash write or erase stays out of the regions that only the part writes (R362). -/
def State.flashRegionOk (s : State) (off len : Nat) : Bool :=
  decide (off + len ≤ s.flashSize) && !touches off len 0x1020000 0x1420000

/-- ln 200 and ln 16,000, the ends of the NTC's span (R395), as rationals. -/
abbrev lnLo : Rat := 5298317366548036 / 1000000000000000
abbrev lnHi : Rat := 9680344001221918 / 1000000000000000

/-- The conversion of an NTC is monotonic falling over 200 Ω to 16 kΩ (R398): 1/T is positive and rises with ln R. -/
def ntcOk (a b c : BitVec 32) : Bool :=
  match f32Val a, f32Val b, f32Val c with
  | some a, some b, some c =>
    decide (0 < a + b * lnLo + c * lnLo ^ 3) && decide (0 < b + 3 * c * lnLo ^ 2) && decide (0 < b + 3 * c * lnHi ^ 2)
  | _, _, _ => false

/-- The ranges and conditions of THERMAL_CONFIG (R398). -/
def thermalOk (apply : BitVec 8) (watchMs warn throttle shutdown graceMs : BitVec 16)
    (extType : BitVec 8) (a b c : BitVec 32) : Option Nat :=
  let on (i : Nat) : Bool := hasBit apply i
  let t (v : BitVec 16) : Int := v.toInt
  firstBad [(decide (apply.toNat < 16), dReserved),
    (on 0 || watchMs == 0, dReserved),
    (on 1 || (warn == 0 && throttle == 0 && shutdown == 0), dReserved),
    (on 2 || graceMs == 0, dReserved),
    (on 3 || (extType == 0 && a == 0 && b == 0 && c == 0), dReserved),
    (!on 0 || decide (watchMs.toNat ≤ 1000), dRange),
    (!on 1 || (decide (640 ≤ t warn) && decide (t warn ≤ 1840) && decide (720 ≤ t throttle)
      && decide (t throttle ≤ 1840) && decide (960 ≤ t shutdown) && decide (t shutdown ≤ 1920)
      && decide (t warn + 80 ≤ t throttle) && decide (t throttle + 80 ≤ t shutdown)), dRange),
    (!on 2 || (decide (100 ≤ graceMs.toNat) && decide (graceMs.toNat ≤ 10000)), dRange),
    (!on 3 || (decide (extType.toNat < 3) && (extType != 2 || ntcOk a b c)), dRange)]

/-- The ranges of DRAM_CONFIG for the groups it applies (R263, R265, R266, R268, R269). -/
def dramCfgOk (apply : BitVec 8) (ageNs pdUs rhThr interval : BitVec 16) (eyeMin : BitVec 8) : List (Bool × Nat) :=
  let need (i : Nat) (p : Bool) : Bool := !hasBit apply i || p
  [(decide (apply.toNat < 32), dReserved),
   (need 0 (decide (200 ≤ ageNs.toNat)), dRange),
   (need 1 (decide (pdUs.toNat ≤ 1000)), dRange),
   (need 2 (decide (1024 ≤ rhThr.toNat)), dRange),
   (need 3 (decide (100 ≤ interval.toNat) && decide (interval.toNat ≤ 60000)), dRange),
   (need 4 (decide (4 ≤ eyeMin.toNat) && decide (eyeMin.toNat ≤ 32)), dRange)]

/-- A field of CAL_STEP's argument (R384). -/
def calArg (arg : List Byte) (off n : Nat) : Nat := fieldAt arg off n

/-- The argument of CAL_STEP: a defined step, its target present, X in its range, reserved bytes zero (R384). -/
def State.calStepOk (s : State) (step : BitVec 16) (arg : List Byte) : List (Bool × Nat) :=
  let target := calArg arg 0 2
  let x := calArg arg 2 1
  let v := calArg arg 4 4
  let st := step.toNat
  let onDie := decide (st = 1 ∨ st = 2 ∨ st = 3)
  [(decide (st ∈ [0x0001, 0x0002, 0x0003, 0x0010, 0x0011, 0x0012, 0x0013, 0x0020, 0x0030]), dRange),
   (calArg arg 3 1 == 0 && calArg arg 8 4 == 0, dReserved),
   (if onDie then decide (target < 8) else decide (target < 512), dRange),
   (if onDie then s.hasDie target else s.hasChan target, dAbsent),
   (match st with
    | 0x0002 => decide (x < 2)
    | 0x0003 => decide (x < 8)
    | 0x0013 => decide (x < 6)
    | 0x0020 => decide (x < 3)
    | _ => x == 0, dRange),
   (decide (st = 2) || v == 0, dReserved)]

/-- Codes of a force group that R48 checks beside the codes a lane keeps (R323). -/
def State.forceOk (s : State) (n : Nat) (kinds : BitVec 8) (levels : List (BitVec 16)) : Bool :=
  let c := s.futureChan n
  let merged := (List.range 7).map fun j => if hasBit kinds (j + 1) then levels.getD j 0 else c.dac.levels.getD j 0
  levelsOk (some c.st.mode) 6 (fun j => hasBit kinds (j + 1)) merged

/-- Ring sizes and the rings' places are checked when they are enabled (R292); here: the values of a payload in their
ranges and encodings, and what they name present (R308). A field of CHANNEL_CONFIG or DRAM_CONFIG whose APPLY bit is 0 is
not looked at; R398 asks for zero there only for THERMAL_CONFIG (DESIGN CHOICE, unsafe, log entry 77). Answers the
detail of BAD_ARG. -/
def State.rangeErr (s : State) (c : Instr) : Option Nat :=
  match c with
  | .identify _ _ a => firstBad [(aligned64 a, dRange)]
  | .resync _ _ a => firstBad [(aligned64 a && a != 0, dRange)]
  | .channelConfig _ _ k lanes apply mode cfg measSel _ dacDiv =>
    firstBad (s.cselOk k lanes ++ [(decide (apply.toNat < 16) && decide (cfg.toNat < 64), dReserved),
      (!hasBit apply 0 || (decide (1 ≤ mode.toNat) && decide (mode.toNat ≤ 4)), dRange),
      (!hasBit apply 2 || decide (measSel.toNat < 3), dRange),
      (!hasBit apply 3 || decide (50 ≤ dacDiv.toNat), dRange)] ++ s.noMembers k lanes)
  | .channelConnect _ _ k lanes mode range force levels =>
    firstBad (s.cselOk k lanes ++ [(decide (1 ≤ mode.toNat) && decide (mode.toNat ≤ 4), dRange),
      (decide (range.toNat < 6), dRange), (decide (force.toNat < 2 ^ 18), dRange)] ++ s.noMembers k lanes
      ++ [((lanesOf k lanes).all fun n => !(s.chan n).st.gangMeas || decide (3 ≤ range.toNat), dRange),
          (levelsOk (Mode.ofCode mode.toNat) 6 (fun _ => true) levels, dLevelSet)])
  | .channelDisconnect _ _ k lanes => firstBad (s.cselOk k lanes ++ s.noMembers k lanes)
  | .channelRange _ _ k lanes range =>
    firstBad (s.cselOk k lanes ++ [(decide (range.toNat < 6), dRange)] ++ s.noMembers k lanes
      ++ [((lanesOf k lanes).all fun n => !(s.chan n).st.gangMeas || decide (3 ≤ range.toNat), dRange)])
  | .channelForce _ _ k lanes kinds force levels =>
    firstBad (s.cselOk k lanes ++ [(!hasBit kinds 0 || decide (force.toNat < 2 ^ 18), dRange)] ++ s.noMembers k lanes
      ++ [((lanesOf k lanes).all fun n => s.forceOk n kinds levels, dLevelSet)])
  | .channelMeasure _ _ k lanes => firstBad (s.cselOk k lanes ++ [(decide ((bitsOf lanes).length = 1), dRange)])
  | .gangSet _ _ k l0 m range =>
    firstBad (s.kOk k ++ [(decide (l0.toNat < 8) && decide (m.toNat ≤ 8) && m != 1, dRange),
      (if m = 0 then range == 0 && (s.chan (chanOf k.toNat l0.toNat)).st.gangMeas
       else decide (l0.toNat + m.toNat ≤ 8) && decide (3 ≤ range.toNat) && decide (range.toNat ≤ 5), dRange)])
  | .refDacSet _ _ die j _ _ => firstBad (s.dieOk die ++ [(decide (j.toNat < 8), dRange)])
  | .guardSet _ _ k guard => firstBad (s.kOk k ++ [(decide (guard.toNat < 16), dReserved)])
  | .channelQuery _ _ n => firstBad [(decide (n.toNat < 512), dRange), (s.hasChan n.toNat, dAbsent)]
  | .imageLoad _ _ _ _ units =>
    firstBad [((List.range 8).all fun d => units.getD d 0 == 0 || s.hasDie d, dAbsent)]
  | .runStart _ _ _ group mode startTb =>
    firstBad [(decide (group.toNat < 32) && decide (mode.toNat < 2), dRange),
      (mode != 1 || decide (startTb.toNat % 1000 = 0), dRange),
      (!(s.group group.toNat).span || mode == 1, dRange)]
  | .runStop _ _ group tag => firstBad [(decide (group.toNat < 32) && decide (tag.toNat < 4096), dRange)]
  | .runAbort _ _ group tag => firstBad [(decide (group.toNat < 32) && decide (tag.toNat < 4096), dRange)]
  | .runQuery _ _ group tag => firstBad [(decide (group.toNat < 32) && decide (tag.toNat < 4096), dRange)]
  | .trigConfig _ _ k source cond pol select lane thrHi thrLo =>
    firstBad (s.kOk k ++ [(decide (lane.toNat < 8) && decide (thrHi.toNat < 2 ^ 24) && decide (thrLo.toNat < 2 ^ 24),
        dRange),
      (trigOk source cond pol thrHi thrLo && selectOk source select, dRange),
      (source.toNat == 0 || 4 < source.toNat || (s.groupOf k.toNat).isSome, dRange)])
  | .trigArm _ _ kind id opts _ hold _ =>
    firstBad ([(decide (kind.toNat < 2), dRange), (decide (opts.toNat < 8), dReserved),
        (decide (hold.toNat < 2 ^ 48), dRange)]
      ++ (if kind = 0 then [(decide (id.toNat < 32), dRange)]
          else s.kOk id ++ [((s.groupOf id.toNat).isNone, dRange)]))
  | .trigDisarm _ _ kind id _ =>
    firstBad ([(decide (kind.toNat < 2), dRange)]
      ++ (if kind = 0 then [(decide (id.toNat < 32), dRange)]
          else s.kOk id ++ [((s.groupOf id.toNat).isNone, dRange)]))
  | .captureConfig _ _ k i mode sram chunk pre post ringBase ringSize =>
    firstBad (s.kOk k ++ [(decide (i.toNat < 16) && decide (mode.toNat < 3), dRange),
      (i.toNat < 8 || !(s.chan (chanOf k.toNat (i.toNat % 8))).st.gangMember, dRange),
      (s.capOk k.toNat i.toNat mode.toNat sram.toNat chunk.toNat pre.toNat post.toNat ringBase.toNat ringSize.toNat
        && (mode == 0 || decide (ringBase.toNat + ringSize.toNat ≤ s.dramBelow (dieOfCluster k.toNat))), dRange)])
  | .captureStart _ _ k streams _ => firstBad (s.kOk k ++ [(streams != 0, dRange)])
  | .captureStop _ _ k streams _ => firstBad (s.kOk k ++ [(streams != 0, dRange)])
  | .captureRelease _ _ k i off =>
    firstBad (s.kOk k ++ [(decide (i.toNat < 16), dRange),
      (decide (off.toNat < max 1 (s.cap k.toNat i.toNat).ringSize), dRange)])
  | .captureRead _ _ k i length off _ =>
    firstBad (s.kOk k ++ [(decide (i.toNat < 16) && decide (length.toNat % 16 = 0) && length != 0, dRange),
      (decide (off.toNat + length.toNat ≤ (s.cap k.toNat i.toNat).ringSize), dRange)])
  | .resultsRead _ _ group hist first count _ _ =>
    firstBad [(decide (group.toNat < 32) && decide (first.toNat + count.toNat ≤ 512), dRange),
      (count == 0 || s.hasChan (first.toNat + count.toNat - 1), dAbsent),
      (decide (hist.toNat < 2), dReserved)]
  | .failLogRead _ _ k _ _ _ => firstBad (s.kOk k)
  | .failLogConfig _ _ k policy => firstBad (s.kOk k ++ [(decide (policy.toNat < 2), dRange)])
  | .failClear _ _ k lanes => firstBad (s.cselOk k lanes ++ s.noMembers k lanes)
  | .chargeClear _ _ k lanes b =>
    firstBad (s.cselOk k lanes ++ s.noMembers k lanes ++ [(decide (b.toNat % 100000 = 0), dRange)])
  | .captureQuery _ _ k i => firstBad (s.kOk k ++ [(decide (i.toNat < 16), dRange)])
  | .lockGroupSet _ _ group master flags slot mask =>
    firstBad [(decide (group.toNat < 32), dRange), (decide (flags.toNat < 2), dReserved),
      (decide (slot.toNat < 8), dRange), ((bitsOf mask).all s.hasCluster, dAbsent),
      (master == 0xFF || (decide (master.toNat < 64) && (mask == 0 || hasBit mask master.toNat)), dRange),
      (master == 0xFF || s.hasCluster master.toNat, dAbsent)]
  | .lockGroupQuery _ _ group => firstBad [(decide (group.toNat < 32), dRange)]
  | .pllSet _ _ die st =>
    match firstBad (s.dieOk die) with
    | some e => some e
    | none => pllArgBad st
  | .pllSync _ _ mask _ => firstBad (s.maskOk mask)
  | .lockLinkCfg _ _ role lat =>
    firstBad [(decide (role.toNat < 3) && decide (8 ≤ lat.toNat) && decide (lat.toNat ≤ 248), dRange)]
  | .weirConfig _ _ run bulk =>
    firstBad [(decide (run.toNat ≤ 360000000), dRange),
      (bulk == 0 || (decide (1000 ≤ bulk.toNat) && decide (bulk.toNat ≤ 10000000)), dRange)]
  | .calRead _ _ die off len _ => calRam die off len
  | .calWrite _ _ die off len _ data =>
    match calRam die off len with
    | some e => some e
    | none => firstBad [((List.range len.toNat).all fun i =>
        decide (off.toNat + i < 0x100 ∨ 0x7FFF < off.toNat + i) || data.getD i 0 == 0, dReserved)]
  | .calStep _ _ step arg _ => firstBad (s.calStepOk step arg)
  | .thermalRead _ _ die sensor => firstBad (s.dieOk die ++ [(decide (sensor.toNat < 2), dRange)])
  | .thermalConfig _ _ die apply watchMs warn throttle shutdown graceMs extType a b c =>
    match firstBad (s.dieOk die) with
    | some e => some e
    | none => thermalOk apply watchMs warn throttle shutdown graceMs extType a b c
  | .thermalClear _ _ die => firstBad (s.dieOk die)
  | .thermalStatus _ _ die => firstBad (s.dieOk die)
  | .nvmRead _ _ off len _ =>
    firstBad [(decide (1 ≤ len.toNat) && decide (len.toNat ≤ 2 ^ 20), dRange),
      (decide (off.toNat + len.toNat ≤ s.flashSize), dRange)]
  | .nvmWrite _ _ off len _ _ =>
    firstBad [(decide (1 ≤ len.toNat) && decide (len.toNat ≤ 2 ^ 20), dRange),
      (s.flashRegionOk off.toNat len.toNat, dRange)]
  | .nvmErase _ _ off len =>
    firstBad [(decide (off.toNat % 4096 = 0) && decide (len.toNat % 4096 = 0) && decide (1 ≤ len.toNat)
        && decide (len.toNat ≤ 2 ^ 24), dRange),
      (s.flashRegionOk off.toNat len.toNat, dRange)]
  | .eventConfig _ _ minSev watch hostLoss =>
    firstBad [(decide (minSev.toNat < 2) && decide (watch.toNat < 2) && decide (hostLoss.toNat < 3), dRange)]
  | .regRead _ _ _ count snap hostAddr =>
    firstBad [(decide (1 ≤ count.toNat) && decide (count.toNat ≤ 64), dRange), (decide (snap.toNat < 2), dReserved),
      (hostAddr != 0 || decide (count.toNat ≤ 3), dRange)]
  | .regWrite _ _ _ count _ => firstBad [(decide (1 ≤ count.toNat) && decide (count.toNat ≤ 8), dRange)]
  | .dramStatus _ _ die => firstBad (s.dieOk die)
  | .dramConfig _ _ mask apply ageNs pdUs rhThr interval eyeMin =>
    firstBad (s.maskOk mask ++ dramCfgOk apply ageNs pdUs rhThr interval eyeMin)
  | .dramRetrain _ _ die mode => firstBad (s.dieOk die ++ [(decide (mode.toNat < 2), dRange)])
  | _ => none
where
  /-- OFFSET and LENGTH in calibration RAM (R387). -/
  calRam (die : BitVec 8) (off len : BitVec 32) : Option Nat :=
    firstBad (s.dieOk die ++ [(decide (off.toNat % 4 = 0) && decide (len.toNat % 4 = 0) && decide (4 ≤ len.toNat)
      && decide (off.toNat + len.toNat ≤ 65536), dRange)])

end Sys2Proof.Machine
end

