-- ==== Sys2Proof/Machine/Weir.lean ====
section
/-! DEFINITION. The weir: its reservation table (R205 to R208), the decision over candidate starts (R212), grants of
BULK transfers (R213), and the release and revocation of accepted work (R218 to R221). -/

namespace Sys2Proof.Machine

/-! ### The reservation table -/

/-- One entry of the reservation table on the interval [lo, hi); `hi` none for one without an end. `maps` are the
channels whose standing charge the load replaces; `links` the die-bridge links it uses, each in one direction and at
`rate`; `dma` its share of the host DMA capacity in direction `dir` (true: host to part); `chan` its DMA channel. -/
structure Resv where
  lo     : Tb
  hi     : Option Tb
  die    : Nat
  spring : Nat := 0
  bw     : Nat := 0
  load   : Nat := 0
  maps   : List Nat := []
  dir    : Bool := false
  dma    : Nat := 0
  links  : List Nat := []
  rate   : Nat := 0
  chan   : Option Nat := none
  deriving DecidableEq, Repr

/-- The entry holds at an instant. -/
def Resv.covers (r : Resv) (t : Tb) : Bool :=
  decide (r.lo ≤ t) && (match r.hi with | some h => decide (t < h) | none => true)

/-- The entry meets an interval [lo, hi). -/
def Resv.meets (r : Resv) (lo hi : Tb) : Bool :=
  decide (r.lo < hi) && (match r.hi with | some h => decide (lo < h) | none => true)

/-- Every link of a list works; link `i` joins die `i` by its port UP to the next die's port DOWN (R21). -/
def State.linksOk (s : State) (ls : List Nat) : Bool :=
  ls.all fun i => (s.die i).upLink && (s.die ((i + 1) % s.model.dies)).dnLink

/-- The links between die 0 and die `d` that leave die 0 by its port UP, and those that leave it by its port DOWN (R21). -/
def State.ringSides (s : State) (d : Nat) : List Nat × List Nat :=
  (List.range d, (List.range (s.model.dies - d)).map (· + d))

/-- The die-bridge links that data takes between die 0 and die `d`, to the die with `out`, else from it, and whether it is
spread over both links of an LX2128 (R21, R22). Link `i` is 2i in the direction from its port UP and 2i + 1 in the other: each
direction has a capacity of its own. At equal hop counts traffic leaves its sender by port UP. A path with a failed link takes
the other direction (R25). -/
def State.bridgePath (s : State) (d : Nat) (out : Bool) : List Nat × Bool :=
  let (up, down) := s.ringSides d
  let byUp := up.map fun i => 2 * i + bit !out
  let byDown := down.map fun i => 2 * i + bit out
  if d = 0 then ([], false)
  else if s.model.dies = 2 ∧ s.linksOk up ∧ s.linksOk down then (byUp ++ byDown, true)
  else if up.length < down.length ∨ up.length = down.length ∧ out then
    (if s.linksOk up || !s.linksOk down then byUp else byDown, false)
  else (if s.linksOk down || !s.linksOk up then byDown else byUp, false)

/-- Hops of control traffic between die 0 and die `d` (R21, R22): on the LX2128 it uses one link. -/
def State.controlHops (s : State) (d : Nat) : Nat :=
  let (links, share) := s.bridgePath d true
  if share then 1 else links.length

/-- Both directions to a die are cut (R25). -/
def State.unreachable (s : State) (d : Nat) : Bool :=
  decide (d ≠ 0) && !s.linksOk (s.ringSides d).1 && !s.linksOk (s.ringSides d).2

/-- The entries of an accepted run on its dies (R203, R206, R208). -/
def runResv (a st hi : Tb) (maps : List Nat) (loads : List (Nat × Nat × Nat)) (dies : List Nat) : List Resv :=
  (dies.zip loads).flatMap fun p =>
    let (d, arm, spring, load) := p
    (if arm = 0 then [] else [{ lo := a, hi := some st, die := d, bw := 2000 }])
      ++ [{ lo := st, hi := some hi, die := d, spring, bw := spring },
          { lo := a, hi := some hi, die := d, load, maps := maps.filter fun n => n / 64 == d }]

/-- The dies that a mask names, ascending. -/
def diesOf (m : BitVec 8) : List Nat := bitsOf m

/-- The DIE_MASK of an image's header. -/
def State.imgDies (s : State) (id : Nat) : List Nat := diesOf (imgHdr (s.imgRd id)).dieMask

/-- The table entry of a BULK transfer (R206, R213). -/
def State.bulkResv (s : State) (b : Bulk) : Resv :=
  let (links, share) := s.bridgePath b.die b.dir
  { lo := b.start, hi := some b.stop, die := b.die, bw := b.rate, dir := b.dir, dma := b.rate, links,
    rate := if share then ceilDiv b.rate 2 else b.rate, chan := some b.channel }

/-- What the capture streams of a die declare in MB/s (R154). -/
def State.captureRate (s : State) (d : Nat) : Rat :=
  ((s.clusterNums.filter fun k => dieOfCluster k == d).flatMap fun k =>
    (s.cluster k).caps.map fun c => if c.mode = 0 then 0 else c.rate).sum

/-- The reservation table (R206): runs, BULK transfers that are not done, and the capture streams of each die
that has any. -/
def State.table (s : State) : List Resv :=
  s.runs.flatMap (fun r => runResv r.a r.s r.windowEnd r.mapped r.loads (s.imgDies r.image))
    ++ (s.bulks.filter fun b => !b.done).map s.bulkResv
    ++ (s.dieNums.filter fun d => s.captureRate d != 0).map fun d =>
      { lo := 0, hi := none, die := d, bw := (s.captureRate d).ceil.toNat }

/-- The sum of a figure over the entries that hold at an instant. -/
def sumAt (tab : List Resv) (t : Tb) (f : Resv → Nat) : Nat := ((tab.filter fun r => r.covers t).map f).sum

/-- Spring reservations on a die at an instant. -/
def springAt (tab : List Resv) (d : Nat) (t : Tb) : Nat := sumAt tab t fun r => if r.die = d then r.spring else 0

/-- All bandwidth reservations on a die at an instant. -/
def bwAt (tab : List Resv) (d : Nat) (t : Tb) : Nat := sumAt tab t fun r => if r.die = d then r.bw else 0

/-- Power on a die at an instant in mW: the loads of runs, and the standing charge of every channel that no run's
window maps (R208). `extra` gives channels another charge. -/
def State.powerAt (s : State) (tab : List Resv) (extra : List (Nat × Rat)) (d : Nat) (t : Tb) : Rat :=
  let now := tab.filter fun r => r.covers t && r.die == d
  let mapped := now.flatMap fun r => r.maps
  ((now.map fun r => r.load).sum : Nat)
    + (((List.range 64).map (· + d * 64)).map fun n =>
        if mapped.contains n then 0
        else match extra.find? fun o => o.1 == n with
          | some o => o.2
          | none => s.charge n).sum

/-- The instants inside [lo, hi) at which the table changes, and `lo` itself (R207). -/
def instants (tab : List Resv) (lo : Tb) (hi : Option Tb) : List Tb :=
  lo :: (tab.flatMap fun r => r.lo :: r.hi.toList).filter fun t =>
    decide (lo < t) && (match hi with | some h => decide (t < h) | none => true)

/-! ### The decision -/

/-- A budget of the weir, in the order in which the first that fails is named (R212). -/
inductive Budget where
  | spring | dram | dma | link | load
  deriving DecidableEq, Repr

/-- Refusal detail of a budget (R211). -/
def Budget.code : Budget → Nat
  | .spring => 0x10
  | .dram => 0x11
  | .dma => 0x12
  | .link => 0x13
  | .load => 0x20

/-- Refusal status of a budget (R211). -/
def Budget.status : Budget → Status
  | .load => .refusedPower
  | _ => .refusedBandwidth

/-- A budget that a candidate start exceeds: the die (0xFF for a part-wide one), what was required and the cap. -/
structure Short where
  budget    : Budget
  die       : Nat
  required  : Nat
  available : Nat
  deriving DecidableEq, Repr

/-- The largest of a list of numbers, 0 for none. -/
def maxOf (xs : List Nat) : Nat := xs.foldl max 0

/-- The largest of a list of rationals, 0 for none. -/
def maxRat (xs : List Rat) : Rat := xs.foldl max 0

/-- The spring budget that the table exceeds first on some dies during a window (R207). -/
def State.shortSpring (s : State) (tab : List Resv) (dies : List Nat) (lo : Tb) (hi : Option Tb) : Option Short :=
  dies.findSome? fun d =>
    let m := maxOf ((instants tab lo hi).map (springAt tab d))
    if m > (s.die d).springCap then
      some { budget := .spring, die := d, required := m, available := (s.die d).springCap }
    else none

/-- The bandwidth budget that the table exceeds first on some dies during a window (R207). -/
def State.shortDram (s : State) (tab : List Resv) (dies : List Nat) (lo : Tb) (hi : Option Tb) : Option Short :=
  dies.findSome? fun d =>
    let m := maxOf ((instants tab lo hi).map (bwAt tab d))
    if m > (s.die d).bwCap then some { budget := .dram, die := d, required := m, available := (s.die d).bwCap }
    else none

/-- The power budget that the table and the standing charges exceed first on some dies during a window (R208). -/
def State.shortLoad (s : State) (tab : List Resv) (extra : List (Nat × Rat)) (dies : List Nat) (lo : Tb)
    (hi : Option Tb) : Option Short :=
  dies.findSome? fun d =>
    let m := maxRat ((instants tab lo hi).map (s.powerAt tab extra d))
    if m > (s.die d).loadCap then
      some { budget := .load, die := d, required := m.ceil.toNat, available := (s.die d).loadCap }
    else none

/-- The first budget that the table exceeds on the dies of some work during its window, in the order spring, DRAM,
power, then by die (R207, R208, R212). The table holds the work's own entries already. -/
def State.shortRun (s : State) (tab : List Resv) (extra : List (Nat × Rat)) (dies : List Nat) (lo : Tb)
    (hi : Option Tb) : Option Short :=
  s.shortSpring tab dies lo hi <|> s.shortDram tab dies lo hi <|> s.shortLoad tab extra dies lo hi

/-- Ten times the rate of a link speed code in GT/s (R291); 0 for a link that has not been trained. -/
def linkRate (speed : Nat) : Nat := [0, 25, 50, 80, 160, 320].getD speed 0

/-- Host DMA capacity in each direction in MB/s: 50,000 × (width / 16) × (speed / 32 GT/s) (R213, R281). -/
def State.dmaCapacity (s : State) : Nat := 50000 * s.pci.width * linkRate s.pci.speed / (16 * 320)

/-- The rate that a BULK transfer is granted from a start on: the largest rate that stays within every limit over the
window that it gives (R213), reached by lowering the rate until it does; `n` bounds the passes. -/
def State.grantRate (s : State) (tab : List Resv) (die bytes : Nat) (dir : Bool) (start : Tb) : Nat → Nat → Nat
  | 0, r => r
  | n + 1, r =>
    if r = 0 then 0
    else
      let hi := start + ceilDiv (bytes * 1000) r + 20000
      let ts := instants tab start (some hi)
      let (links, share) := s.bridgePath die dir
      let dram := (s.die die).bwCap - maxOf (ts.map (bwAt tab die))
      let dma := s.dmaCapacity -
        maxOf (ts.map fun t => sumAt tab t fun x => if x.dir = dir then x.dma else 0)
      let link := links.map fun l =>
        (30000 - maxOf (ts.map fun t => sumAt tab t fun x => if l ∈ x.links then x.rate else 0))
          * (if share then 2 else 1)
      let r' := (link.foldl min (min (min 6250 dram) dma))
      if r ≤ r' then r else State.grantRate s tab die bytes dir start n r'

/-- What limits a BULK transfer that finds no rate of 250 MB/s at a start (R212, R213). -/
def State.shortBulk (s : State) (tab : List Resv) (die bytes : Nat) (dir : Bool) (start : Tb) : Short :=
  let hi := start + ceilDiv (bytes * 1000) 250 + 20000
  let ts := instants tab start (some hi)
  let bw := maxOf (ts.map (bwAt tab die)) + 250
  let dma := maxOf (ts.map fun t => sumAt tab t fun x => if x.dir = dir then x.dma else 0) + 250
  let cap := s.dmaCapacity
  let (links, share) := s.bridgePath die dir
  let link := maxOf (links.map fun l =>
    maxOf (ts.map fun t => sumAt tab t fun x => if l ∈ x.links then x.rate else 0))
    + (if share then 125 else 250)
  if bw > (s.die die).bwCap then { budget := .dram, die, required := bw, available := (s.die die).bwCap }
  else if dma > cap then { budget := .dma, die := 0xFF, required := dma, available := cap }
  else { budget := .link, die := 0xFF, required := link, available := 30000 }

/-- One BULK transfer asked for: die, bytes and direction. -/
structure BulkAsk where
  die   : Nat
  bytes : Nat
  dir   : Bool
  deriving DecidableEq, Repr

/-- A BULK transfer granted at a start: rate, end of its window and DMA channel. -/
structure Grant where
  ask     : BulkAsk
  rate    : Nat
  stop    : Tb
  channel : Nat
  deriving DecidableEq, Repr

/-- The transfers of a command end: their reservations and channels are free. They count in their channels' queues until the
command's final reply is posted (R209, R213). -/
def State.dropBulks (s : State) (tag : BitVec 12) : State :=
  { s with bulks := s.bulks.map fun b => if b.tag == tag then { b with done := true } else b }

/-- Accepted transfers assigned to a DMA channel whose final replies are not posted (R209). -/
def State.queuedOn (s : State) (c : Nat) : Nat := (s.bulks.filter fun b => b.channel == c).length

/-- Grant the transfers of one command at a start, one after another, each beside those before it (R213). -/
def State.grants (s : State) (start : Tb) : List BulkAsk → List Resv → List Grant → Short ⊕ List Grant
  | [], _, gs => .inr gs
  | a :: rest, tab, gs =>
    let r := s.grantRate tab a.die a.bytes a.dir start (2 * tab.length + 2) 6250
    if r < 250 then .inl (s.shortBulk tab a.die a.bytes a.dir start)
    else
      let stop := start + ceilDiv (a.bytes * 1000) r + 20000
      let mine (c : Nat) : Nat := (gs.filter fun g => g.channel == c).length
      let free := (List.range 8).find? fun c =>
        !(tab.any fun x => x.chan == some c && x.meets start stop) && decide (s.queuedOn c + mine c < 16)
      match free with
      | none => .inl { budget := .dma, die := 0xFF, required := 9, available := 8 }
      | some c =>
        let (links, share) := s.bridgePath a.die a.dir
        let e : Resv := { lo := start, hi := some stop, die := a.die, bw := r, dir := a.dir, dma := r, links,
                          rate := if share then ceilDiv r 2 else r, chan := some c }
        s.grants start rest (tab ++ [e]) (gs ++ [{ ask := a, rate := r, stop, channel := c }])

/-- What the weir decides about (R212): the earliest start, an AT start, the horizon in ns, the alignment of starts
and L_s of a run, the DEADLINE, and whether a candidate start fits and with which promise and grants. -/
structure Ask where
  s0       : Tb
  atTb     : Option Tb := none
  horizon  : Option Nat := none
  unit     : Nat := 1
  ls       : Nat := 0
  deadline : Tb := 0
  fit      : Tb → Short ⊕ (Tb × List Grant)

/-- A refusal before its counter is known (R211). `earliest` none stands for the all-ones value. -/
structure Refuse where
  status    : Status
  detail    : Nat
  earliest  : Option Tb := none
  die       : Nat := 0xFF
  block     : Nat := 0
  required  : Nat := 0
  available : Nat := 0
  deriving DecidableEq, Repr

/-- The weir's decision: a start with its promise and grants, or a refusal. -/
inductive Decision where
  | accept (start promise : Tb) (gs : List Grant)
  | refuse (r : Refuse)
  deriving DecidableEq, Repr

/-- Ascending order without repeats. -/
def sortTb (xs : List Tb) : List Tb := (xs.mergeSort (· ≤ ·)).eraseDups

/-- The candidate starts of R212. -/
def candidates (tab : List Resv) (a : Ask) (s0 : Tb) : List Tb :=
  let ends := (tab.filterMap fun r => r.hi).filter fun e => decide (s0 < e)
  sortTb (s0 :: ends.flatMap fun e => [roundUp e a.unit, roundUp (e + a.ls) a.unit])

/-- The start, promise and grants of the first candidate that fits. -/
def firstFit (a : Ask) (cs : List Tb) : Option (Tb × Tb × List Grant) :=
  cs.findSome? fun c => match a.fit c with
    | .inr (p, gs) => some (c, p, gs)
    | .inl _ => none

/-- The decision of R212 after the state, slot and outlet checks. -/
def State.weirDecide (s : State) (tab : List Resv) (a : Ask) : Decision :=
  let now := s.tb
  let past := match a.atTb with | some t => decide (t < a.s0) | none => false
  let all := candidates tab a a.s0
  if past then
    .refuse { status := .refusedTime, detail := 0x02, earliest := (firstFit a all).map (·.1) }
  else
    let s0 := a.atTb.getD a.s0
    let cs := candidates tab a s0
    let beyond (c : Tb) : Bool := match a.horizon with | some h => decide (c > now + h) | none => false
    let block := match a.fit s0 with | .inl f => f.budget.code | .inr _ => 0
    let free := firstFit a cs
    if beyond s0 then
      .refuse { status := .refusedTime, detail := 0x03, earliest := free.map (·.1), block }
    else
      let near := (if a.atTb.isSome then [s0] else cs).filter fun c => !beyond c
      match firstFit a near with
      | some (c, p, gs) =>
        if a.deadline ≠ 0 ∧ p > a.deadline then
          .refuse { status := .refusedTime, detail := 0x01, earliest := some c, block,
                    required := satTo 32 (ceilDiv (p - a.deadline) 1000) }
        else .accept c p gs
      | none =>
        if a.atTb.isNone ∧ free.isSome then
          .refuse { status := .refusedTime, detail := 0x03, earliest := free.map (·.1), block }
        else
          match a.fit s0 with
          | .inl f => .refuse { status := f.budget.status, detail := f.budget.code, earliest := free.map (·.1),
                                die := f.die, required := satTo 32 f.required, available := f.available }
          | .inr _ => .refuse { status := .refusedTime, detail := 0x03 }

/-! ### Times of a run -/

/-- What a run start needs of its image: dies, budget entries and load peaks (R201, R206, R208). -/
def imgLoads (r : Rd) : List (Nat × Nat × Nat) :=
  (diesOf (imgHdr r).dieMask).map fun d =>
    let b := (imgBudget r).find? fun e => e.die == d
    let p := (imgPower r).find? fun e => e.die == d
    ((b.map (·.armBytes)).getD 0, (b.map (·.springPeak)).getD 0, (p.map (·.loadPeak)).getD 0)

/-- L_s of R201: 120 µs, and the arm bytes at 2 GB/s. -/
def startLatency (loads : List (Nat × Nat × Nat)) : Nat := 120000 + maxOf (loads.map fun l => ceilDiv l.1 2)

/-- The recipes of an image with their clusters. -/
def imgRecipes (r : Rd) : List (Nat × Recipe) :=
  (imgDir r).flatMap fun s =>
    if s.typ = secRecipes then (List.range s.count).map fun i => (s.cluster, recipeAt (r.from s.off) i) else []

/-- N_max of R188: the largest averaging of a lane that a SAR recipe reads, 1 when there is none. -/
def imgNMax (r : Rd) : Nat :=
  let map := imgMap r
  max 1 (maxOf ((imgRecipes r).flatMap fun x =>
    if x.2.charge then []
    else (bitsOf x.2.laneMask).map fun l =>
      match map.find? fun m => m.k == x.1 with
      | some m => ((m.lane[l]?).map (·.avgM1)).getD 0 + 1
      | none => 1))

/-- E of R201 (R188). -/
def endBound (r : Rd) : Nat := 200000 + (imgNMax r - 1) * 1000

/-! ### Held parts -/

/-- An accepted run maps channel `n` (R197). -/
def State.held (s : State) (n : Nat) : Bool := s.runs.any fun r => r.mapped.contains n

/-- The clusters of a run: those of its image (R200). -/
def State.runClusters (s : State) (r : Run) : List Nat := bitsOf (imgHdr (s.imgRd r.image)).clusterMask

/-- Every member of a run has come to its end (R142). -/
def State.runDone (s : State) (r : Run) : Bool := (s.runClusters r).all fun k => (s.seq k).state == .done

/-- A run is ENDING (R325, R326): its end is decided, or its members are done and its final reply is not formed. -/
def State.runEnding (s : State) (r : Run) : Bool :=
  r.state == .ending || ((r.state == .running || r.state == .hold) && s.runDone r)

/-- RSTATE of a run (R325). -/
def State.rstate (s : State) (r : Run) : RState := if s.runEnding r then .ending else r.state

/-- An accepted run's group holds cluster `k`. -/
def State.clusterHeld (s : State) (k : Nat) : Bool := s.runs.any fun r => (s.runClusters r).contains k

/-- The accepted runs of a lock group in acceptance order. -/
def State.runsOf (s : State) (g : Nat) : List Run := s.runs.filter fun r => r.group == g

/-- A run has started: its start TB has been acted on (R218). -/
def Run.started (r : Run) : Bool := r.state == .running || r.state == .hold || r.state == .ending

/-- The running run of a lock group. -/
def State.running (s : State) (g : Nat) : Option Run := s.runs.find? fun r => r.group == g && r.started

/-- The running run that holds cluster `k`. -/
def State.runOfCluster (s : State) (k : Nat) : Option Run :=
  s.runs.find? fun r => r.started && (s.runClusters r).contains k

/-- The sequencer registers that show the run which holds cluster `k` (R143, R117): IN_RUN, and its group, policy and
ownership; a cluster that no run holds keeps what the last run left in the last three. -/
def State.seqHeld (s : State) (k : Nat) (q : Seq) : Seq :=
  match s.runs.find? fun r => (s.runClusters r).contains k with
  | none => { q with inRun := false }
  | some r =>
    let h := imgHdr (s.imgRd r.image)
    { q with
      inRun := true, group := r.group, stretch := h.stretch
      owner := ((bitsOf h.clusterMask).filter fun i => dieOfCluster i == dieOfCluster k).head? == some k }

/-- Set IN_RUN of channels and clusters from the accepted runs (R78, R143, R197). -/
def State.refreshHolds (s : State) (chans clusters : List Nat) : State :=
  let s := s.updChans (fun n _ => chans.contains n) fun n c => { c with st := { c.st with inRun := s.held n } }
  s.updClusters (fun k _ => clusters.contains k) fun k c =>
    { c with seq := s.seqHeld k c.seq }

/-! ### Ending accepted work -/

/-- FINAL_FLAGS as an integer (R313). -/
def finalFlags (broken lateUntaken dramLost stretched : Bool) : Nat :=
  bit broken + 2 * bit lateUntaken + 4 * bit dramLost + 8 * bit stretched

/-- Result records of a run that are kept (R325, R342). -/
def State.recordCount (s : State) (r : Run) : Nat :=
  if r.started then
    ((s.results.find? fun x => x.group == r.group && x.s == r.s).map fun x => x.recs.length).getD 0
  else 0

/-- The final reply of a run, of the RUN_STOPs and RUN_ABORTs that wait for it, and its release: reservations, group
and channels (R142, R218, R325, R326). -/
def State.runFinal (s : State) (tag : BitVec 12) (status : Status) (detail : Nat) (cause : Nat) : State :=
  match s.runs.find? fun r => r.tag == tag with
  | none => s
  | some r =>
    let res := resultOf [(0x10, finalFlags r.broken r.lateUntaken r.dramLost r.stretched),
                         (0x14, s.recordCount r), (0x18, r.endTb)]
    let waiting := s.works.filter fun w => w.kind == .stopOf tag || w.kind == .abortOf tag || w.kind == .endingOf tag
    let clusters := s.runClusters r
    let s := { s with runs := s.runs.filter fun x => x.tag != tag }
    let s := s.refreshHolds r.mapped clusters
    let s := s.finish tag status detail res cause
    waiting.foldl (fun s w =>
      s.finish w.tag .ok (if w.kind = .endingOf tag then 0x05 else 0) (resultOf [(0x18, r.endTb)]) 0) s

/-- A run that has not started goes back: its sequencers leave ARMED. -/
def State.unarm (s : State) (r : Run) : State :=
  if r.state = .arming then
    s.updClusters (fun k _ => (s.runClusters r).contains k) fun _ c =>
      { c with seq := { c.seq with state := .idle, springs := [] } }
  else s

/-- Take back what an accepted command has set up for its later steps. -/
def State.cancel (s : State) (w : Work) : State :=
  match w.kind with
  | .force _ => s.updChans (fun _ c => c.forces.any (fun f => f.tag == w.tag) || c.queue.any (fun e => e.owner == some w.tag))
      fun _ c => { c with forces := c.forces.filter fun f => f.tag != w.tag
                          queue := c.queue.filter fun e => e.owner != some w.tag }
  | .refdac d j => s.updDie d fun x => { x with refdac := x.refdac.modify j fun r => { r with pending := false } }
  | .trigArm kind id _ => s.updClusters
      (fun k _ => if kind = 1 then k == id else hasBit (s.group id).members k) fun _ c =>
        { c with trig := { c.trig with armAt := none } }
  | .trigDisarm kind id _ => s.updClusters
      (fun k _ => if kind = 1 then k == id else hasBit (s.group id).members k) fun _ c =>
        { c with trig := { c.trig with disarmAt := none } }
  | .capStart k streams _ => s.updCluster k fun c =>
      { c with caps := c.caps.mapIdx fun i x => if hasBit streams i then { x with startAt := none } else x }
  | .capStop k streams _ => s.updCluster k fun c =>
      { c with caps := c.caps.mapIdx fun i x => if hasBit streams i then { x with stopAt := none } else x }
  | .bulk => s.dropBulks w.tag
  | .pllSet d => s.updPll d fun p =>
      { p with waiting := p.waiting.filter fun x => x.1 != w.tag, cmd := if p.cmd = some w.tag then none else p.cmd }
  | .thermal d _ => s.updThm d fun t =>
      { t with convs := t.convs.map fun c => { c with tags := c.tags.filter fun x => x != w.tag } }
  | .thermalClear d => s.updThm d fun t =>
      { t with convs := t.convs.map fun c => { c with tags := c.tags.filter fun x => x != w.tag } }
  | .verify id => s.updImage id fun i => { i with state := if i.state = .verifying then .loaded else i.state }
  | _ => s

/-- The image that an IMAGE_LOAD in progress fills is dropped (R247). -/
def State.dropLoad (s : State) (w : Work) : State :=
  if w.opcode = 0x0020 then
    { s with images := s.images.filter fun i => !(i.state == .loading && s.bulks.any fun b =>
        b.tag == w.tag && b.source == i.id) }
  else s

/-- Revoke accepted work: REVOKED with a detail and the present TB (R220, R221). -/
def State.revoke (s : State) (w : Work) (detail : Nat) (cause : Nat) : State :=
  match s.runs.find? fun r => r.tag == w.tag with
  | some r => (s.unarm r).runFinal w.tag .revoked detail cause
  | none => ((s.dropLoad w).cancel w).finish w.tag .revoked detail 0 cause

/-- Revoke the runs for which `p` holds and which have not started. -/
def State.revokeRuns (s : State) (p : Run → Bool) (detail cause : Nat) : State :=
  (s.runs.filter fun r => !r.started && p r).foldl
    (fun s r => (s.unarm r).runFinal r.tag .revoked detail cause) s

/-- Pending work that holds reservations on a die, latest accepted first (R220): runs that have not started and
transfers that have not begun to move. -/
def State.pendingOn (s : State) (d : Nat) : List Work :=
  (s.works.filter fun w =>
    w.done.isNone && hasBit w.dieMask d
      && ((s.runs.any fun r => r.tag == w.tag && !r.started)
          || (s.bulks.any fun b => b.tag == w.tag && !b.moving && !b.done))).reverse

/-- The window in which accepted work reserves on a die. -/
def State.windowOf (s : State) (w : Work) (d : Nat) : Tb × Tb :=
  match s.runs.find? fun r => r.tag == w.tag with
  | some r => (r.a, r.windowEnd)
  | none =>
    match s.bulks.find? fun b => b.tag == w.tag && b.die == d with
    | some b => (b.start, b.stop)
    | none => (0, 0)

/-- The table exceeds a cap of the die that some work draws on, somewhere in the work's window: a run draws on every budget, a
BULK transfer on bandwidth alone (R206, R208, R220). -/
def State.overIn (s : State) (w : Work) (d : Nat) : Bool :=
  let (lo, hi) := s.windowOf w d
  if s.runs.any fun r => r.tag == w.tag then (s.shortRun s.table [] [d] lo (some hi)).isSome
  else (s.shortDram s.table [d] lo (some hi)).isSome

/-- Bring the table back within the die's caps: the latest accepted pending work that no longer fits is revoked until
everything left fits (R220). `n` bounds the revocations. -/
def State.shrink (s : State) (d detail cause : Nat) : Nat → State
  | 0 => s
  | n + 1 =>
    match (s.pendingOn d).find? fun w => s.overIn w d with
    | some w => State.shrink (s.revoke w detail cause) d detail cause n
    | none => s

/-- Restore the table of a die after a cap fell (R220, R221). -/
def State.capFell (s : State) (d detail cause : Nat) : State := s.shrink d detail cause s.works.length

/-! ### Counters of the weir -/

/-- The refusal counter of a status on an inlet (R223). -/
def refuseIndex (st : Status) : Option Nat :=
  match st with
  | .refusedTime => some 0
  | .refusedBandwidth => some 1
  | .refusedPower => some 2
  | .refusedSlots => some 3
  | .refusedUncal => some 4
  | _ => none

/-- Count a refusal on an inlet; answers the new count (R224). -/
def State.countRefusal (s : State) (inlet : Nat) (st : Status) : Nat × State :=
  match refuseIndex st with
  | some x =>
    let i := inlet * 5 + x
    let v := inc32 (s.weir.refuse.getD i 0)
    (v, { s with weir := { s.weir with refuse := s.weir.refuse.set i v } })
  | none => (0, s)

/-- Count an acceptance on an inlet (R223). -/
def State.countAccept (s : State) (inlet : Nat) : State :=
  { s with weir := { s.weir with accept := s.weir.accept.modify inlet inc32 } }

/-- Classes 1 to 3 tags in flight (R209). -/
def State.heavyTags (s : State) : Nat := (s.tags.filter fun u => u.cls != 0).length

/-- Final replies reserved on an outlet: accepted commands of its inlet whose final reply is not yet formed or posted
(R210). -/
def State.reservedOn (s : State) (o : Nat) : Nat := (s.works.filter fun w => w.inlet == o).length

/-- Room in an outlet (R210): its size, less the entries posted and not consumed, the replies held and the final
replies reserved. -/
def State.room (s : State) (o : Nat) : Int :=
  let r := s.outlet o
  (2 ^ r.sizeLog2 : Nat) - (r.inUse : Int) - r.held.length - s.reservedOn o

end Sys2Proof.Machine
end

