-- ==== Sys2Proof/Machine/Mailbox.lean ====
section
/-! DEFINITION. The way of a mailbox command (R193 to R217, R306 to R316): from its descriptor through the checks of
R308 to a single reply, or through the weir's decision to an acceptance or a refusal. -/

namespace Sys2Proof.Machine

/-! ### Fetch and the checks of R308 -/

/-- The rings are served: from FW_START on, also at a failure stage at or after it (R285, R316). -/
def State.ringsServed (s : State) : Bool :=
  let st := s.boot.stage.toNat
  if st ≥ 0xE0 then decide (0xE4 ≤ st) else decide (0x40 ≤ st)

/-- A descriptor can be fetched from inlet `i` (R210, R294, R296). -/
def State.fetchable (s : State) (i : Nat) : Bool :=
  s.ringsServed && (s.inlet i).enable && !(s.inlet i).stopped && (s.outlet i).enable && s.hostUp
    && decide (1 ≤ s.room i)

/-- A descriptor waits in the ring of inlet `i` and can be fetched now (R210, R296). -/
def State.waits (s : State) (i : Nat) : Bool :=
  s.fetchable i && !(s.inlet i).announced.isEmpty && (s.inlet i).slot.isNone

/-- It is the turn of inlet `i` under the round-robin of R215. -/
def State.turn (s : State) (i : Nat) : Bool :=
  let order := (List.range 16).map fun j => (s.pci.lastFetch + 1 + j) % 16
  s.waits i && order.find? s.waits == some i

/-- The part takes the descriptor at the head of inlet `i` (R293). -/
def State.consume (s : State) (i : Nat) : State :=
  (s.updInlet i fun x => { x with index := x.index + 1, announced := x.announced.drop 1, retried := false }).updPci
    fun p => { p with lastFetch := i, l1 := false }

/-- The time from doorbell to decision of a descriptor, entered into the weir's registers (R215, R223). -/
def State.noteDecision (s : State) (dbTb : Tb) (cls : Nat) : State :=
  let ns := s.tb - dbTb
  { s with weir := { s.weir with
      decideMax := max s.weir.decideMax (satTo 32 ns)
      decideLate := if cls < 3 ∧ ns > 20000 then inc32 s.weir.decideLate else s.weir.decideLate } }

/-- A fetch took `ns` (R31). -/
def State.fetched (s : State) (ns : Nat) : State := s.updPci fun p => { p with fetchMax := max p.fetchMax (satTo 32 ns) }

/-- A command of an inlet where none is announced rings its own doorbell now (log entry 16). -/
def State.ring (s : State) (i : Nat) : State :=
  if (s.inlet i).announced.isEmpty then
    s.updInlet i fun x => { x with peer := x.peer + 1, announced := [s.tb] }
  else s

/-- The part takes the next descriptor of inlet `i` and decides it at once: the fetch's time, since the doorbell at most, is
open (log entry 16). -/
def State.takeNext (s : State) (i : Nat) (d : Desc) : State :=
  let db := (s.inlet i).announced.headD s.tb
  let (v, s) := s.takeFree
  ((s.consume i).fetched (v.toNat % (s.tb - db + 1))).noteDecision db d.cls

/-- A fetched class 0 descriptor waits in another inlet and no fence holds it: it is decided first (R215). -/
def State.class0Waits (s : State) (i : Nat) : Bool :=
  (List.range 16).any fun j => j != i && (match (s.inlet j).slot with
    | some f => ((descOf f.cmd).any fun d => d.cls == 0) && !(f.fence && s.openWork j)
    | none => false)

/-- Take the descriptor that a command stands for: the one fetched before and waiting, or the next one of its inlet.
None when it cannot be decided now: another descriptor waits in the inlet, nothing can be fetched, or a fence holds it
(R296, R307). Answers whether the tag is its own (R308, R309). -/
def State.receive (s : State) (d : Desc) : Option (Bool × State) :=
  let i := d.h.inlet.toNat
  if (d.h.fence && s.openWork i) || (d.cls != 0 && s.class0Waits i) then none
  else
    match (s.inlet i).slot with
    | some f =>
      if f.cmd = d.bare then some (true, (s.noteDecision f.dbTb d.cls).updInlet i fun x => { x with slot := none })
      else none
    | none =>
      let s := s.ring i
      if s.turn i then
        let s := s.takeNext i d
        if s.tagBusy d.h.tag then some (false, s) else some (true, s.useTag d.h.tag d.cls)
      else none

/-- The first check of R308 that a descriptor fails, with its answer. -/
def State.descErr (s : State) (d : Desc) (c : Instr) (own : Bool) : Option (Status × Nat) :=
  if !s.boot.ready && d.op != 1 && d.op != 2 then some (.notAvailable, 0x01)
  else if d.cls ≠ 0 ∧ ¬ d.h.want then some (.badArg, dFlags)
  else if d.cls = 0 ∧ d.h.deadline ≠ 0 then some (.badArg, dReserved)
  else if !d.whole then some (.badArg, dLength)
  else match s.rangeErr c with
    | some e => some (.badArg, e)
    | none => if own then none else some (.badArg, dTagBusy)

/-- A single reply (R311); it frees the tag where the tag is the descriptor's own. -/
def State.single (s : State) (d : Desc) (own : Bool) (status : Status) (detail : Nat) (result : BitVec 128) : State :=
  s.post d.h.inlet.toNat
    { opcode := BitVec.ofNat 16 d.op, status, detail := BitVec.ofNat 8 detail, tag := d.h.tag, epoch := s.boot.epoch,
      tb := s.tb, result } own 0

/-! ### Class 0 -/

/-- What a class 0 command answers. -/
structure Answer where
  status : Status := Status.ok
  detail : Nat := 0
  result : BitVec 128 := 0

/-- The answer to a class 0 command (R307, R311): its one reply, or, where the answer is OK and no reply is wanted, only
its tag back. -/
def State.reply0 (s : State) (d : Desc) (a : Answer) : State :=
  if a.status == Status.ok && !d.h.want then s.freeTag d.h.tag else s.single d true a.status a.detail a.result

/-- A class 0 command (R193, R307, R311): executed at once, answered with one reply. -/
def State.immediate (s : State) (t : Tb) (c : Instr) (body : State → Answer × State) : State :=
  let s := s.at t
  match descOf c with
  | none => s
  | some d =>
    match s.receive d with
    | none => s
    | some (own, s) =>
      match s.descErr d c own with
      | some (st, e) => s.single d own st e 0
      | none =>
        let (a, s) := body s
        s.reply0 d a

/-! ### Classes 1 to 3 -/

/-- What the state checks of a command give: the lock group that orders its final reply (R312), the dies it touches, a
slot that is not free or REFUSED_UNCAL, what the weir decides about, the table it decides against, the arm TB of a
start, and what the accepted command waits for. -/
structure Plan where
  group  : Option Nat := none
  dies   : BitVec 8 := 0
  refuse : Option Refuse := none
  ask    : Ask
  tab    : List Resv := []
  arm    : Tb → Tb := fun _ => 0
  kind   : WorkKind := .plain

/-- A refusal reply (R211) and its count (R224). -/
def State.refuse (s : State) (d : Desc) (r : Refuse) : State :=
  let (n, s) := s.countRefusal d.h.inlet.toNat r.status
  let res := resultOf [(0x10, r.die), (0x11, d.h.inlet.toNat), (0x12, r.block), (0x14, r.required % 2 ^ 32),
    (0x18, r.available % 2 ^ 32), (0x1C, n)]
  s.post d.h.inlet.toNat
    { opcode := BitVec.ofNat 16 d.op, status := r.status, detail := BitVec.ofNat 8 r.detail, tag := d.h.tag,
      epoch := s.boot.epoch, tb := r.earliest.getD (2 ^ 64 - 1), result := res } true 0

/-- The tag limit of classes 1 to 3 (R209). -/
def State.tagSlot (s : State) : Option Refuse :=
  if s.heavyTags > 4032 then
    some { status := .refusedSlots, detail := 0x30, required := s.heavyTags, available := 4032 }
  else none

/-- The outlet check of R210. -/
def State.outletSlot (s : State) (o : Nat) : Option Refuse :=
  if s.room o < 2 then
    some { status := .refusedBandwidth, detail := 0x14, required := 2, available := (s.room o).toNat }
  else none

/-- The acceptance of a command: its count, its reply with promise, start and arm TB, and its entry among the accepted
work (R195, R223, R311). -/
def State.accept (s : State) (d : Desc) (group : Option Nat) (dies : BitVec 8) (kind : WorkKind)
    (start promise arm : Tb) : State :=
  let s := s.countAccept d.h.inlet.toNat
  let s := s.post d.h.inlet.toNat
    { opcode := BitVec.ofNat 16 d.op, status := .ok, detail := 0x01, tag := d.h.tag, epoch := s.boot.epoch,
      tb := promise, result := resultOf [(0x10, start), (0x18, arm)] } false 0
  { s with works := s.works ++
      [{ tag := d.h.tag, inlet := d.h.inlet.toNat, opcode := BitVec.ofNat 16 d.op, cls := d.cls, start, promise,
         deadline := d.h.deadline.toNat, group, dieMask := dies, moving := false, kind, done := none }] }

/-- The weir's decision about a command that passed its state checks (R209, R210, R212), and what follows an
acceptance. -/
def State.decideWork (s : State) (d : Desc) (p : Plan) (go : State → Tb → Tb → List Grant → State) : State :=
  match p.refuse <|> s.tagSlot <|> s.outletSlot d.h.inlet.toNat with
  | some r => s.refuse d r
  | none =>
    match s.weirDecide p.tab p.ask with
    | .refuse r => s.refuse d r
    | .accept start promise gs => go (s.accept d p.group p.dies p.kind start promise (p.arm start)) start promise gs

/-- A command of class 1 to 3 (R193, R195, R196, R308, R311): its checks, its decision and what follows. -/
def State.request (s : State) (t : Tb) (c : Instr) (plan : State → (Status × Nat) ⊕ Plan)
    (go : State → Tb → Tb → List Grant → State) : State :=
  let s := s.at t
  match descOf c with
  | none => s
  | some d =>
    match s.receive d with
    | none => s
    | some (own, s) =>
      match s.descErr d c own with
      | some (st, e) => s.single d own st e 0
      | none =>
        match plan s with
        | .inl (st, e) => s.single d true st e 0
        | .inr p => s.decideWork d p go

/-- As `request`, for a command whose whole effect follows its acceptance at once: the effect, and its final reply
(R214). -/
def State.requestNow (s : State) (t : Tb) (h : Hdr) (c : Instr) (plan : State → (Status × Nat) ⊕ Plan)
    (effect : State → BitVec 128 × State) : State :=
  s.request t c plan fun s _ _ _ =>
    let (res, s) := effect s
    s.finish h.tag .ok 0 res 0

/-! ### Parts of plans -/

/-- A BAD_STATE answer (R315). -/
abbrev dState : Nat := 0x01
abbrev dHeld : Nat := 0x02
abbrev dOtActive : Nat := 0x03
abbrev dImage : Nat := 0x04
abbrev dSync : Nat := 0x05
abbrev dPatch : Nat := 0x06
abbrev dTrigger : Nat := 0x07
abbrev dResultsGone : Nat := 0x08

/-- A die that a command needs and that cannot serve it (R316): `thermal` says that it needs channels, clusters or
budgets of the die. -/
def State.unavailable (s : State) (ds : List Nat) (thermal : Bool) : Option (Status × Nat) :=
  ds.findSome? fun d =>
    match (s.die d).st with
    | .offline => some (.notAvailable, 0x02)
    | .recovering => some (.notAvailable, 0x02)
    | .absent => some (.notAvailable, 0x02)
    | .thermalOff => if thermal then some (.notAvailable, 0x03) else none
    | .active => none

/-- A die whose DRAM a command needs and that is OFFLINE, or in no state to be read (R316). -/
def State.noDram (s : State) (ds : List Nat) : Option (Status × Nat) :=
  if ds.all (dramReady s) then none else some (.notAvailable, 0x04)
where
  /-- The DRAM of a die serves requests. -/
  dramReady (s : State) (d : Nat) : Bool := (s.die d).dram.st == .full || (s.die d).dram.st == .half

/-- A timed command: it starts at its decision and is promised `promise` (R214); `short` is the budget it does not fit
when it starts at a candidate. -/
def State.timed (s : State) (h : Hdr) (promise : Tb) (short : Tb → Option Short := fun _ => none) : Ask :=
  { s0 := s.tb, atTb := some s.tb, deadline := h.deadline.toNat
    fit := fun c => match short c with
      | some x => .inl x
      | none => .inr (promise, []) }

/-- The promise of R214 for a service bound. -/
def State.bound (s : State) (ns : Nat) : Tb := s.tb + 5000 + ns

/-- The channels' new standing charges do not fit the die's power budget (R208). -/
def State.powerShort (s : State) (d : Nat) (extra : List (Nat × Rat)) (c : Tb) : Option Short :=
  s.shortLoad s.table extra [d] c none

/-- The first failing condition of a list, with its answer. -/
def firstErr (cs : List (Bool × Status × Nat)) : Option (Status × Nat) := (cs.find? fun c => !c.1).map (·.2)

/-- A plan, or the answer of the state check that fails. -/
def orPlan (e : Option (Status × Nat)) (p : Plan) : (Status × Nat) ⊕ Plan :=
  match e with
  | some x => .inl x
  | none => .inr p

/-- The lock group that some clusters all lie in (R312). -/
def State.groupOfAll (s : State) (ks : List Nat) : Option Nat :=
  match ks with
  | [] => none
  | k :: rest => match s.groupOf k with
    | some g => if rest.all fun j => s.groupOf j == some g then some g else none
    | none => none

/-- The mask of a die. -/
def dieBit (d : Nat) : BitVec 8 := maskOf 8 [d]

end Sys2Proof.Machine
end

