-- ==== Sys2Proof/Machine/Crypto.lean ====
section
/-! DEFINITION. Checks that the spec names by their standards: CRC-8 and CRC-32 (R102, R367, R370), SHA-256 and SHA-384
(R226, R245, R440), and ECDSA over P-384 (R245, R441). -/

namespace Sys2Proof.Machine

/-! ### CRC -/

/-- One bit of the reflected CRC-32 (R367). -/
def crc32Bit (c : Nat) : Nat := if c % 2 = 1 then (c / 2) ^^^ 0xEDB88320 else c / 2

/-- One byte of the reflected CRC-32. -/
def crc32Byte (c : Nat) (b : Byte) : Nat := (List.range 8).foldl (fun c _ => crc32Bit c) (c ^^^ b.toNat)

/-- CRC-32 of bytes (R367): IEEE 802.3, reflected, from all ones, inverted. -/
def crc32 (bs : List Byte) : Nat := (bs.foldl crc32Byte 0xFFFFFFFF) ^^^ 0xFFFFFFFF

/-- One bit of CRC-8 with x^8 + x^2 + x + 1, the most significant bit first (R102, R370). -/
def crc8Bit (c : Nat) : Nat := if c ≥ 128 then ((c * 2) % 256) ^^^ 0x07 else c * 2

/-- CRC-8 of bytes, the first byte first. -/
def crc8 (bs : List Nat) : Nat :=
  bs.foldl (fun c b => (List.range 8).foldl (fun c _ => crc8Bit c) (c ^^^ b)) 0

/-- The bytes of an `n`-byte number, most significant first. -/
def beBytes (n v : Nat) : List Nat := (List.range n).map fun i => v / 256 ^ (n - 1 - i) % 256

/-- A number from bytes, most significant first. -/
def ofBe (bs : List Byte) : Nat := bs.foldl (fun v b => v * 256 + b.toNat) 0

/-! ### SHA-2 (FIPS 180-4) -/

/-- Round constants of SHA-256. -/
def sha256K : List Nat :=
  [0x428A2F98, 0x71374491, 0xB5C0FBCF, 0xE9B5DBA5, 0x3956C25B, 0x59F111F1, 0x923F82A4, 0xAB1C5ED5]
    ++ [0xD807AA98, 0x12835B01, 0x243185BE, 0x550C7DC3, 0x72BE5D74, 0x80DEB1FE, 0x9BDC06A7, 0xC19BF174]
    ++ [0xE49B69C1, 0xEFBE4786, 0x0FC19DC6, 0x240CA1CC, 0x2DE92C6F, 0x4A7484AA, 0x5CB0A9DC, 0x76F988DA]
    ++ [0x983E5152, 0xA831C66D, 0xB00327C8, 0xBF597FC7, 0xC6E00BF3, 0xD5A79147, 0x06CA6351, 0x14292967]
    ++ [0x27B70A85, 0x2E1B2138, 0x4D2C6DFC, 0x53380D13, 0x650A7354, 0x766A0ABB, 0x81C2C92E, 0x92722C85]
    ++ [0xA2BFE8A1, 0xA81A664B, 0xC24B8B70, 0xC76C51A3, 0xD192E819, 0xD6990624, 0xF40E3585, 0x106AA070]
    ++ [0x19A4C116, 0x1E376C08, 0x2748774C, 0x34B0BCB5, 0x391C0CB3, 0x4ED8AA4A, 0x5B9CCA4F, 0x682E6FF3]
    ++ [0x748F82EE, 0x78A5636F, 0x84C87814, 0x8CC70208, 0x90BEFFFA, 0xA4506CEB, 0xBEF9A3F7, 0xC67178F2]

/-- Round constants of SHA-512 and SHA-384. -/
def sha512K : List Nat :=
  [0x428A2F98D728AE22, 0x7137449123EF65CD, 0xB5C0FBCFEC4D3B2F, 0xE9B5DBA58189DBBC]
    ++ [0x3956C25BF348B538, 0x59F111F1B605D019, 0x923F82A4AF194F9B, 0xAB1C5ED5DA6D8118]
    ++ [0xD807AA98A3030242, 0x12835B0145706FBE, 0x243185BE4EE4B28C, 0x550C7DC3D5FFB4E2]
    ++ [0x72BE5D74F27B896F, 0x80DEB1FE3B1696B1, 0x9BDC06A725C71235, 0xC19BF174CF692694]
    ++ [0xE49B69C19EF14AD2, 0xEFBE4786384F25E3, 0x0FC19DC68B8CD5B5, 0x240CA1CC77AC9C65]
    ++ [0x2DE92C6F592B0275, 0x4A7484AA6EA6E483, 0x5CB0A9DCBD41FBD4, 0x76F988DA831153B5]
    ++ [0x983E5152EE66DFAB, 0xA831C66D2DB43210, 0xB00327C898FB213F, 0xBF597FC7BEEF0EE4]
    ++ [0xC6E00BF33DA88FC2, 0xD5A79147930AA725, 0x06CA6351E003826F, 0x142929670A0E6E70]
    ++ [0x27B70A8546D22FFC, 0x2E1B21385C26C926, 0x4D2C6DFC5AC42AED, 0x53380D139D95B3DF]
    ++ [0x650A73548BAF63DE, 0x766A0ABB3C77B2A8, 0x81C2C92E47EDAEE6, 0x92722C851482353B]
    ++ [0xA2BFE8A14CF10364, 0xA81A664BBC423001, 0xC24B8B70D0F89791, 0xC76C51A30654BE30]
    ++ [0xD192E819D6EF5218, 0xD69906245565A910, 0xF40E35855771202A, 0x106AA07032BBD1B8]
    ++ [0x19A4C116B8D2D0C8, 0x1E376C085141AB53, 0x2748774CDF8EEB99, 0x34B0BCB5E19B48A8]
    ++ [0x391C0CB3C5C95A63, 0x4ED8AA4AE3418ACB, 0x5B9CCA4F7763E373, 0x682E6FF3D6B2B8A3]
    ++ [0x748F82EE5DEFB2FC, 0x78A5636F43172F60, 0x84C87814A1F0AB72, 0x8CC702081A6439EC]
    ++ [0x90BEFFFA23631E28, 0xA4506CEBDE82BDE9, 0xBEF9A3F7B2C67915, 0xC67178F2E372532B]
    ++ [0xCA273ECEEA26619C, 0xD186B8C721C0C207, 0xEADA7DD6CDE0EB1E, 0xF57D4F7FEE6ED178]
    ++ [0x06F067AA72176FBA, 0x0A637DC5A2C898A6, 0x113F9804BEF90DAE, 0x1B710B35131C471B]
    ++ [0x28DB77F523047D84, 0x32CAAB7B40C72493, 0x3C9EBE0A15C9BEBC, 0x431D67C49C100D4C]
    ++ [0x4CC5D4BECB3E42B6, 0x597F299CFC657E2A, 0x5FCB6FAB3AD6FAEC, 0x6C44198C4A475817]

/-- Initial value of SHA-256. -/
def sha256H : List Nat :=
  [0x6A09E667, 0xBB67AE85, 0x3C6EF372, 0xA54FF53A, 0x510E527F, 0x9B05688C, 0x1F83D9AB, 0x5BE0CD19]

/-- Initial value of SHA-384. -/
def sha384H : List Nat :=
  [0xCBBB9D5DC1059ED8, 0x629A292A367CD507, 0x9159015A3070DD17, 0x152FECD8F70E5939]
    ++ [0x67332667FFC00B31, 0x8EB44A8768581511, 0xDB0C2E0D64F98FA7, 0x47B5481DBEFA4FA4]

/-- A SHA-2 variant: word width, round constants, and the shift amounts of its four functions. -/
structure Sha2 where
  w  : Nat
  k  : List Nat
  s0 : Nat × Nat × Nat
  s1 : Nat × Nat × Nat
  b0 : Nat × Nat × Nat
  b1 : Nat × Nat × Nat

/-- SHA-256. -/
def sha2v256 : Sha2 :=
  { w := 32, k := sha256K, s0 := (7, 18, 3), s1 := (17, 19, 10), b0 := (2, 13, 22), b1 := (6, 11, 25) }

/-- SHA-512, of which SHA-384 is the shortened form. -/
def sha2v512 : Sha2 :=
  { w := 64, k := sha512K, s0 := (1, 8, 7), s1 := (19, 61, 6), b0 := (28, 34, 39), b1 := (14, 18, 41) }

/-- Rotate right within a width. -/
def rotr (w n x : Nat) : Nat := (x >>> n) ||| ((x <<< (w - n)) % 2 ^ w)

/-- Two rotations and a shift. -/
def Sha2.sig (v : Sha2) (a : Nat × Nat × Nat) (x : Nat) : Nat :=
  rotr v.w a.1 x ^^^ rotr v.w a.2.1 x ^^^ (x >>> a.2.2)

/-- Three rotations. -/
def Sha2.cap (v : Sha2) (a : Nat × Nat × Nat) (x : Nat) : Nat :=
  rotr v.w a.1 x ^^^ rotr v.w a.2.1 x ^^^ rotr v.w a.2.2 x

/-- The message schedule, newest word first. -/
def Sha2.schedule (v : Sha2) : Nat → List Nat → List Nat
  | 0, ws => ws
  | n + 1, ws =>
    let x := v.sig v.s1 (ws.getD 1 0) + ws.getD 6 0 + v.sig v.s0 (ws.getD 14 0) + ws.getD 15 0
    Sha2.schedule v n (x % 2 ^ v.w :: ws)

/-- One round on the eight working words. -/
def Sha2.round (v : Sha2) (h : List Nat) (kw : Nat) : List Nat :=
  match h with
  | [a, b, c, d, e, f, g, i] =>
    let ch := (e &&& f) ^^^ ((2 ^ v.w - 1 - e) &&& g)
    let t1 := i + v.cap v.b1 e + ch + kw
    let maj := (a &&& b) ^^^ (a &&& c) ^^^ (b &&& c)
    [(t1 + v.cap v.b0 a + maj) % 2 ^ v.w, a, b, c, (d + t1) % 2 ^ v.w, e, f, g]
  | _ => h

/-- One block of sixteen words. -/
def Sha2.block (v : Sha2) (h : List Nat) (ws : List Nat) : List Nat :=
  let sched := (v.schedule (v.k.length - 16) ws.reverse).reverse
  let out := (v.k.zip sched).foldl (fun h p => v.round h (p.1 + p.2)) h
  (h.zip out).map fun p => (p.1 + p.2) % 2 ^ v.w

/-- The words of padded bytes, `n` words of them. -/
def Sha2.blocks (v : Sha2) : Nat → List Nat → List Byte → List Nat
  | 0, h, _ => h
  | n + 1, h, bs =>
    let size := v.w / 8
    let ws := (List.range 16).map fun i => ofBe ((bs.drop (i * size)).take size)
    Sha2.blocks v n (v.block h ws) (bs.drop (16 * size))

/-- The digest words of bytes from an initial value. -/
def Sha2.run (v : Sha2) (h : List Nat) (bs : List Byte) : List Nat :=
  let blk := v.w * 2
  let len := v.w / 4
  let pad := (blk - (bs.length + 1 + len) % blk) % blk
  let full := bs ++ [0x80] ++ List.replicate pad 0
    ++ (beBytes len (bs.length * 8)).map (BitVec.ofNat 8)
  v.blocks (full.length / blk) h full

/-- SHA-256 as 32 bytes. -/
def sha256 (bs : List Byte) : List Byte :=
  (sha2v256.run sha256H bs).flatMap fun x => (beBytes 4 x).map (BitVec.ofNat 8)

/-- SHA-384 as 48 bytes. -/
def sha384 (bs : List Byte) : List Byte :=
  ((sha2v512.run sha384H bs).take 6).flatMap fun x => (beBytes 8 x).map (BitVec.ofNat 8)

/-! ### ECDSA over P-384 (FIPS 186-4) -/

/-- The prime of P-384. -/
def p384P : Nat := 2 ^ 384 - 2 ^ 128 - 2 ^ 96 + 2 ^ 32 - 1

/-- The order of the base point. -/
def p384N : Nat :=
  0xFFFFFFFFFFFFFFFFFFFFFFFFFFFFFFFFFFFFFFFFFFFFFFFFC7634D81F4372DDF581A0DB248B0A77AECEC196ACCC52973

/-- The coefficient b of the curve. -/
def p384B : Nat :=
  0xB3312FA7E23EE7E4988E056BE3F82D19181D9C6EFE8141120314088F5013875AC656398D8A2ED19D2A85C8EDD3EC2AEF

/-- The base point. -/
def p384G : Nat × Nat :=
  (0xAA87CA22BE8B05378EB1C71EF320AD746E1D3B628BA79B9859F741E082542A385502F25DBF55296C3A545E3872760AB7,
   0x3617DE4A96262C6F5D9E98BF9292DC29F8F41DBD289A147CE9DA3113B5F0B8C00A60B1CE1D7E819D7A431D7C90EA0E5F)

/-- A power modulo `m`; `n` bounds the bits of the exponent. -/
def powMod (m : Nat) : Nat → Nat → Nat → Nat
  | 0, _, _ => 1
  | n + 1, b, e =>
    let r := powMod m n (b * b % m) (e / 2)
    if e % 2 = 1 then r * b % m else r

/-- The inverse modulo a prime. -/
def invMod (m a : Nat) : Nat := powMod m 400 (a % m) (m - 2)

/-- A point in projective coordinates (x, y, z) with x = X/Z², y = Y/Z³; z = 0 is the point at infinity. -/
abbrev Jac := Nat × Nat × Nat

/-- The difference modulo the prime. -/
def subP (a b : Nat) : Nat := (a + p384P - b % p384P) % p384P

/-- Twice a point of the curve, whose coefficient a is −3. -/
def dblJ (p : Jac) : Jac :=
  let (x, y, z) := p
  if z = 0 ∨ y = 0 then (1, 1, 0)
  else
    let zz := z * z % p384P
    let yy := y * y % p384P
    let s := 4 * x * yy % p384P
    let m := 3 * (subP x zz) * (x + zz) % p384P
    let x' := subP (m * m) (2 * s)
    (x', subP (m * subP s x') (8 * yy * yy), 2 * y * z % p384P)

/-- The sum of two points. -/
def addJ (p q : Jac) : Jac :=
  let (x1, y1, z1) := p
  let (x2, y2, z2) := q
  if z1 = 0 then q
  else if z2 = 0 then p
  else
    let a := z1 * z1 % p384P
    let b := z2 * z2 % p384P
    let u1 := x1 * b % p384P
    let u2 := x2 * a % p384P
    let s1 := y1 * b * z2 % p384P
    let s2 := y2 * a * z1 % p384P
    if u1 = u2 then (if s1 = s2 then dblJ p else (1, 1, 0))
    else
      let h := subP u2 u1
      let r := subP s2 s1
      let hh := h * h % p384P
      let hhh := h * hh % p384P
      let v := u1 * hh % p384P
      let x := subP (subP (r * r) hhh) (2 * v)
      (x, subP (r * subP v x) (s1 * hhh), h * z1 * z2 % p384P)

/-- A multiple of a point; `n` bounds the bits of the factor. -/
def mulJ : Nat → Nat → Jac → Jac
  | 0, _, _ => (1, 1, 0)
  | n + 1, k, p =>
    let r := mulJ n (k / 2) (dblJ p)
    if k % 2 = 1 then addJ p r else r

/-- A point lies on the curve. -/
def onP384 (x y : Nat) : Bool :=
  decide (x < p384P) && decide (y < p384P)
    && decide (y * y % p384P = subP (x * x * x + p384B) (3 * x))

/-- The signature (r, s) on a digest is that of the public key (x, y). -/
def ecdsaOk (x y r s : Nat) (digest : List Byte) : Bool :=
  if onP384 x y ∧ 0 < r ∧ r < p384N ∧ 0 < s ∧ s < p384N then
    let w := invMod p384N s
    let e := ofBe digest
    let (px, _, pz) := addJ (mulJ 400 (e * w % p384N) (p384G.1, p384G.2, 1)) (mulJ 400 (r * w % p384N) (x, y, 1))
    if pz = 0 then false
    else
      let zi := invMod p384P pz
      decide (px * zi % p384P * zi % p384P % p384N = r)
  else false

end Sys2Proof.Machine
end

