-- ==== Sys2Proof/Machine/Cal.lean ====
section
/-! DEFINITION. Calibration RAM and the corrections it holds (R374 to R381, R98). -/

namespace Sys2Proof.Machine

/-- A die's calibration RAM as a reader (R377). -/
def State.calRd (s : State) (d : Nat) : Rd := fun i => Mem.get ramByte (s.die d).cal i

/-- Offset of a channel's block in its die's calibration RAM (R377). -/
def calBlock (n : Nat) : Nat := 0x8000 + 0x200 * (n % 64)

/-- A signed value of `n` bytes at an offset. -/
def rdS (r : Rd) (off n : Nat) : Int := signed (8 * n) (rd r off n)

/-- A correction pair (R374): GAIN and OFFSET. -/
def pairAt (r : Rd) (off : Nat) : Nat × Int := (rd r off 4, rdS r (off + 4) 4)

/-- A pair within its limits (R380). -/
def pairOk (p : Nat × Int) : Bool :=
  decide (0x3C000000 ≤ p.1) && decide (p.1 ≤ 0x44000000) && decide (-1048576 ≤ p.2) && decide (p.2 ≤ 1048576)

/-- `n` pairs from an offset on are within their limits. -/
def pairsOk (r : Rd) (off n : Nat) : Bool := (List.range n).all fun i => pairOk (pairAt r (off + 8 * i))

/-- The CRC of a block of `n` bytes whose last four hold it (R378, R379). -/
def calCrcOk (r : Rd) (off n : Nat) : Bool :=
  rd r (off + n - 4) 4 == crc32 ((List.range (n - 4)).map fun i => r (off + i))

/-- The three temperatures of the die area (R378). -/
def calTemps (r : Rd) : Int × Int × Int := (rdS r 0x08 2, rdS r 0x0A 2, rdS r 0x0C 2)

/-- A die's area is valid (R380). -/
def dieAreaOk (r : Rd) (d : Nat) (serial : BitVec 64) : Bool :=
  let (ta, tb, tc) := calTemps r
  let ofs (o : Nat) : Bool := decide (-160 ≤ rdS r o 2) && decide (rdS r o 2 ≤ 160)
  rd r 0 4 == 0x4443584C && rd r 4 2 == 1 && rd r 6 1 == d && rd r 0x68 8 == serial.toNat
    && decide (ta < tb) && decide (tb < tc) && decide (-640 ≤ ta) && decide (tc ≤ 2000)
    && pairsOk r 0x10 8 && ofs 0x50 && ofs 0x52
    && rdZero r 7 1 && rdZero r 0x0E 2 && rdZero r 0x70 140
    && (d == 0 || rdZero r 0x58 8)
    && calCrcOk r 0 0x100

/-- The limits, reserved fields and identity of a channel block (R380); `b` is its offset, `n` its channel. -/
def blockOk (r : Rd) (b n : Nat) : Bool :=
  let small (off count lim : Nat) : Bool :=
    (List.range count).all fun i => decide ((rdS r (b + off + 2 * i) 2).natAbs ≤ lim)
  rd r b 2 == n && rd r (b + 2) 1 == 1 && rd r (b + 6) 2 == 0xFFF
    && pairsOk r (b + 0x008) 33 && small 0x110 2 512 && small 0x120 9 1310 && small 0x140 64 2048
    && rd r (b + 0x140) 2 == 0
    && rdZero r (b + 3) 1 && rdZero r (b + 0x114) 12 && rdZero r (b + 0x132) 14 && rdZero r (b + 0x1C0) 60
    && calCrcOk r b 0x200

/-- DIE_VALID of a die (R394). -/
def State.dieAreaValid (s : State) (d : Nat) : Bool := dieAreaOk (s.calRd d) d s.otp.serial

/-- CAL_VALID of channel `n` (R380). -/
def State.calValid (s : State) (n : Nat) : Bool :=
  s.dieAreaValid (n / 64) && blockOk (s.calRd (n / 64)) (calBlock n) n

/-- CAL_VALID of the 64 channels of a die. -/
def State.calValidMask (s : State) (d : Nat) : BitVec 64 :=
  if s.dieAreaValid d then
    maskOf 64 ((List.range 64).filter fun i => blockOk (s.calRd d) (0x8000 + 0x200 * i) (d * 64 + i))
  else 0

/-! ### Corrected values -/

/-- A rational rounded to the nearest integer, ties away from zero (R374). -/
def roundAway (x : Rat) : Int := if x < 0 then -((-x + 1 / 2).floor) else (x + 1 / 2).floor

/-- A value held to 0 to `top`. -/
def limit (top : Nat) (x : Int) : Nat := (max 0 (min x top)).toNat

/-- A requested code or raw value through a pair, before rounding (R374). -/
def throughPair (q : Int) (p : Nat × Int) : Rat := (q : Rat) * p.1 / 2 ^ 30 + (p.2 : Rat) / 64

/-- The pair at an offset of a channel's block, the identity where CAL_VALID is clear (R376). -/
def State.pairOf (s : State) (n off : Nat) : Nat × Int :=
  if s.calValid n then pairAt (s.calRd (n / 64)) (calBlock n + off) else (0x40000000, 0)

/-- A corrected SAR conversion (R374, R375). -/
def State.sarCode (s : State) (n : Nat) (current : Bool) (range raw : Nat) : Nat :=
  limit 262143 (roundAway (throughPair raw (s.pairOf n (if current then 0x0B0 + 8 * range else 0x0A8))))

/-- The corrected force DAC code of channel `n` (R374, R375). -/
def State.forceDac (s : State) (n : Nat) (mode : Mode) (range code : Nat) : Nat :=
  let a0 := throughPair code (s.pairOf n (if mode = .fi then 0x010 + 8 * range else 0x008))
  let j := limit 262143 (roundAway a0) / 4096
  let seg : Int := if s.calValid n then rdS (s.calRd (n / 64)) (calBlock n + 0x140 + 2 * j) 2 else 0
  limit 262143 (roundAway (a0 + (seg : Rat) / 64))

/-- The corrected level DAC code `i` of channel `n` (R374, R375). -/
def State.levelDac (s : State) (n : Nat) (mode : Mode) (range i code : Nat) : Nat :=
  let off := if i ≥ 5 ∧ mode = .fv then 0x078 + 8 * range else 0x040 + 8 * i
  limit 65535 (roundAway (throughPair code (s.pairOf n off)))

/-- What the DAC of KIND `kind` of channel `n` puts out for its code under the coefficients of now (R43, R374, R375): 0 the
force DAC, then the seven levels; the comparator offsets count on VOH and VOL. -/
def State.anaNow (s : State) (n kind : Nat) : Nat :=
  let c := s.chan n
  let mode := c.st.mode
  let range := c.st.range.toNat
  if kind = 0 then s.forceDac n mode range c.dac.force.toNat
  else
    let v := s.levelDac n mode range (kind - 1) (c.dac.levels.getD (kind - 1) 0).toNat
    let ofs (off : Nat) : Int := if s.calValid n then rdS (s.calRd (n / 64)) (calBlock n + off) 2 else 0
    if kind = 4 then limit 65535 (v + ofs 0x110) else if kind = 5 then limit 65535 (v + ofs 0x112) else v

/-- What the DAC of KIND `kind` of channel `n` puts out: correction happens at the exit of the code queue, so an output that
was loaded before the coefficients changed stands until its next load (R376, R388). -/
def State.anaOut (s : State) (n kind : Nat) : Nat := ((s.chan n).anaHeld.getD kind none).getD (s.anaNow n kind)

/-- The coefficients of die `d` are about to change: the outputs of its DACs stand (R376, R388). -/
def State.holdAna (s : State) (d : Nat) : State :=
  s.updChans (fun n _ => n / 64 == d) fun n c => { c with anaHeld := (List.range 8).map fun i => some (s.anaOut n i) }

/-- A corrected reference DAC code (R374 to R376). -/
def State.refDacCode (s : State) (d j code : Nat) : Nat :=
  let p := if s.dieAreaValid d then pairAt (s.calRd d) (0x10 + 8 * j) else (0x40000000, 0)
  limit 65535 (roundAway (throughPair code p))

/-- A thermal reading with its offset (R374, R378): sensor 0 junction, 1 external. -/
def State.thermalOffset (s : State) (d sensor : Nat) : Int :=
  if s.dieAreaValid d then rdS (s.calRd d) (0x50 + 2 * sensor) 2 else 0

/-- S of one kind of event (0 D1, 1 D2, 2 STROBE) on channel `n` at a junction temperature (R98). -/
def State.deskewOf (s : State) (n kind : Nat) (tj : Int) : Int :=
  if ¬ s.calValid n then 0
  else
    let r := s.calRd (n / 64)
    let (ta, tb, tc) := calTemps r
    let v (i : Nat) : Int := rdS r (calBlock n + 0x120 + 6 * kind + 2 * i) 2
    let line (t0 t1 v0 v1 : Int) : Int :=
      roundAway ((v0 : Rat) + ((v1 - v0) * (tj - t0) : Int) / ((t1 - t0 : Int) : Rat))
    if tj ≤ ta then v 0 else if tj ≤ tb then line ta tb (v 0) (v 1)
    else if tj ≤ tc then line tb tc (v 1) (v 2) else v 2

/-- The deskew of the eight lanes of a cluster: S of D1, D2 and STROBE of lane `l` at place `l` (R98). -/
def State.deskewTable (s : State) (k : Nat) : List (List Int) :=
  let tj : Int := (s.die (dieOfCluster k)).deskewTj.toInt
  (List.range 8).map fun l => (List.range 3).map fun kind => s.deskewOf (chanOf k l) kind tj

end Sys2Proof.Machine
end

