-- ==== Sys2Proof/Machine/Reduce.lean ====
section
/-! DEFINITION. The reduction unit (R173 to R188): the 24 operators, the evaluation of samples and close passes, the
condition flags, and the result records. -/

namespace Sys2Proof.Machine

/-! ### Values -/

/-- An INT value (R179). -/
def Val.int (i : Int) : Val := { isF := false, valid := true, i, f := 0 }

/-- An F32 value; none is a result that is not valid (R180). -/
def Val.f32 (f : Option (BitVec 32)) : Val := { isF := true, valid := f.isSome, i := 0, f := f.getD 0 }

/-- An output that is not valid. -/
def Val.bad (isF : Bool) : Val := { isF, valid := false, i := 0, f := 0 }

/-- A boolean output (R181). -/
def Val.bool (b : Bool) : Val := Val.int (bit b)

/-- A boolean operand: nonzero, and false where it is not valid (R180, R181). -/
def Val.true? (v : Val) : Bool := v.valid && v.i != 0

/-- A result that would be NaN or infinite is not valid (R180). -/
def Val.finite (v : Val) : Val := if v.isF then { v with valid := v.valid && (f32Val v.f).isSome } else v

/-- The largest magnitude of INT arithmetic (R180). -/
abbrev intMax : Int := 2 ^ 63 - 1

/-- An INT result held at the limit, with SAT (R180). -/
def sat64 (i : Int) : Int × Bool :=
  if i > intMax then (intMax, true) else if i < -intMax then (-intMax, true) else (i, false)

/-- A value as binary32 (R180). -/
def Val.toF (v : Val) : Option (BitVec 32) := if v.isF then some v.f else f32OfInt v.i

/-- A value on the extended line, none for NaN; an INT beside an F32 is converted first (R180). -/
def Val.ext (v : Val) (asF : Bool) : Option (Int × Rat) :=
  if v.isF then f32Ext v.f
  else if asF then (f32OfInt v.i).bind f32Ext
  else some (0, (v.i : Rat))

/-- A comparison of two valid values by code 0 to 5 (R180): with NaN, only NE holds. -/
def cmpVals (code : Nat) (a b : Val) : Bool :=
  let f := a.isF || b.isF
  match a.ext f, b.ext f with
  | some x, some y =>
    match code with
    | 0 => extLt x y
    | 1 => !extLt y x
    | 2 => extLt y x
    | 3 => !extLt x y
    | 4 => x == y
    | _ => x != y
  | _, _ => code == 5

/-! ### Operands -/

/-- Operators of R181 by code. -/
abbrev opAt : Nat := 0x00
abbrev opSum : Nat := 0x01
abbrev opMean : Nat := 0x02
abbrev opMin : Nat := 0x03
abbrev opMax : Nat := 0x04
abbrev opRms : Nat := 0x05
abbrev opCountIf : Nat := 0x06
abbrev opHist : Nat := 0x07
abbrev opSlope : Nat := 0x08
abbrev opDeltaAt : Nat := 0x09
abbrev opRatio : Nat := 0x0A
abbrev opIntegrate : Nat := 0x0B
abbrev opCompare : Nat := 0x0C
abbrev opHoldTrue : Nat := 0x0D
abbrev opBin : Nat := 0x0E
abbrev opScale : Nat := 0x0F
abbrev opClamp : Nat := 0x10
abbrev opAbs : Nat := 0x11
abbrev opAdd : Nat := 0x12
abbrev opSub : Nat := 0x13
abbrev opFirst : Nat := 0x14
abbrev opLast : Nat := 0x15
abbrev opLogic : Nat := 0x16
abbrev opStore : Nat := 0x17

/-- Operators that leave the type of a constant operand to the other operand (R179). COUNT_IF compares as COMPARE
does. -/
def constFollows (op : Nat) : Bool :=
  decide (op ∈ [opCompare, opAdd, opSub, opRatio, opClamp, opAbs, opFirst, opLast, opCountIf])

/-- A record field reads as F32 (R187): all but CAPACITY and BIN. -/
def fieldIsF (f : Nat) : Bool := decide (f ≠ 0) && decide (f ≠ 8)

/-- The type of an operand that is no constant: X is INT, a step has its output's type, a field its own. -/
def operandIsF (types : List Bool) (src idx : Nat) : Bool :=
  match src with
  | 1 => types.getD idx false
  | 3 => fieldIsF idx
  | _ => false

/-- The type of operand A (R179). -/
def Step.aIsF (st : Step) (types : List Bool) : Bool :=
  if st.aFrom = 2 then
    if st.op = opStore then fieldIsF st.dest
    else constFollows st.op && !st.bNone && st.bFrom != 2 && operandIsF types st.bFrom st.bIdx
  else operandIsF types st.aFrom st.aIdx

/-- The type of operand B (R179). -/
def Step.bIsF (st : Step) (types : List Bool) : Bool :=
  if st.bFrom = 2 then
    constFollows st.op && st.aFrom != 2 && operandIsF types st.aFrom st.aIdx
  else operandIsF types st.bFrom st.bIdx

/-- The type of a step's output (R181). -/
def Step.outIsF (st : Step) (types : List Bool) : Bool :=
  if st.op ∈ [opMean, opRms, opSlope, opRatio, opScale] then true
  else if st.op ∈ [opAt, opDeltaAt, opClamp, opAbs, opFirst, opLast] then st.aIsF types
  else if st.op ∈ [opAdd, opSub] then st.aIsF types || st.bIsF types
  else false

/-- The output types of a recipe's steps, in index order. -/
def Recipe.types (r : Recipe) : List Bool := r.live.foldl (fun ts st => ts ++ [st.outIsF ts]) []

/-- A constant of a recipe read as INT or F32 (R179). -/
def Recipe.constVal (r : Recipe) (j : Nat) (isF : Bool) : Val :=
  let v := r.consts.getD j 0
  if isF then Val.f32 (some (BitVec.ofNat 32 v)) else Val.int (signed 64 v)

/-- An INT constant. -/
def Recipe.constInt (r : Recipe) (j : Nat) : Int := signed 64 (r.consts.getD j 0)

/-! ### Result records -/

/-- A field of a record as an operand (R187). -/
def ResRec.field (r : ResRec) (f : Nat) : Val :=
  let ok := hasBit r.stored f
  if f = 0 then { isF := false, valid := ok, i := r.capacity, f := 0 }
  else if f = 8 then { isF := false, valid := ok, i := r.bin, f := 0 }
  else { isF := true, valid := ok, i := 0, f := r.f.getD (f - 1) 0 }

/-- A record at the run start (R186). -/
def ResRec.init (n : Nat) (startTb : Tb) : ResRec :=
  { ch := n, bin := 0xFF, final := false, aborted := false, stretched := false, lost := false, stored := 0, exc := 0,
    startTb, closeTb := 0, capacity := 0, f := List.replicate 7 0 }

/-- Exception bits of a record (R186). -/
abbrev excSat : Nat := 0
abbrev excInvalid : Nat := 1
abbrev excDiv0 : Nat := 2
abbrev excOvr : Nat := 3
abbrev excClamp : Nat := 4
abbrev excSettle : Nat := 5
abbrev excEmpty : Nat := 6

/-- Set an exception bit where `b` holds. -/
def ResRec.flag (r : ResRec) (x : Nat) (b : Bool) : ResRec := if b then { r with exc := setBit r.exc x } else r

/-- A value rounded to a whole number, ties to even; an infinity is beyond every limit, and NaN has none. -/
def Val.whole (v : Val) : Option Int :=
  if v.isF then (f32Ext v.f).map fun x => if x.1 = 0 then roundEvenInt x.2 else x.1 * 2 ^ 64 else some v.i

/-- Store a valid value into a field (R187). What NaN gives in CAPACITY is open (log entry 78). -/
def ResRec.store (r : ResRec) (dest : Nat) (v : Val) (closeTb : Tb) : ResRec :=
  let r := { r with stored := setBit r.stored dest, closeTb := closeTb }
  if dest = 0 then { r with capacity := (sat64 (v.whole.getD (Config.nanInteger v.f))).1 }
  else if dest = 8 then
    let w := v.whole.getD 255
    { r with bin := if 0 ≤ w ∧ w ≤ 254 then w.toNat else 255 }
  else { r with f := r.f.set (dest - 1) (v.toF.getD 0) }

/-- The 64 bytes of a record (R186). -/
def ResRec.bytes (r : ResRec) : List Byte :=
  leBytes 2 r.ch ++ leBytes 1 r.bin
    ++ leBytes 1 (bit r.final + 2 * bit r.aborted + 4 * bit r.stretched + 8 * bit r.lost)
    ++ leBytes 2 r.stored.toNat ++ leBytes 2 r.exc.toNat ++ leBytes 8 r.startTb ++ leBytes 8 r.closeTb
    ++ leBytes 8 (twos 64 r.capacity) ++ r.f.flatMap (fun v => leBytes 4 v.toNat) ++ leBytes 4 0

/-! ### Steps -/

/-- An aggregate before its first sample. -/
def Agg.init : Agg :=
  { n := 0, sum := 0, sumSq := 0, sumJ := 0, sumJJ := 0, sumJA := 0, v1 := Val.bad false, v2 := Val.bad false,
    from_ := none, hist := List.replicate 64 0 }

/-- What an evaluation reads: the recipe, its step types, the outputs of earlier steps, X, the record, the taken sample's
index and stamp (none in a close pass), and the sample interval in ns. -/
structure EvalCtx where
  r      : Recipe
  types  : List Bool
  outs   : List Val
  x      : Val
  record : ResRec
  sample : Option (Nat × Tb)
  ival   : Nat

/-- An operand's value (R179). -/
def EvalCtx.operand (c : EvalCtx) (src idx : Nat) (isF : Bool) : Val :=
  match src with
  | 0 => c.x
  | 1 => c.outs.getD idx (Val.bad (c.types.getD idx false))
  | 2 => c.r.constVal idx isF
  | _ => c.record.field idx

/-- What a step's evaluation gives: its output, its aggregate, and whether it set SAT or DIV0. -/
structure StepOut where
  out  : Val
  agg  : Agg
  sat  : Bool := false
  div0 : Bool := false

/-- An operand of RMS or SLOPE held to magnitude 2^31 - 1, with SAT (R180). -/
def clip31 (a : Int) : Int × Bool :=
  if a ≥ 2 ^ 31 then (2 ^ 31 - 1, true) else if a ≤ -(2 ^ 31) then (-(2 ^ 31 - 1), true) else (a, false)

/-- The bin of HIST (R181). -/
def histBin (a lo hi : Int) : Nat := (max 0 (min 63 ((a - lo) * 64 / (hi - lo)))).toNat

/-- The index of the fullest bin, the lowest on a tie. -/
def fullest (h : List Nat) : Nat := (h.idxOf? (maxOf' h)).getD 0
where
  /-- The largest count. -/
  maxOf' (xs : List Nat) : Nat := xs.foldl max 0

/-- Whether the comparison of COMPARE or COUNT_IF holds, for valid operands (R180). -/
def EvalCtx.holds (c : EvalCtx) (st : Step) (a b : Val) : Bool :=
  if st.cmp < 6 then cmpVals st.cmp a b
  else
    let lo := c.r.constVal st.c a.isF
    let hi := c.r.constVal (st.c + 1) a.isF
    let inside := cmpVals 1 lo a && cmpVals 1 a hi
    if st.cmp = 6 then inside else !inside

/-- A sum or difference of two valid values (R180, R181). -/
def addVals (sub : Bool) (a b : Val) : Val × Bool :=
  if a.isF || b.isF then
    match a.toF, b.toF with
    | some x, some y => (Val.f32 (if sub then f32Sub x y else f32Add x y), false)
    | _, _ => (Val.bad true, false)
  else
    let (i, s) := sat64 (if sub then a.i - b.i else a.i + b.i)
    (Val.int i, s)

/-- Fold a taken sample into an aggregating step: sample index `j` at stamp `stamp` (R180, R181). -/
def EvalCtx.fold (c : EvalCtx) (st : Step) (g : Agg) (a b : Val) (j : Nat) (stamp : Tb) : Agg × Bool :=
  let op := st.op
  if op = opAt then
    if (j : Int) = c.r.constInt st.c then ({ g with v1 := a, n := 1 }, false) else (g, false)
  else if op = opDeltaAt then
    let g := if (j : Int) = c.r.constInt st.c then { g with v1 := a } else g
    let g := if (j : Int) = c.r.constInt (st.c + 1) then { g with v2 := a } else g
    (g, false)
  else if op = opHoldTrue then
    if a.true? then ({ g with from_ := some (g.from_.getD stamp) }, false) else ({ g with from_ := none }, false)
  else if op = opFirst ∨ op = opLast then
    let takes := st.bNone || b.true?
    if a.valid && takes && (op == opLast || g.n == 0) then ({ g with v1 := a, n := g.n + 1 }, false) else (g, false)
  else if !a.valid then (g, false)
  else if op = opSum ∨ op = opMean then
    let (v, s) := sat64 (g.sum + a.i)
    ({ g with sum := v, n := g.n + 1 }, s)
  else if op = opMin then ({ g with v1 := if g.n = 0 ∨ a.i < g.v1.i then a else g.v1, n := g.n + 1 }, false)
  else if op = opMax then ({ g with v1 := if g.n = 0 ∨ g.v1.i < a.i then a else g.v1, n := g.n + 1 }, false)
  else if op = opRms then
    let (v, s) := clip31 a.i
    let q := g.sumSq + (v * v).toNat
    ({ g with sumSq := satTo 64 q, n := g.n + 1 }, s || decide (q ≥ 2 ^ 64))
  else if op = opCountIf then
    if st.cmp < 6 ∧ ¬ b.valid then (g, false)
    else ({ g with sum := g.sum + (bit (c.holds st a b) : Nat), n := g.n + 1 }, false)
  else if op = opHist then
    let k := histBin a.i (c.r.constInt st.c) (c.r.constInt (st.c + 1))
    ({ g with hist := g.hist.modify k inc32, n := g.n + 1 }, false)
  else if op = opSlope then
    let (v, s) := clip31 a.i
    ({ g with n := g.n + 1, sum := g.sum + v, sumJ := g.sumJ + j, sumJJ := g.sumJJ + j * j,
              sumJA := g.sumJA + (j : Int) * v }, s)
  else if op = opIntegrate then
    let w := if c.r.charge && st.aFrom == 0 then a.i else a.i * c.ival
    let (v, s) := sat64 (g.sum + w)
    ({ g with sum := v, n := g.n + 1 }, s)
  else (g, false)

/-- The output of a step from its operands and aggregate (R181). `taken` is the number of samples taken, `stamp` the
present sample's stamp or, in a close pass, none. -/
def EvalCtx.output (c : EvalCtx) (st : Step) (g : Agg) (a b : Val) (taken : Nat) : Val × Bool × Bool :=
  let op := st.op
  let isF := st.outIsF c.types
  let plain (v : Val) : Val × Bool × Bool := (v, false, false)
  if op = opAt then plain (if g.n > 0 then g.v1 else Val.bad isF)
  else if op = opSum ∨ op = opIntegrate ∨ op = opCountIf then plain (if g.n = 0 then Val.bad false else Val.int g.sum)
  else if op = opMean then
    plain (if g.n = 0 then Val.bad true else Val.f32 (f32Round false ((g.sum : Rat) / (g.n : Rat))))
  else if op = opMin ∨ op = opMax then plain (if g.n = 0 then Val.bad false else g.v1)
  else if op = opRms then
    plain (if g.n = 0 then Val.bad true else Val.f32 (f32Sqrt ((g.sumSq : Rat) / (g.n : Rat))))
  else if op = opHist then plain (if g.n = 0 then Val.bad false else Val.int (fullest g.hist))
  else if op = opSlope then
    let n : Int := g.n
    let den : Int := n * g.sumJJ - g.sumJ * g.sumJ
    plain (if g.n < 2 ∨ taken > 65536 ∨ den = 0 ∨ c.ival = 0 then Val.bad true
      else Val.f32 (f32Round false
        ((n * g.sumJA - g.sumJ * g.sum : Int) * 1000000000 / ((den * c.ival : Int) : Rat))))
  else if op = opDeltaAt then
    if (taken : Int) > max (c.r.constInt st.c) (c.r.constInt (st.c + 1)) && g.v1.valid && g.v2.valid then
      let (v, s) := addVals true g.v2 g.v1
      (v, s, false)
    else plain (Val.bad isF)
  else if op = opRatio then
    if !(a.valid && b.valid) then plain (Val.bad true)
    else if b.ext false = some (0, 0) then (Val.bad true, false, true)
    else match a.toF, b.toF with
      | some x, some y => plain (Val.f32 (f32Div x y))
      | _, _ => plain (Val.bad true)
  else if op = opCompare then
    plain (Val.bool (a.valid && (b.valid || decide (st.cmp ≥ 6)) && c.holds st a b))
  else if op = opHoldTrue then
    plain (Val.bool (match g.from_, c.sample with
      | some s1, some (_, s) => decide (((s : Int) - s1) ≥ c.r.constInt st.c)
      | _, _ => false))
  else if op = opBin then
    let n := ((List.range st.m).filter fun i => cmpVals 1 (c.r.constVal (st.c + i) a.isF) a).length
    let base : Int := if st.bNone then 0 else b.i * (st.m + 1)
    let v := base + n
    plain (Val.int (if !a.valid || (!st.bNone && (!b.valid || b.i == 255)) || decide (v > 254) then 255 else v))
  else if op = opScale then
    if !a.valid then plain (Val.bad true)
    else
      let (d, s) := addVals true a (if a.isF then Val.f32 (f32OfInt (c.r.constInt (st.c + 1)))
        else Val.int (c.r.constInt (st.c + 1)))
      (Val.f32 (d.toF.bind fun y => f32Mul (BitVec.ofNat 32 (c.r.consts.getD st.c 0)) y), s, false)
  else if op = opClamp then
    if !a.valid then plain (Val.bad isF)
    else
      let lo := c.r.constVal st.c a.isF
      let hi := c.r.constVal (st.c + 1) a.isF
      plain (if cmpVals 0 a lo then lo else if cmpVals 0 hi a then hi else a)
  else if op = opAbs then
    if !a.valid then plain (Val.bad isF)
    else if a.isF then plain { a with f := a.f &&& 0x7FFFFFFF }
    else
      let (v, s) := sat64 a.i.natAbs
      (Val.int v, s, false)
  else if op = opAdd ∨ op = opSub then
    if a.valid && b.valid then
      let (v, s) := addVals (op == opSub) a b
      (v, s, false)
    else plain (Val.bad isF)
  else if op = opFirst ∨ op = opLast then plain (if g.n = 0 then Val.bad isF else g.v1)
  else if op = opLogic then
    plain (Val.bool (match st.cmp with
      | 0 => a.true? && b.true?
      | 1 => a.true? || b.true?
      | 2 => a.true? != b.true?
      | _ => !a.true?))
  else plain (Val.bad false)

/-- Evaluate one step: an aggregating operator first folds in the sample, then the output is computed (R178). In a close
pass HOLD_TRUE_FOR keeps its output. -/
def EvalCtx.step (c : EvalCtx) (st : Step) (g : Agg) (prev : Val) (taken : Nat) : StepOut :=
  let a := c.operand st.aFrom st.aIdx (st.aIsF c.types)
  let b := if st.bNone then Val.bad false else c.operand st.bFrom st.bIdx (st.bIsF c.types)
  let (g, s1) := match c.sample with
    | some (j, stamp) => c.fold st g a b j stamp
    | none => (g, false)
  if st.op = opHoldTrue ∧ c.sample.isNone then { out := prev, agg := g }
  else
    let (v, s2, d) := c.output st g a b taken
    { out := v.finite, agg := g, sat := s1 || s2, div0 := d }

/-- What an evaluation of an instance gathers step by step: the outputs and aggregates so far, the record as last stored, and
the exceptions. -/
structure Evaled where
  outs    : List Val := []
  aggs    : List Agg := []
  record  : ResRec
  sat     : Bool := false
  div0    : Bool := false
  invalid : Bool := false

/-- A STORE of a close pass: an operand that is not valid is not written (R181, R187). -/
def Evaled.store (v : Evaled) (dest : Nat) (a : Val) (closeTb : Tb) : Evaled :=
  if a.valid then { v with record := v.record.store dest a closeTb }
  else { v with record := v.record.flag excInvalid true, invalid := true }

/-- Evaluate every step of an instance in index order (R178): with a sample, or in its close pass, where STORE steps act and a
later step's FIELD operand sees what they stored (R179). -/
def evalSteps (r : Recipe) (record : ResRec) (sample : Option (Nat × Tb)) (ival : Nat) (x : Instance) : Evaled :=
  let types := r.types
  r.live.zipIdx.foldl (fun v p =>
    let c : EvalCtx := { r, types, outs := v.outs, x := x.x, record := v.record, sample, ival }
    let o := c.step p.1 (x.aggs.getD p.2 Agg.init) (x.outs.getD p.2 (Val.bad false)) x.taken
    let v := if p.1.op = opStore ∧ sample.isNone then
        v.store p.1.dest (c.operand p.1.aFrom p.1.aIdx (p.1.aIsF types)) (x.closeAt.getD 0) else v
    { v with outs := v.outs ++ [o.out], aggs := v.aggs ++ [o.agg], sat := v.sat || o.sat, div0 := v.div0 || o.div0 })
    { record }

/-! ### The unit of a cluster -/

/-- The recipe store of cluster `k` as a reader (R173). -/
def State.recipeRd (s : State) (k : Nat) : Rd := fun i => Mem.get ramByte (s.cluster k).rstore i

/-- Recipe `i` of cluster `k`. -/
def State.recipe (s : State) (k i : Nat) : Recipe := recipeAt (s.recipeRd k) i

/-- The record of channel `n` in the running run of its group. -/
def State.resRec (s : State) (g n : Nat) : ResRec :=
  ((s.results.find? fun x => x.group == g).bind fun x => x.recs.find? fun r => r.ch == n).getD (ResRec.init n 0)

/-- Change the record of channel `n` in group `g`. -/
def State.updRec (s : State) (g n : Nat) (f : ResRec → ResRec) : State :=
  { s with results := s.results.map fun x =>
      if x.group == g then { x with recs := x.recs.map fun r => if r.ch == n then f r else r } else x }

/-- The sample interval of a recipe on a lane in ns: N x 1,000 for SAR, 100,000 for CHARGE (R157, R181). -/
def State.ivalOf (s : State) (k l : Nat) (charge : Bool) : Nat :=
  if charge then 100000 else ((s.chan (chanOf k l)).meas.avgM1.toNat + 1) * 1000

/-- A new instance of a recipe on a lane (R174). -/
def Instance.init (r : Recipe) (l : Nat) : Instance :=
  { lane := l, outs := r.types.map Val.bad, aggs := List.replicate r.nSteps Agg.init, taken := 0, x := Val.bad false,
    lost := false, closeAt := none, closed := false }

/-- A sample as the reduction unit sees it: lane, input, stamp, value, and its OVR, SETTLE, CLAMP and OPEN or PARTIAL
bits. -/
structure RedSample where
  lane   : Nat
  charge : Bool
  stamp  : Tb
  value  : Int
  ovr    : Bool
  settle : Bool
  clamp  : Bool
  open_  : Bool
  deriving DecidableEq, Repr

/-- Set the sticky exceptions of a cluster's unit (R192). -/
def Red.note (u : Red) (sat div0 lost empty invalid : Bool) : Red :=
  { u with sat := u.sat || sat, div0 := u.div0 || div0, lost := u.lost || lost, empty := u.empty || empty,
           invalid := u.invalid || invalid }

/-- Replace instance `x` of the window at place `wi` in cluster `k`. -/
def State.setInst (s : State) (k wi : Nat) (x : Instance) : State :=
  s.updRed k fun u => { u with windows := u.windows.modify wi fun w =>
    { w with insts := w.insts.map fun y => if y.lane = x.lane then x else y } }

/-- In END_MODE COUNT the window closes once every instance that is not LOST has closed (R175): those that are LOST close with it. -/
def RWindow.countDone (w : RWindow) (t : Tb) : RWindow :=
  if w.isOpen && w.insts.all (fun x => x.closed || x.lost) then
    { w with isOpen := false, insts := w.insts.map fun x => { x with closeAt := some (x.closeAt.getD t) } }
  else w

/-- One instance meets a sample of its lane (R175 to R178). -/
def State.feedInst (s : State) (k g wi : Nat) (w : RWindow) (x : Instance) (sm : RedSample) : State :=
  let r := s.recipe k w.recipe
  let inWindow := decide (w.start ≤ sm.stamp) && (match x.closeAt with | some c => decide (sm.stamp < c) | none => true)
  let n := chanOf k x.lane
  if x.lost || x.closed || !inWindow then s
  else if sm.open_ then
    (s.setInst k wi { x with lost := true }).updRed k fun u =>
      { u.note false false true false false with
        windows := if r.endMode = 2 then u.windows.modify wi fun w => w.countDone sm.stamp else u.windows }
  else if (r.filter % 2 == 1 && sm.settle) || (r.filter / 2 % 2 == 1 && sm.ovr) then s
  else
    let ival := s.ivalOf k x.lane sm.charge
    let j := x.taken
    let x1 := { x with taken := x.taken + 1, x := Val.int sm.value }
    let v := evalSteps r (s.resRec g n) (some (j, sm.stamp)) ival x1
    let x2 := { x1 with outs := v.outs, aggs := v.aggs }
    let x3 := if r.endMode = 2 ∧ x2.taken = r.count then { x2 with closeAt := some (sm.stamp + ival) } else x2
    let s := s.setInst k wi x3
    let s := s.updRec g n fun e =>
      ((((e.flag excSat v.sat).flag excDiv0 v.div0).flag excOvr sm.ovr).flag excClamp sm.clamp).flag excSettle sm.settle
    s.updRed k fun u => u.note v.sat v.div0 false false false

/-- The COMPARE steps that write flags, with their recipe index, step index, flag and combine mode (R184). -/
def State.flagWriters (s : State) (k i : Nat) : List (Nat × Nat × Bool) :=
  ((s.recipe k i).live.zipIdx.filter fun p => p.1.op == opCompare && p.1.flagEn).map fun p =>
    (p.2, p.1.flag, p.1.all)

/-- Give a flag a value; a change records the present TB (R184). -/
def Red.setFlag (u : Red) (f : Nat) (v : Bool) (tb : Tb) : Red :=
  if hasBit u.flags f = v then u
  else { u with flags := if v then setBit u.flags f else clearBit u.flags f, flagTb := u.flagTb.set f tb }

/-- A flag's value from the outputs of its step over the instances that are not LOST (R184). -/
def flagValue (insts : List Instance) (step : Nat) (all : Bool) : Bool :=
  let live := insts.filter fun x => !x.lost
  let on (x : Instance) : Bool := (x.outs.getD step (Val.bad false)).true?
  if all then !live.isEmpty && live.all on else live.any on

/-- The end of a batch: the flags of open windows are written, and the batch's time is recorded (R178, R184). The time
it took is a free value of at most 400 ns (R183). -/
def State.batchEnd (s : State) (k : Nat) : State :=
  let open_ := (s.red k).windows.filter fun w => w.isOpen
  let s := open_.foldl (fun s w =>
    (s.flagWriters k w.recipe).foldl (fun s p =>
      s.updRed k fun u => u.setFlag p.2.1 (flagValue w.insts p.1 p.2.2) s.tb) s) s
  let (v, s) := s.takeFree
  s.updRed k fun u => { u with latMax := max u.latMax (v.toNat % 401) }

/-- Open the window of recipe `i` that waits for its open TB: instances are formed and its flags are cleared (R174,
R175, R184). -/
def State.openWindow (s : State) (k i : Nat) : State :=
  let u := s.red k
  match u.windows.findIdx? fun w => w.recipe == i && !w.isOpen && w.insts.isEmpty with
  | none => s
  | some wi =>
    let r := s.recipe k i
    let s := s.updRed k fun u => { u with windows := u.windows.modify wi fun w =>
      { w with isOpen := true, insts := (bitsOf r.laneMask).map (Instance.init r) } }
    (s.flagWriters k i).foldl (fun s p => s.updRed k fun u => u.setFlag p.2.1 false s.tb) s

/-- Close the windows for which `p` holds at TB `t`: instances without a close TB take it; a window that has not opened
is dropped (R175). -/
def State.closeWindows (s : State) (k : Nat) (p : RWindow → Bool) (t : Tb) : State :=
  s.updRed k fun u =>
    { u with
      windows := (u.windows.filter fun w => !(p w && !w.isOpen && w.insts.isEmpty)).map fun w =>
        if p w && w.isOpen then
          { w with isOpen := false, insts := w.insts.map fun x => { x with closeAt := some (x.closeAt.getD t) } }
        else w }

/-- Start recipe `i` of cluster `k` at a segment start: its window opens at σ_TB + SKIP (R175), and the window that an earlier
start has left open closes (R176); one that has not opened yet is replaced (log entry 77). -/
def State.startRecipe (s : State) (k i : Nat) (sigmaTb : Tb) : State :=
  (s.closeWindows k (fun w => w.recipe == i) sigmaTb).updRed k fun u => { u with windows := u.windows ++
    [{ recipe := i, isOpen := false, start := sigmaTb + (s.recipe k i).skip, insts := [] }] }

/-- What a LOST instance stores at its close pass: 255 into BIN, and LOST (R177). -/
def ResRec.lose (e : ResRec) (closeTb : Tb) : ResRec :=
  { e with bin := 255, stored := setBit e.stored 8, closeTb := closeTb, lost := true }

/-- The histogram blocks of an instance, one for each HIST step, written to the die's DRAM at its close (R188); none where that
DRAM is gone (R274). -/
def State.histBlocks (s : State) (k g i : Nat) (x : Instance) (t : Tb) : State :=
  let m := (s.die (dieOfCluster k)).dram
  if m.st = .offline ∨ m.reforming then s
  else
    let hists := (s.recipe k i).live.zipIdx.filter fun p => p.1.op == opHist
    let blocks := hists.map fun p => ({ ch := chanOf k x.lane, recipe := i, step := p.2, closeTb := t,
                                        counts := (x.aggs.getD p.2 Agg.init).hist } : HistBlock)
    { s with results := s.results.map fun y => if y.group == g then { y with hists := y.hists ++ blocks } else y }

/-- The close pass of one instance (R177, R178, R188). -/
def State.passInst (s : State) (k g i : Nat) (x : Instance) : Instance × State :=
  let r := s.recipe k i
  let n := chanOf k x.lane
  let t := x.closeAt.getD s.tb
  let empty := x.taken == 0
  let s := s.updRed k fun u => u.note false false false empty false
  let s := s.updRec g n fun e => e.flag excEmpty empty
  if x.lost then ({ x with closed := true }, (s.updRec g n fun e => e.lose t).histBlocks k g i x t)
  else
    let v := evalSteps r (s.resRec g n) none (s.ivalOf k x.lane r.charge) { x with closeAt := some t }
    let x := { x with outs := v.outs, aggs := v.aggs, closed := true }
    let s := (s.updRec g n fun _ => (v.record.flag excSat v.sat).flag excDiv0 v.div0).houseAsk (n / 64) (s.recordAddr n) 64
    (x, (s.histBlocks k g i x t).updRed k fun u => u.note v.sat v.div0 false false v.invalid)

/-- The earliest close TB of the instances of a window whose pass has not run. -/
def RWindow.nextClose (w : RWindow) : Option Tb :=
  (w.insts.filterMap fun x => if x.closed then none else x.closeAt).foldl
    (fun m t => some (match m with | some u => min u t | none => t)) none

/-- The close pass of recipe `i` with the earliest close TB: every instance of that TB, in lane order; a window with
nothing left to close is gone (R178). -/
def State.closePass (s : State) (k g i : Nat) : State :=
  match (s.red k).windows.findIdx? fun w => w.recipe == i && w.nextClose.isSome with
  | none => s
  | some wi =>
    match (s.red k).windows[wi]? with
    | none => s
    | some w =>
      let t := w.nextClose.getD s.tb
      let due := w.insts.filter fun x => !x.closed && x.closeAt == some t
      let s := due.foldl (fun s x =>
        let (x', s) := s.passInst k g i x
        s.setInst k wi x') s
      s.updRed k fun u =>
        { u with
          closes := inc32 u.closes
          windows := (u.windows.mapIdx fun j w => if j = wi then w.countDone t else w).filter fun w =>
            !(!w.isOpen && !w.insts.isEmpty && w.insts.all fun x => x.closed) }

/-- The recipe whose close pass comes next in cluster `k`: the earliest close TB, the lowest index on a tie (R178). -/
def State.nextPass (s : State) (k : Nat) : Option Nat :=
  let due := (s.red k).windows.filterMap fun w => w.nextClose.map fun t => (t, w.recipe)
  (due.foldl (fun m p => match m with
    | some q => if p.1 < q.1 ∨ (p.1 = q.1 ∧ p.2 < q.2) then some p else some q
    | none => some p) none).map (·.2)

/-- The TB from which the close pass of an instance that closes at `t` can run: the last sample stamped before `t` is
complete (R175, R178). A CHARGE recipe waits for the increment whose interval began just before the close (R183). -/
def State.passFrom (s : State) (k i lane : Nat) (t : Tb) : Tb :=
  if (s.recipe k i).charge then (t + 99999) / 100000 * 100000
  else
    let m := (s.chan (chanOf k lane)).meas.avgM1.toNat
    max t ((t - 1) / ((m + 1) * 1000) * ((m + 1) * 1000) + m * 1000)

/-- Every instance of the windows of cluster `k` whose pass has not run has a close TB, and its pass can run. -/
def State.passesReady (s : State) (k : Nat) : Bool :=
  (s.red k).windows.all fun w => w.insts.all fun x =>
    x.closed || x.closeAt.any fun t => decide (s.passFrom k w.recipe x.lane t ≤ s.tb)

/-- The close pass that comes next in cluster `k` is that of recipe `i`, and it can run. -/
def State.passDue (s : State) (k i : Nat) : Bool :=
  s.nextPass k == some i &&
    match (s.red k).windows.find? fun w => w.recipe == i && w.nextClose.isSome with
    | none => false
    | some w => w.insts.all fun x =>
        x.closed || x.closeAt != w.nextClose || decide (s.passFrom k i x.lane (x.closeAt.getD 0) ≤ s.tb)

/-- A recipe has an open window while the pass of the window before it waits (R176). -/
def Red.restarted (u : Red) : Bool :=
  u.windows.any fun w => w.isOpen && u.windows.any fun v => v.recipe == w.recipe && !v.isOpen && v.nextClose.isSome

/-- The passes of windows that restarts closed run as far as they can (R176); `n` bounds how many. -/
def State.passOld (s : State) (k g : Nat) : Nat → State
  | 0 => s
  | n + 1 =>
    match s.nextPass k with
    | some i => if (s.red k).restarted && s.passDue k i then State.passOld (s.closePass k g i) k g n else s
    | none => s

/-- Run every close pass that is due in cluster `k`, in order; `n` bounds how many. -/
def State.closeAll (s : State) (k g : Nat) : Nat → State
  | 0 => s
  | n + 1 =>
    match s.nextPass k with
    | some i => State.closeAll (s.closePass k g i) k g n
    | none => s

/-- The number of instances in a cluster's windows, which bounds the passes left. -/
def Red.passes (u : Red) : Nat := 2 * (u.windows.map fun w => w.insts.length).sum + 1

/-- A sample of a lane reaches the unit of its cluster: every instance of the lane and input takes it, windows in the
order of their recipes (R178). The pass of a window that a restart closed comes before the new one's first sample (R176). -/
def State.feedRed (s : State) (k g : Nat) (sm : RedSample) : State :=
  let s := s.passOld k g (s.red k).passes
  let order := ((s.red k).windows.zipIdx).mergeSort fun a b => decide (a.1.recipe ≤ b.1.recipe)
  order.foldl (fun s p =>
    if (s.recipe k p.1.recipe).charge = sm.charge then
      match ((s.red k).windows.getD p.2 p.1).insts.find? fun x => x.lane == sm.lane with
      | some x => s.feedInst k g p.2 p.1 x sm
      | none => s
    else s) s

end Sys2Proof.Machine
end

