-- ==== Sys2Proof/Machine/Capture.lean ====
section
/-! DEFINITION. Capture streams and records (R153 to R159), the trigger engines (R160 to R167), and the fail counters,
first fail and fail log (R168 to R170). -/

namespace Sys2Proof.Machine

/-! ### The die's DRAM and the ripple lines -/

/-- Write bytes into a die's DRAM (R257). -/
def State.dramWrite (s : State) (d addr : Nat) (bs : List Byte) : State :=
  s.updDram d fun x => { x with mem := Mem.setBytes ramByte x.mem addr bs }

/-- An address of a die lies in a range that an image holds there, in any state (R247, R248). -/
def Image.holds (i : Image) (d a : Nat) : Bool :=
  hasBit i.dieMask d && (i.places.getD d []).any fun x => decide (x.1 ≤ a) && decide (a < x.1 + x.2)

/-- An address of a die lies in the range of an image (R248). -/
def State.inImage (s : State) (d a : Nat) : Bool := s.images.any fun i => i.holds d a

/-- Write bytes into a die's DRAM where no image holds it: an image's ranges take writes from the loader alone (R248). -/
def State.dramWriteFree (s : State) (d addr : Nat) (bs : List Byte) : State :=
  let put (m : Mem) (p : Byte × Nat) : Mem :=
    if s.inImage d (addr + p.2) then m else Mem.set ramByte m (addr + p.2) p.1
  s.updDram d fun x => { x with mem := bs.zipIdx.foldl put x.mem }

/-- Read bytes of a die's DRAM. -/
def State.dramBytes (s : State) (d addr n : Nat) : List Byte := Mem.bytes ramByte (s.die d).dram.mem addr n

/-- The DRAM of a die can be read and written (R256). -/
def State.dramUp (s : State) (d : Nat) : Bool := (s.die d).dram.st == .full || (s.die d).dram.st == .half

/-- An assertion from tick `t` for `len` ticks meets that of a line: together they hold it without a break. -/
def Line.meets (l : Line) (t len : Nat) : Bool :=
  decide (l.len > 0) && decide (t ≤ l.at_ + l.len) && decide (l.at_ ≤ t + len)

/-- Assert a ripple line at tick `t` for `len` ticks: a wired OR merges it with the assertion that it meets (R26, R27,
R124). -/
def Line.assert (l : Line) (t len : Nat) : Line :=
  if l.meets t len then { at_ := min l.at_ t, len := max (l.at_ + l.len) (t + len) - min l.at_ t }
  else { at_ := t, len }

/-- Add an assertion to those of a line that wait to be acted on, which stand in the order of their first ticks: it merges with
every one that it meets (R27). -/
def addLine : List Line → Tb → Nat → List Line
  | [], t, len => [{ at_ := t, len }]
  | l :: ls, t, len =>
    if l.meets t len then addLine ls (l.assert t len).at_ (l.assert t len).len
    else if t < l.at_ then { at_ := t, len } :: l :: ls
    else l :: addLine ls t len

/-- Give a port of the lock link an event to send: up to 64 wait, and a frame every 8 ns takes four (R102, R105). None
when it would leave too late, or the queue is full (R106). -/
def portSend (q : List (LlEvent × Tb)) (e : LlEvent) (now limit : Tb) : Option (List (LlEvent × Tb)) :=
  let waiting := q.filter fun x => decide (now < x.2)
  let last := (waiting.map (·.2)).foldl max 0
  let here := (waiting.filter fun x => x.2 == last).length
  let dep := max (roundUp now 8) (if here ≥ 4 then last + 8 else last)
  if waiting.length ≥ 64 ∨ dep > limit then none else some (q ++ [(e, dep)])

/-- Send an event by the ports named (R105, R106). A port without valid frames, LINK_UP or LINK_DN 0, takes none, and none is
late for it (DESIGN CHOICE, unsafe, log entry 77). -/
def LockLink.send (l : LockLink) (e : LlEvent) (now : Tb) (byUp byDn : Bool) : LockLink :=
  let limit := e.t8 + l.lat * 8 - (l.transit * 16 + 2047) / 2048
  let put (on : Bool) (q : List (LlEvent × Tb)) : List (LlEvent × Tb) × Bool :=
    if on then (match portSend q e now limit with
      | some q' => (q', false)
      | none => (q, true))
    else (q, false)
  let (u, lu) := put (byUp && l.up) l.qUp
  let (d, ld) := put (byDn && l.dn) l.qDn
  { l with qUp := u, qDn := d, late := l.late || lu || ld
           overdue := l.overdue ++ (if lu then [e.slot] else []) ++ if ld then [e.slot + 8] else [] }

/-- The lines of a lock group that the link carries (R102): 3 + i is MARK[i]. -/
abbrev lnArm : Nat := 0
abbrev lnFire : Nat := 1
abbrev lnAbort : Nat := 2
abbrev lnMark : Nat := 3

/-- Assert a line of lock group `g` at tick `t` for `len` ticks: on the ripple (R26), or, for a group that spans
packages, as an event of the link whose origin interval is `t` rounded up to a multiple of 8 (R105). -/
def State.lineUp (s : State) (g line t len : Nat) : State :=
  if (s.group g).span then
    let e : LlEvent := { slot := (s.group g).slot, line, t8 := roundUp t 8 }
    if s.link.evs.contains e then s
    else s.updLink fun l => { l with evs := l.evs ++ [e] }.send e s.tb true true
  else
    let up (ls : List Line) (i : Nat) : List Line := ls.modify i fun x => x.assert t len
    let p := s.ripple
    { s with ripple := match line with
        | 0 => { p with arm := up p.arm g }
        | 1 => { p with fire := p.fire.modify g fun ls => addLine ls t len }
        | 2 => { p with abort := up p.abort g }
        | _ => { p with mark := up p.mark (g * 4 + (line - 3)) } }

/-! ### Streams -/

/-- A stream carries charge increments (R153). -/
def streamCharge (i : Nat) : Bool := decide (8 ≤ i)

/-- The channel of stream `i` of cluster `k` (R153). -/
def streamChan (k i : Nat) : Nat := chanOf k (i % 8)

/-- Bytes of one sample of a stream (R153). -/
def sampleBytes (i : Nat) : Nat := if streamCharge i then 8 else 4

/-- The sample interval of a stream in ns (R157). -/
def State.streamIval (s : State) (k i : Nat) : Nat := s.ivalOf k (i % 8) (streamCharge i)

/-- The DRAM write rate of a stream in MB/s: its sample size times its sample rate (R154). -/
def State.streamRate (s : State) (k i : Nat) : Rat := (sampleBytes i * 1000 : Nat) / (s.streamIval k i : Nat)

/-- A record's header (R156). -/
def recHeader (ch kind flags gaps firstTb count pre : Nat) : List Byte :=
  leBytes 2 (ch + kind * 2 ^ 9) ++ leBytes 1 flags ++ leBytes 1 gaps ++ leBytes 8 firstTb ++ leBytes 2 count
    ++ leBytes 2 pre

/-- The bytes of a data record of stream `i` (R156, R157). -/
def dataRecord (k i : Nat) (c : Cap) (r : OpenRec) (extra : BitVec 8) : List Byte :=
  let body := r.samples.flatMap fun v => leBytes (sampleBytes i) v.toNat
  recHeader (streamChan k i) (if streamCharge i then 2 else 1) (r.flags ||| extra).toNat (min c.gapCount 255) r.first
    r.samples.length r.pre
    ++ body ++ List.replicate (roundUp body.length 16 - body.length) 0

/-- SRAM bytes that a stream uses with an open record of `n` samples: closed records, the open one and the pre ring (R153,
R159). -/
def Cap.sramUsed (c : Cap) (i n : Nat) : Nat :=
  (c.closed.map List.length).sum + (c.preRing.filter fun p => p.2.isSome).length * sampleBytes i
    + (if n = 0 then 0 else 16 + roundUp (n * sampleBytes i) 16)

/-- Samples of the open record. -/
def Cap.openCount (c : Cap) : Nat := (c.openRec.map fun r => r.samples.length).getD 0

/-- `bytes` fit beside the 32 bytes kept for a GAP record (R159). -/
def Cap.fits (c : Cap) (bytes : Nat) : Bool := decide (bytes + 32 ≤ c.sramSize * 4096)

/-- There is room for one more sample (R159); TRIGGER records that wait for room come first. -/
def Cap.hasRoom (c : Cap) (i : Nat) : Bool := c.owed.isEmpty && c.fits (c.sramUsed i (c.openCount + 1))

/-- RFLAGS bits (R157). -/
abbrev rfTriggered : BitVec 8 := 1
abbrev rfPreShort : BitVec 8 := 2
abbrev rfPostShort : BitVec 8 := 4
abbrev rfCloseStop : BitVec 8 := 8
abbrev rfCloseDisc : BitVec 8 := 16

/-- Close the open data record with more flags (R157). The first data record of a window shows PRE_SHORT where it holds fewer
than PRE_DEPTH samples from before the trigger. -/
def Cap.close (c : Cap) (k i : Nat) (extra : BitVec 8) : Cap :=
  match c.openRec with
  | some r =>
    if r.samples.isEmpty then { c with openRec := none }
    else
      let short : Bool := c.win.any fun w => w.first && decide (r.pre < c.pre)
      let extra := if short then extra ||| rfPreShort else extra
      { c with openRec := none, closed := c.closed ++ [dataRecord k i c r extra]
               win := c.win.map fun w => { w with first := false } }
  | none => c

/-- A sample that follows the open record without a break in its spacing (R157). -/
def OpenRec.follows (r : OpenRec) (stamp ival : Nat) : Bool := decide (stamp = r.first + r.samples.length * ival)

/-- Append a sample to the open record, opening one where there is none. -/
def Cap.append (c : Cap) (k i stamp ival : Nat) (w : BitVec 64) (flags : BitVec 8) (pre : Bool) : Cap :=
  let c := match c.openRec with
    | some r => if r.follows stamp ival then c else c.close k i 0
    | none => c
  let r := c.openRec.getD { first := stamp, samples := [], pre := 0, flags }
  { c with openRec := some { r with samples := r.samples ++ [w], pre := r.pre + bit pre } }

/-- A sample that finds no room: the open record closes and a gap starts or grows (R159). -/
def Cap.drop (c : Cap) (k i stamp : Nat) : Cap :=
  let c := c.close k i 0
  let g : Gap := c.gap.getD { first := stamp, count := 0, formed := false }
  { c with dropped := inc32 c.dropped, gap := some { g with count := g.count + 1 } }

/-- TRIGGER records that wait for room are written, oldest first. -/
def Cap.pay (c : Cap) (i : Nat) : Cap :=
  c.owed.foldl (fun c r =>
    if c.fits (c.sramUsed i c.openCount + r.length) && c.owed.head? == some r then
      { c with closed := c.closed ++ [r], owed := c.owed.tail }
    else c) c

/-- The GAP record of a gap is formed, which counts it (R159). -/
def Cap.formGap (c : Cap) : Cap :=
  match c.gap with
  | some g =>
    if g.formed then c else { c with gap := some { g with formed := true }, gapCount := min (c.gapCount + 1) 255 }
  | none => c

/-- The first sample stored after a gap, stamped `stamp`, completes its GAP record: RESUME_TB is its stamp (R158, R159). Its
RFLAGS are 0, also where the gap splits a trigger window (R157; DESIGN CHOICE, unsafe, log entry 77). -/
def Cap.resume (c : Cap) (k i stamp : Nat) : Cap :=
  let c := c.formGap
  match c.gap with
  | some g =>
    let r := recHeader (streamChan k i) 4 0 c.gapCount g.first 1 0 ++ leBytes 8 g.count ++ leBytes 8 stamp
    { c with gap := none, closed := c.closed ++ [r] }
  | none => c

/-- Store a sample, or drop it for want of room (R159). -/
def Cap.store (c : Cap) (k i ival stamp : Nat) (w : BitVec 64) (flags : BitVec 8) (pre : Bool) : Cap :=
  let c := c.pay i
  if c.hasRoom i then (c.resume k i stamp).append k i stamp ival w flags pre else c.drop k i stamp

/-- The oldest sample of an open record leaves it where it holds more than PRE_DEPTH from before the trigger (R165). -/
def Cap.trimPre (c : Cap) (ival : Nat) : Cap :=
  match c.openRec with
  | some r =>
    if r.pre > c.pre then
      { c with openRec := some { r with first := r.first + ival, samples := r.samples.drop 1, pre := r.pre - 1 } }
    else c
  | none => c

/-- A sample inside a trigger window: before the trigger it joins the pre-trigger samples, from the trigger on it is one
of the POST_COUNT samples (R165); `w` none is one that the pre ring had no room for. Samples stamped before the ARMED tick are
none of the window's. -/
def Cap.windowSample (c : Cap) (k i ival stamp : Nat) (w : Option (BitVec 64)) (win : CapWin) : Cap :=
  let pre := decide (stamp < win.t)
  if stamp < win.armTb ∨ pre ∧ c.pre = 0 then c
  else
    let c := match w with
      | some v => c.store k i ival stamp v rfTriggered pre
      | none => c.drop k i stamp
    if pre then c.trimPre ival
    else if win.left ≤ 1 then { c.close k i 0 with win := none }
    else { c with win := c.win.map fun x => { x with left := win.left - 1 } }

/-- The pre ring takes a sample: it keeps the newest PRE_DEPTH, and only the place of one that the share has no room for
(R153, R159, R165). -/
def Cap.preSample (c : Cap) (i stamp : Nat) (w : BitVec 64) : Cap :=
  let ring (v : Option (BitVec 64)) : List (Tb × Option (BitVec 64)) :=
    (c.preRing ++ [(stamp, v)]).drop (c.preRing.length + 1 - c.pre)
  let full : Cap := { c with preRing := ring (some w) }
  if full.fits (full.sramUsed i full.openCount) then full else { c with preRing := ring none }

/-- The sample of a stream reaches the capture logic (R153 to R159, R165). -/
def State.capSample (s : State) (k i stamp : Nat) (w : BitVec 64) : State :=
  let c := s.cap k i
  let ival := s.streamIval k i
  if c.mode = 1 ∧ c.active then
    s.updCap k i fun c =>
      let c := c.store k i ival stamp w 0 false
      if c.chunk ≤ c.openCount then c.close k i 0 else c
  else if c.mode = 2 then
    match c.win with
    | some win => s.updCap k i fun c => c.windowSample k i ival stamp (some w) win
    | none =>
      let g := s.trig k
      if g.state = .armed ∧ g.armTb ≤ stamp then s.updCap k i fun c => c.preSample i stamp w else s
  else s

/-- The switch of a charge stream's channel opened at `x`: the record that was open closes, and a window whose trigger came
before takes no more (R157, R167). -/
def State.capDisconnect (s : State) (k i : Nat) (x : Tb) : State :=
  s.updCap k i fun c =>
    let old : Bool := c.openRec.any fun r => decide (r.first < x)
    if c.win.any fun w => decide (w.t ≤ x) then
      { (if old then c.close k i (rfCloseDisc ||| rfPostShort) else c) with win := none }
    else if old then c.close k i rfCloseDisc
    else c

/-- The stream stops: its record closes (R157). -/
def State.capStopNow (s : State) (k i : Nat) : State :=
  s.updCap k i fun c => { c.close k i rfCloseStop with active := false }

/-- The share of a stream in a gap has room again: its GAP record is formed and waits for the stamp of the first sample stored
(R159). -/
def State.gapNow (s : State) (k i : Nat) : State :=
  s.updCap k i fun c =>
    let c := c.pay i
    if c.hasRoom i then c.formGap else c

/-! ### The ring -/

/-- A PAD record that fills `n` bytes (R157). -/
def padRecord (k i gaps n : Nat) : List Byte :=
  recHeader (streamChan k i) 5 0 gaps 0 ((n - 16) / 16) 0 ++ List.replicate (n - 16) 0

/-- Put a record at the write offset of a stream's ring; where the ring lies in the range of an image, nothing is stored
(R248). -/
def State.ringPut (s : State) (k i : Nat) (r : List Byte) : State :=
  let c := s.cap k i
  let d := dieOfCluster k
  let ask : DramReq := .new .capture (.stream k i) (c.ringBase + c.wr) r.length s.tb
  ((s.dramWriteFree d (c.ringBase + c.wr) r).dramAsk d ask c.rate).updCap k i fun c =>
    { c with wr := (c.wr + r.length) % c.ringSize, used := c.used + r.length, starts := c.starts ++ [c.wr] }

/-- A record that does not fit before the end of the ring leaves a PAD there first, once those bytes have been released
(R155). -/
def State.padNow (s : State) (k i len : Nat) : State :=
  let c := s.cap k i
  let rest := c.ringSize - c.wr
  if len ≤ rest ∨ c.ringSize < c.used + rest then s
  else s.ringPut k i (padRecord k i (min c.gapCount 255) rest)

/-- Drain the oldest closed record into the ring, or wait on a full ring (R155). -/
def State.drainNow (s : State) (k i : Nat) : State :=
  match (s.cap k i).closed with
  | [] => s
  | r :: rest =>
    if ¬ s.dramUp (dieOfCluster k) then s
    else
      let s := s.padNow k i r.length
      let c := s.cap k i
      if r.length ≤ c.ringSize - c.wr ∧ c.used + r.length ≤ c.ringSize then
        (s.ringPut k i r).updCap k i fun c => { c with closed := rest, blocked := false }
      else s.updCap k i fun c => { c with blocked := true }

/-- Release ring bytes up to an offset (R155): none where the offset is no record start in the written span. -/
def Cap.release (c : Cap) (off : Nat) : Option Cap :=
  if off = c.wr ∧ c.used > 0 ∧ ¬ c.starts.contains off then
    some { c with rd := off, used := 0, starts := [], blocked := false }
  else
    match c.starts.idxOf? off with
    | some j => some { c with rd := off, starts := c.starts.drop j, blocked := false,
                              used := if j = 0 then c.used else (c.wr + c.ringSize - off - 1) % c.ringSize + 1 }
    | none => if c.used = 0 ∧ off = c.wr then some c else none

/-! ### Trigger engines -/

/-- The clusters that share a cluster's engine transitions: its lock group, else itself (R162). -/
def State.trigPeers (s : State) (k : Nat) : List Nat :=
  match s.groupOf k with
  | some g => s.membersOf g
  | none => [k]

/-- The largest POST_COUNT x I over the TRIGGERED streams of some clusters (R163). -/
def State.postWindow (s : State) (ks : List Nat) : Nat :=
  (ks.flatMap fun k => (List.range 16).map fun i =>
    let c := s.cap k i
    if c.mode = 2 then c.post * s.streamIval k i else 0).foldl max 0

/-- The source of an engine is a level rather than a pulse (R160). -/
def levelSource (src : Nat) : Bool := decide (src ∈ [5, 6, 7, 8, 11, 13])

/-- A fire request of an engine: FIRE is asserted at tick `t` for an origin (R160, R164). -/
def State.requestFire (s : State) (k : Nat) (t origin : Tb) : State :=
  let s := s.updTrig k fun g => { g with mine := g.mine ++ [(t, origin)] }
  match s.groupOf k with
  | some g => s.lineUp g lnFire t 1
  | none => s

/-- The engine's source falls silent during a loss of pattern lock (R160). -/
def State.silent (s : State) (k : Nat) : Bool :=
  (s.die (dieOfCluster k)).pll.holdover && decide ((s.trig k).source ∈ [9, 10, 13])

/-- The engine of a cluster sees a change of its source (R161): a pulse is a rising edge, and the source is high in its tick;
an edge lies between two ticks that are both in ARMED. -/
def State.trigTake (s : State) (k : Nat) (x : TrigSeen) : State :=
  let g := s.trig k
  let met := match x.level with
    | none => (g.cond == 0 && g.pol == 0) || (g.cond == 1 && g.pol != 1)
    | some v => if g.cond = 0 then v == (g.pol == 0) else g.cond == 1 && g.level != v && (g.pol == 2 || (v == (g.pol == 0)))
  let armed := g.state == .armed && decide (g.armTb + (if g.cond = 1 then 1 else 0) ≤ x.tick)
  let s := s.updTrig k fun g => { g with level := x.level.getD g.level }
  if met && armed && !s.silent k then s.requestFire k x.tick x.origin else s

/-- The engine of a cluster sees every change that has reached it by a tick, in the order of the ticks. -/
def State.trigFlush (s : State) (k : Nat) (upTo : Tb) : State :=
  let (due, later) := (s.trig k).inbox.partition fun x => decide (x.tick ≤ upTo)
  due.foldl (fun s x => s.trigTake k x) (s.updTrig k fun g => { g with inbox := later })

/-- A change of an engine's source sets out: it is seen in tick `tick` (R160). -/
def State.trigSee (s : State) (k : Nat) (tick origin : Tb) (level : Option Bool) : State :=
  let put (xs : List TrigSeen) : List TrigSeen :=
    (xs.filter fun x => decide (x.tick ≤ tick)) ++ { tick, origin, level } :: xs.filter fun x => decide (tick < x.tick)
  (s.updTrig k fun g => { g with inbox := put g.inbox }).trigFlush k s.tb

/-- The tick in which a change is seen that crosses clock domains within `worst` ns of its origin (R160): where within them is
open (log entry 7). -/
def State.crossing (s : State) (origin worst : Nat) : Tb × State :=
  let (v, s) := s.takeFree
  (max s.tb (origin + v.toNat % (worst + 1)), s)

/-- A level at which the engine fires holds in a tick while it is ARMED: at arming, and when a silent source is heard again
(R160, R161). -/
def State.trigAtLevel (s : State) (k : Nat) (t : Tb) : State :=
  let g := s.trig k
  if g.state = .armed ∧ g.cond = 0 ∧ g.source ≠ 0 ∧ (g.level == (g.pol == 0)) ∧ ¬ s.silent k then s.requestFire k t t
  else s

/-- The sample detector of an engine with SOURCE 12 (R161): samples count from the ARMED tick on, in every state but
IDLE. -/
def State.trigSample (s : State) (k lane : Nat) (value : Nat) (stamp last : Tb) : State :=
  let g := s.trig k
  if g.source = 12 ∧ g.lane.toNat = lane ∧ g.state ≠ .idle ∧ g.armTb ≤ stamp then
    let high := decide (g.thrHi.toNat ≤ value)
    let low := decide (value ≤ g.thrLo.toNat)
    let fires := (g.pol == 0 && g.zone == some false && high) || (g.pol != 0 && g.zone == some true && low)
    let s := s.updTrig k fun g => { g with zone := if high then some true else if low then some false else g.zone }
    if fires then s.requestFire k s.tb last else s
  else s

/-- A pulse on a source of R160 for one cluster's engine, seen in tick `t`; `idx` is the line, event or lane it came from. -/
def State.pulseTo (s : State) (k src idx : Nat) (t origin : Tb) : State :=
  let g := s.trig k
  let ours := match src with
    | 9 => g.source == 9 && g.select.toNat % 4 == idx
    | 10 => g.source == 10 && hasBit g.select idx
    | _ => g.source.toNat == src
  if ours && !s.silent k then s.trigSee k t origin none else s

/-- The TRIGGER record of a stream (R158); `origin` is that of the cluster's own fire in the trigger's first tick. -/
def trigRecord (k i : Nat) (c : Cap) (g : Trig) (t : Tb) (origin : Option Tb) (span : Bool) : List Byte :=
  recHeader (streamChan k i) 3 rfTriggered.toNat (min c.gapCount 255) t 1 0
    ++ leBytes 8 (origin.getD t) ++ leBytes 2 g.count ++ leBytes 1 g.source.toNat
    ++ leBytes 1 (bit origin.isSome + 2 * bit span) ++ leBytes 4 g.ignoredArm

/-- A TRIGGERED stream takes a trigger with trigger TB `t` (R165): its TRIGGER record, which waits where the share has no room,
then its pre ring as the window's first samples. -/
def State.trigStream (s : State) (k i : Nat) (t : Tb) (origin : Option Tb) (span : Bool) : State :=
  let c := s.cap k i
  if c.mode ≠ 2 then s
  else
    let ival := s.streamIval k i
    let win : CapWin := { t, armTb := (s.trig k).armTb, left := c.post, first := true }
    let rec_ := trigRecord k i c (s.trig k) t origin span
    s.updCap k i fun c =>
      let start : Cap := { c.close k i 0 with preRing := [], win := some win, owed := c.owed ++ [rec_] }
      c.preRing.foldl (fun c p => match c.win with
        | some w => c.windowSample k i ival p.1 p.2 w
        | none => c) (start.pay i)

/-- A fire with this trigger TB lies in HOLDOFF or REARM (R166). -/
def Trig.ignores (g : Trig) (t : Tb) : Bool :=
  g.ignFrom.any (fun f => decide (f ≤ t)) && !g.ignTo.any fun e => decide (e ≤ t)

/-- The engine leaves HOLDOFF or REARM for good at `e`: later fires are not ignored ones. -/
def Trig.stopIgnoring (g : Trig) (e : Tb) : Trig :=
  { g with holdStop := some (g.holdStop.getD e), ignTo := some (g.ignTo.getD e) }

/-- One member engine acts at `act` on a fire that was asserted from `t` for `len` ticks (R164 to R166): what it is goes by the
state at its trigger TB `t`. It is a trigger in ARMED, an ignored fire in HOLDOFF or REARM, nothing otherwise. -/
def State.actFire (s : State) (k : Nat) (t len act : Tb) (span : Bool) : State :=
  let g := s.trig k
  let own := g.mine.find? fun p => (if span then roundUp p.1 8 else p.1) == t
  let s := s.updTrig k fun g => { g with mine := g.mine.filter fun p => decide (t + len ≤ p.1) }
  if g.state = .armed ∧ g.armTb ≤ t then
    let s := s.updTrig k fun g =>
      { g with
        state := .holdoff
        lastTb := t
        count := inc32 g.count
        fires := 0
        ignFrom := some t
        holdStop := none
        ignTo := none
        holdEnd := if g.holdMode then (if g.hold = 0 then some (t + g.win) else none)
          else some (max (t + g.win) (t + g.hold.toNat)) }
    (List.range 16).foldl (fun s i => s.trigStream k i t (own.map Prod.snd) span) s
  else if g.ignores t then
    s.updTrig k fun g =>
      let fires := g.fires + 1
      { g with
        ignored := inc32 g.ignored
        ignoredArm := inc32 g.ignoredArm
        fires
        holdEnd := if g.holdMode ∧ g.state = .holdoff ∧ g.holdEnd.isNone ∧ fires ≥ g.hold.toNat then
          some (max (g.lastTb + g.win) act) else g.holdEnd }
  else s

/-- STATE of a trigger engine (R172). -/
def TrigSt.code : TrigSt → Nat
  | .idle => 0
  | .armed => 1
  | .holdoff => 2
  | .rearm => 3
  | .done => 4

/-- Every engine of some clusters acts on a fire; the master logs an ignored one with the state it was in (R166). -/
def State.fireAll (s : State) (ks : List Nat) (g : Option Nat) (t len act : Tb) (span : Bool) : State :=
  let master := (g.bind s.masterOf).map s.trig
  let log : Option TrigSt := match master with
    | some x =>
      if x.logIgn && x.ignores t then some (if x.holdStop.any fun e => decide (e ≤ t) then .rearm else .holdoff) else none
    | none => none
  let s := ks.foldl (fun s k => s.actFire k t len act span) s
  match g, log with
  | some g, some st => s.raise_ { code := evTrigIgnored, tb := t, locKind := 4, location := g, detail := st.code }
  | _, _ => s

/-- An engine enters ARMED at `t`: its pre rings start empty and its zone is unknown (R161, R165). Changes seen before `t` found
it at rest or in REARM. -/
def State.armEngine (s : State) (k : Nat) (t : Tb) : State :=
  let s := s.trigFlush k (t - 1)
  let s := s.updCluster k fun c => { c with
    trig := { c.trig with state := .armed, armTb := t, zone := none, holdEnd := none }
    caps := c.caps.map fun x => { x with preRing := [] } }
  (s.trigAtLevel k t).trigFlush k s.tb

/-- Post collection of a cluster's windows stops at a disarm (R167). -/
def State.stopWindows (s : State) (k : Nat) : State :=
  (List.range 16).foldl (fun s i => s.updCap k i fun c =>
    if c.win.isSome then { c.close k i (rfPostShort ||| rfCloseStop) with win := none, preRing := [] }
    else { c with preRing := if c.mode = 2 then [] else c.preRing }) s

/-! ### Fails -/

/-- Compare code of a lane in a vector word (R108). -/
def compareCode (w : Word) (l : Nat) : Nat := field w.toNat (4 * l + 3) (4 * l + 2)

/-- Drive code of a lane in a vector word (R108). -/
def driveCode (w : Word) (l : Nat) : Nat := field w.toNat (4 * l + 1) (4 * l)

/-- A judged strobe fails (R54). -/
def strobeFails (code : Nat) (above below : Bool) : Bool :=
  match code with
  | 1 => !below
  | 2 => !above
  | 3 => above || below
  | _ => false

/-- A log entry (R170). -/
def failEntry (tb vec : Nat) (mask : BitVec 8) : BitVec 128 :=
  BitVec.ofNat 128 (tb + vec % 2 ^ 48 * 2 ^ 64 + mask.toNat * 2 ^ 112)

/-- A fail log accepts an entry, or counts it under FIRST once it is full (R170). -/
def FailLog.add (f : FailLog) (e : BitVec 128) : FailLog :=
  if f.kept.length < 65536 then { f with kept := f.kept ++ [e], wr := inc32 f.wr }
  else if f.last then { f with kept := f.kept.drop 1 ++ [e], wr := inc32 f.wr }
  else { f with full := inc32 f.full }

/-- Entry number `e` of a fail log, if it is still held (R170). -/
def FailLog.entry? (f : FailLog) (e : Nat) : Option (BitVec 128) :=
  let first := f.wr - f.kept.length
  if first ≤ e then f.kept[e - first]? else none

end Sys2Proof.Machine
end

