-- ==== Sys2Proof/Machine/Flags.lean ====
section
/-! DEFINITION. Status and flag words as their registers show them, and the clearing of flags by writing 1 (R78, R107,
R143, R171, R172, R192, R276, R373, R415). -/

namespace Sys2Proof.Machine

/-- CH_STATE (R78). -/
def ChState.word (x : ChState) : Word :=
  packWord [(0, x.mode.code), (3, bit x.still), (4, x.range.toNat), (7, bit x.switchClosed), (8, bit x.rpsBusy),
    (9, bit x.inRun), (10, bit x.gangMember), (11, bit x.gangMeas), (12, x.gangSizeM1.toNat), (15, bit x.clampLive),
    (16, bit x.otDrvLive), (17, bit x.otPmuLive), (18, bit x.rangeSettle), (19, x.lastCause.toNat)]

/-- CH_FLAGS (R78). -/
def ChFlags.word (x : ChFlags) : Word :=
  packWord [(0, bit x.otDrv), (1, bit x.otPmu), (2, bit x.clampHit), (3, bit x.protTrip), (4, bit x.senseDiverge),
    (5, bit x.senseOpen), (6, bit x.queueEmpty), (7, bit x.overrange)]

/-- CH_FLAGS after a write of ones (W1C). -/
def ChFlags.clear (x : ChFlags) (v : Word) : ChFlags :=
  { otDrv := x.otDrv && !hasBit v 0, otPmu := x.otPmu && !hasBit v 1, clampHit := x.clampHit && !hasBit v 2,
    protTrip := x.protTrip && !hasBit v 3, senseDiverge := x.senseDiverge && !hasBit v 4,
    senseOpen := x.senseOpen && !hasBit v 5, queueEmpty := x.queueEmpty && !hasBit v 6,
    overrange := x.overrange && !hasBit v 7 }

/-- CH_CFG (R78). -/
def ChCfg.word (x : ChCfg) : Word :=
  packWord [(0, x.hyst.toNat), (3, bit x.termEn), (4, bit x.dclampEn), (5, bit x.senseCheck)]

/-- CH_CFG from the low six bits of a value (R78). -/
def ChCfg.ofBits {w : Nat} (v : BitVec w) : ChCfg :=
  { hyst := v.setWidth 3, termEn := hasBit v 3, dclampEn := hasBit v 4, senseCheck := hasBit v 5 }

/-- PPLL_STATUS (R107). -/
def Pll.statusWord (x : Pll) : Word :=
  packWord [(0, bit x.locked), (1, bit x.holdover), (2, bit x.tracking), (3, bit x.relocking), (4, bit x.synced),
    (5, bit x.lol), (6, bit x.guardHit)]

/-- STATE of SEQ_STATE (R143). -/
def SeqSt.code : SeqSt → Nat
  | .idle => 0
  | .armed => 1
  | .running => 2
  | .hold => 3
  | .ending => 4
  | .done => 5

/-- SEQ_STATE (R143). -/
def Seq.stateWord (x : Seq) : Word :=
  packWord [(0, x.state.code), (3, bit x.activeHalf), (4, x.loops.length), (7, bit x.defer), (8, x.group),
    (13, bit x.inRun), (14, bit x.stretch), (15, bit x.owner)]

/-- SEQ_FLAGS (R143). -/
def SeqFlags.word (x : SeqFlags) : Word :=
  packWord [(0, bit x.underrun), (1, bit x.stretched), (2, bit x.jumpDeferred), (3, bit x.lateDropped),
    (4, bit x.springLate), (5, bit x.waveUnderrun)]

/-- SEQ_FLAGS after a write of ones. -/
def SeqFlags.clear (x : SeqFlags) (v : Word) : SeqFlags :=
  { underrun := x.underrun && !hasBit v 0, stretched := x.stretched && !hasBit v 1,
    jumpDeferred := x.jumpDeferred && !hasBit v 2, lateDropped := x.lateDropped && !hasBit v 3,
    springLate := x.springLate && !hasBit v 4, waveUnderrun := x.waveUnderrun && !hasBit v 5 }

/-- SEQ_BR_LAST (R143). -/
def BrLast.word (x : BrLast) : Word :=
  packWord [(0, x.branch), (8, bit x.result), (9, bit x.uncertain), (10, bit x.deferred)]

/-- TIMER_STATUS (R143). -/
def timerWord (ts : List Timer) : Word :=
  packWord (ts.zipIdx.flatMap fun p => [(p.2, bit p.1.expired), (4 + p.2, bit p.1.running)])

/-- TRIG_STATE of a cluster (R172). -/
def State.trigStateWord (s : State) (k : Nat) : Word :=
  let g := s.groupOf k
  packWord [(0, (s.trig k).state.code), (3, g.getD 0), (8, bit g.isSome),
    (9, bit (match g with | some g => s.masterOf g == some k | none => false))]

/-- TRIG_CFG (R172). -/
def Trig.cfgWord (x : Trig) : Word :=
  packWord [(0, x.source.toNat), (4, x.cond.toNat), (6, x.pol.toNat), (8, x.lane.toNat)]

/-- FF_DETAIL (R172). -/
def FirstFail.detailWord (x : FirstFail) : Word := packWord [(0, x.fine), (16, x.mask.toNat), (24, bit x.valid)]

/-- FF_CMP (R172). -/
def FirstFail.cmpWord (x : FirstFail) : Word :=
  packWord [(0, x.expect.toNat), (16, x.above.toNat), (24, x.below.toNat)]

/-- CAP_STATUS (R172). -/
def capStatusWord (cs : List Cap) : Word :=
  packWord (cs.zipIdx.flatMap fun p => [(p.2, bit p.1.active), (16 + p.2, bit p.1.blocked)])

/-- RED_STATE (R192). -/
def Red.stateWord (x : Red) (inRun : Bool) : Word :=
  let open_ : BitVec 16 := maskOf 16 ((x.windows.filter fun w => w.isOpen).map fun w => w.recipe)
  packWord [(0, open_.toNat), (16, bit inRun), (17, bit (x.windows.any fun w => w.nextClose.isSome))]

/-- RED_EXC (R192). -/
def Red.excWord (x : Red) : Word :=
  packWord [(0, bit x.sat), (1, bit x.invalid), (2, bit x.div0), (3, bit x.lost), (4, bit x.empty)]

/-- RED_EXC after a write of ones. -/
def Red.clearExc (x : Red) (v : Word) : Red :=
  { x with sat := x.sat && !hasBit v 0, invalid := x.invalid && !hasBit v 1, div0 := x.div0 && !hasBit v 2,
           lost := x.lost && !hasBit v 3, empty := x.empty && !hasBit v 4 }

/-- STATE of DRAM_STATE (R276). -/
def DramSt.code : DramSt → Nat
  | .init => 0
  | .full => 1
  | .half => 2
  | .offline => 3

/-- DRAM_STATE (R276). -/
def Dram.stateWord (x : Dram) : Word :=
  packWord [(0, x.st.code), (2, x.chOk.toNat), (4, bit x.ranksM1), (5, x.density.toNat), (7, bit x.reforming),
    (8, bit x.retraining), (9, x.failedLane.toNat), (16, x.sizeGib)]

/-- DRAM_EYE (R276). -/
def Eye.word (x : Eye) : Word := packWord [(0, x.rdC.toNat), (8, x.rdW.toNat), (16, x.wrC.toNat), (24, x.wrW.toNat)]

/-- STATE of THM_STATE (R415). -/
def ThmSt.code : ThmSt → Nat
  | .normal => 0
  | .warn => 1
  | .throttle => 2
  | .shutdown => 3

/-- THM_STATE (R415). -/
def Die.thmWord (x : Die) : Word :=
  packWord [(0, x.thm.st.code), (2, bit (x.st == .thermalOff)), (3, bit x.thm.watching),
    (4, bit (!x.thm.convs.isEmpty)), (5, x.thm.steps), (8, x.thm.extType.toNat)]

/-- SP_STATUS (R373). -/
def Serial.statusWord (x : Serial) : Word :=
  packWord [(0, bit x.busy), (1, bit x.mmfLive), (2, bit x.mmf), (3, bit x.slvActive), (4, bit x.xipTo),
    (5, bit x.verifyFail), (6, bit x.slvFraming), (8, x.attempt)]

/-- RPS_STATUS (R433). -/
def Rps.statusWord (x : Rps) : Word :=
  let busy : BitVec 8 := maskOf 8 ((List.range 8).filter fun c => ((x.ctxs[c]?).bind RpsCtx.cur).isSome)
  packWord [(0, busy.toNat), (8, min 32 (x.queue.length + x.urgent.length)), (16, bit x.loading), (17, bit x.fault)]

/-- RPS_CTX (R433). -/
def Micro.word (x : Micro) (mask : BitVec 8) : Word :=
  packWord [(0, x.pc.toNat), (13, x.stack.length), (16, mask.toNat), (24, x.flags.toNat)]

/-- LL_STATUS (R107). -/
def LockLink.statusWord (x : LockLink) : Word :=
  packWord [(0, bit x.up), (1, bit x.dn), (2, bit x.aligned), (3, bit x.late)]

/-- PART_STATE (R291). -/
def PartSt.code : PartSt → Nat
  | .booting => 0
  | .ready => 1
  | .degraded => 2
  | .failed => 3

/-- DIE_STATE (R335). -/
def DieSt.code : DieSt → Nat
  | .absent => 0
  | .active => 1
  | .offline => 2
  | .thermalOff => 3
  | .recovering => 4

/-- INT_CAUSE_MISC (R291). -/
def Pci.miscWord (x : Pci) : Word :=
  packWord [(0, bit x.intEvent), (1, bit x.intEventOvf), (2, bit x.intInletErr), (3, bit x.intDmaErr),
    (4, bit x.intLink), (5, bit x.intPtm), (6, bit x.intHeld)]

/-- INT_CAUSE_MISC after a write of ones. -/
def Pci.clearMisc (x : Pci) (v : Word) : Pci :=
  { x with intEvent := x.intEvent && !hasBit v 0, intEventOvf := x.intEventOvf && !hasBit v 1,
           intInletErr := x.intInletErr && !hasBit v 2, intDmaErr := x.intDmaErr && !hasBit v 3,
           intLink := x.intLink && !hasBit v 4, intPtm := x.intPtm && !hasBit v 5,
           intHeld := x.intHeld && !hasBit v 6 }

/-- BOOT_INFO (R446). -/
def Boot.infoWord (x : Boot) : Word :=
  packWord [(0, x.stage.toNat), (8, x.resetCause), (10, bit x.fwSlot), (11, bit x.firstSlot),
    (16, x.failDetail.toNat)]

/-- BOOT_STATUS (R290). -/
def Boot.statusWord (x : Boot) : Word :=
  packWord [(0, x.stage.toNat), (8, bit x.ready), (9, bit x.fwSlot), (16, x.failDetail.toNat)]

/-- The dies of the part that are present and reachable (R290). -/
def State.dieMask (s : State) : BitVec 8 :=
  maskOf 8 (s.dieNums.filter fun d => (s.die d).st == .active || (s.die d).st == .thermalOff)

/-- The flags of an averaged sample (R147). -/
def sampleWord (value : Nat) (ovr settle clamp open_ current : Bool) (range : Nat) : Word :=
  packWord [(0, value), (24, bit ovr), (25, bit settle), (26, bit clamp), (27, bit open_), (28, bit current),
    (29, range)]

/-- A charge increment as a sample (R151). -/
def chargeWord (dq : Int) (partial_ settle ovr clamp noForce : Bool) (range : Nat) : BitVec 64 :=
  BitVec.ofNat 64 (twos 48 dq + bit partial_ * 2 ^ 48 + bit settle * 2 ^ 49 + bit ovr * 2 ^ 50 + bit clamp * 2 ^ 51
    + bit noForce * 2 ^ 52 + range * 2 ^ 53)

end Sys2Proof.Machine
end

