-- ==== Sys2Proof/Machine/Regs.lean ====
section
/-! DEFINITION. Die register space and the cluster windows as the diagnostic commands reach them: the words of every
register set (R78, R79, R107, R143, R171, R172, R192, R223, R276, R350, R373, R394, R415, R433, R446), what a read
clears (R11, R13), what a write sets, the latches of 64-bit pairs (R287) and the ends of blocks (R289). -/

namespace Sys2Proof.Machine

/-- The two words of a 64-bit pair at an offset. -/
def pairWords (off v : Nat) : List (Nat × Word) := [(off, loWord v), (off + 4, hiWord v)]

/-- The words of a list at equal steps from an offset. -/
def arrayWords (off step : Nat) (xs : List Word) : List (Nat × Word) := xs.zipIdx.map fun p => (off + step * p.2, p.1)

/-- A word of a register table; a register that is not listed reads 0. -/
def wordAt (ws : List (Nat × Word)) (off : Nat) : Word := (ws.lookup off).getD 0

/-! ### The register sets -/

/-- Channel registers (R78) at a TB; QLEVEL shows the FIFO's part of the code queue (R34). -/
def Chan.words (c : Chan) (tb : Tb) : List (Nat × Word) :=
  [(0x00, c.st.word), (0x04, c.fl.word), (0x08, word c.dac.force.toNat)]
    ++ arrayWords 0x10 4 (c.dac.levels.map fun v => word v.toNat)
    ++ [(0x30, word c.dacDiv), (0x34, c.cfg.word), (0x38, word (min 16 (c.join tb).queue.length)), (0x3C, word c.qEmpty)]

/-- Reference DAC and guard registers (R79). -/
def State.refWords (s : State) (d : Nat) : List (Nat × Word) :=
  let x := s.die d
  arrayWords 0x00 4 (x.refdac.map fun r => word r.code.toNat)
    ++ arrayWords 0x20 4 (x.refdac.map fun r => packWord [(0, r.shadow.toNat), (16, bit r.pending)])
    ++ x.refdac.zipIdx.flatMap (fun p => pairWords (0x40 + 8 * p.2) p.1.tick)
    ++ [(0x80, packWord [(0, x.refLate.toNat), (8, x.refSuper.toNat)])]
    ++ (List.range 8).map fun c =>
        let k := s.cluster (d * 8 + c)
        (0xA0 + 4 * c, packWord [(0, k.guardLane.toNat), (3, bit k.guardSrc)])

/-- Clock registers, with the lock-link registers of die 0 (R107). -/
def State.clockWords (s : State) (d : Nat) : List (Nat × Word) :=
  let x := s.die d
  let p := x.pll
  pairWords 0x00 (s.tbOf d)
    ++ [(0x08, packWord [(0, bit x.aligned), (1, bit x.tbLock), (2, bit x.stepped)]), (0x10, word p.set.nint.toNat),
        (0x14, p.set.frac), (0x18, word p.set.post.toNat), (0x1C, p.set.seed), (0x20, word (bit p.set.dither)),
        (0x24, p.statusWord), (0x28, word p.lolCnt)]
    ++ pairWords 0x30 p.lolTb ++ pairWords 0x38 p.syncTb
    ++ [(0x50, word x.deskewTj.toNat), (0x54, word x.squeeze)]
    ++ if d = 0 then
        [(0x80, packWord [(0, s.link.role), (8, s.link.lat)]), (0x84, s.link.statusWord), (0x88, word s.link.transit),
         (0x8C, word s.link.phaseErr.toNat), (0x90, word s.link.crcCnt)]
      else []

/-- A sequencer as its registers show it: ENDING while it still runs in a run whose end is decided (R143; log entry 53). -/
def State.seqShown (s : State) (k : Nat) : Seq :=
  let q := s.seq k
  let ending := (s.runOfCluster k).any fun r => r.state == .ending
  if ending ∧ (q.state = .running ∨ q.state = .hold) then { q with state := .ending } else q

/-- Sequencer registers (R143). -/
def Seq.words (x : Seq) : List (Nat × Word) :=
  [(0x00, x.stateWord), (0x04, x.fl.word), (0x08, packWord [(0, x.seg), (16, x.prevSeg)]), (0x0C, x.br.word)]
    ++ pairWords 0x10 x.sigma.floor.toNat ++ pairWords 0x18 (x.vecs % 2 ^ 48)
    ++ arrayWords 0x20 4 (x.loops.map fun l => loWord l.remain)
    ++ [(0x30, loWord x.gap), (0x34, loWord x.deferCnt), (0x38, loWord x.dropCnt), (0x3C, loWord x.lateCnt)]
    ++ pairWords 0x40 x.holdTb ++ pairWords 0x48 x.resumeTb
    ++ [(0x50, packWord [(0, bit x.readyA), (1, bit x.readyB), (8, min 255 x.springs.length)]), (0x54, timerWord x.timers)]

/-- Trigger, fail and capture registers (R172). -/
def State.trigWords (s : State) (k : Nat) : List (Nat × Word) :=
  let x := s.cluster k
  let g := x.trig
  [(0x000, s.trigStateWord k), (0x004, g.cfgWord), (0x008, word g.select.toNat), (0x00C, word g.thrHi.toNat),
   (0x010, word g.thrLo.toNat), (0x014, packWord [(0, bit g.holdMode), (1, bit g.rearm), (2, bit g.logIgn)])]
    ++ pairWords 0x018 g.hold.toNat ++ [(0x020, word g.max.toNat)] ++ pairWords 0x024 (g.win % 2 ^ 48)
    ++ pairWords 0x030 g.armTb ++ pairWords 0x038 g.lastTb ++ [(0x040, word g.count), (0x044, word g.ignored)]
    ++ pairWords 0x050 (x.ff.vec % 2 ^ 48) ++ pairWords 0x058 x.ff.tb
    ++ [(0x060, x.ff.detailWord), (0x064, word x.ff.seg), (0x068, x.ff.cmpWord), (0x070, word (bit x.flog.last)),
        (0x074, word x.flog.wr), (0x078, word x.flog.ovf), (0x07C, word x.flog.full)]
    ++ x.caps.zipIdx.flatMap (fun p => [(0x080 + 8 * p.2, word p.1.wr), (0x084 + 8 * p.2, word p.1.dropped)])
    ++ [(0x100, capStatusWord x.caps)]

/-- Channel measure registers (R171). -/
def Meas.words (m : Meas) : List (Nat × Word) :=
  [(0x00, packWord [(0, m.sel.toNat), (4, m.avgM1.toNat)])] ++ pairWords 0x04 m.lastTb ++ [(0x0C, m.last)]
    ++ pairWords 0x10 m.chg.toNat ++ pairWords 0x18 m.chgTb
    ++ [(0x20, packWord [(0, bit m.ovr), (1, bit m.chgSat)]), (0x24, word m.fails)]

/-- Reduction registers (R192). -/
def Red.words (x : Red) (inRun : Bool) : List (Nat × Word) :=
  [(0x00, x.stateWord inRun), (0x04, word x.flags.toNat), (0x08, x.excWord), (0x0C, word x.latMax),
   (0x10, word x.closes), (0x14, word x.load)]
    ++ x.flagTb.zipIdx.flatMap fun p => pairWords (0x40 + 8 * p.2) p.1

/-- Weir registers (R223): reservations are the sums at the TB of the read. -/
def State.weirWords (s : State) : List (Nat × Word) :=
  let w := s.weir
  let tab := s.table
  let bgnd := (s.works.filter fun x => x.cls == 3 && x.done.isNone).length
  [(0x000, word w.horizonRun), (0x004, word w.horizonBulk),
   (0x008, packWord [(0, s.tags.length), (16, bgnd), (21, s.images.length)]),
   (0x00C, packWord [(0, s.runs.length), (8, (s.runs.filter Run.started).length)]),
   (0x010, word w.decideMax), (0x014, word w.decideLate)]
    ++ (List.range 8).flatMap (fun d =>
        [(0x100 + 16 * d, packWord [(0, (s.die d).bwCap), (16, (s.die d).springCap)]),
         (0x104 + 16 * d, packWord [(0, satTo 16 (bwAt tab d s.tb)), (16, satTo 16 (springAt tab d s.tb))]),
         (0x108 + 16 * d, word (s.die d).loadCap),
         (0x10C + 16 * d, word (satTo 16 (s.powerAt tab [] d s.tb).ceil.toNat))])
    ++ (List.range 16).flatMap fun i =>
        (List.range 5).map (fun x => (0x200 + 0x20 * i + 4 * x, word (w.refuse.getD (i * 5 + x) 0)))
          ++ [(0x214 + 0x20 * i, word (w.accept.getD i 0))]

/-- Memory registers (R276). -/
def Dram.words (x : Dram) : List (Nat × Word) :=
  [(0x00, x.stateWord), (0x04, word x.ageNs.toNat), (0x08, word x.pdUs.toNat), (0x0C, word x.rhThr.toNat),
   (0x10, packWord [(0, x.interval.toNat), (16, x.eyeMin.toNat)]), (0x14, word x.trainTj.toNat)]
    ++ pairWords 0x18 x.trainTb ++ arrayWords 0x20 4 (x.eyes.map Eye.word)
    ++ [(0x30, word x.mult.toNat), (0x34, word x.rfmCnt), (0x38, word x.promoteCnt), (0x3C, word x.retrainCnt)]
    ++ pairWords 0x40 x.failTb

/-- Recovery registers, with the event-queue registers of die 0 (R350). -/
def State.recoveryWords (s : State) (d : Nat) : List (Nat × Word) :=
  let x := s.die d
  [(0x00, match x.hand with
      | some h => packWord [(0, h.scope.sev.code), (4, h.scope.locKind), (16, h.scope.location)]
      | none => 0),
   (0x04, word x.handQ.length), (0x08, word x.lastSeq), (0x0C, word x.escCnt), (0x10, word x.ovfCnt),
   (0x14, word x.wdCnt)]
    ++ if d = 0 then
        [(0x20, word s.ev.queue.length), (0x24, word s.ev.ovfCnt), (0x28, word s.ev.seqNext),
         (0x2C, word s.ev.filterCnt)] ++ pairWords 0x30 s.ev.posted
          ++ [(0x38, packWord [(0, bit s.ev.minSev), (1, bit s.ev.watch), (2, s.ev.hostLoss)])]
      else []

/-- Serial port registers (R373). -/
def Serial.words (x : Serial) : List (Nat × Word) :=
  [(0x00, packWord [(0, x.cmdW.toNat), (2, x.addrW.toNat), (4, x.dataW.toNat), (6, bit x.ddr), (8, x.dummy.toNat)]),
   (0x04, packWord [(0, x.div.toNat), (16, x.selLead.toNat), (24, x.selLag.toNat)]), (0x08, word x.selIdle.toNat),
   (0x0C, x.statusWord), (0x10, packWord [(0, x.sizeMib.toNat), (16, x.pageLog2.toNat), (20, x.mode.toNat)]),
   (0x14, word x.eraseMax), (0x18, word x.mmfCnt), (0x1C, word x.slvOvf), (0x20, word x.slvPreempt),
   (0x24, word x.jHead), (0x28, word x.jseq)]

/-- A CAL_STEP executes on a die (R394). -/
def State.stepping (s : State) (d : Nat) : Bool :=
  (s.die d).calRun.any fun x => (s.work? x.tag).any fun w => w.done.isNone

/-- The command is a CAL_STEP RANGE, which needs CALR (R383, R384). -/
def usesCalr : Instr → Bool
  | .calStep _ _ step _ _ => step == 0x0013
  | _ => false

/-- An accepted CAL_STEP of a die holds CALR (R385, R394). -/
def State.holdsCalr (s : State) (d : Nat) : Bool :=
  (s.stepping d && (s.die d).calRun.any fun x => usesCalr x.step)
    || s.works.any fun w => w.done.isNone && hasBit w.dieMask d && (match w.kind with
      | .class3 _ _ (some c) => usesCalr c
      | _ => false)

/-- The channel that a CAL_STEP names, none for the steps of a die (R384). -/
def calTarget : Instr → Option Nat
  | .calStep _ _ step arg _ => if 0x10 ≤ step.toNat then some (fieldAt arg 0 2) else none
  | _ => none

/-- A CAL_STEP on channel `n` is accepted (R393). -/
def State.calOn (s : State) (n : Nat) : Bool :=
  (s.stepping (n / 64) && (s.die (n / 64)).calRun.any fun x => calTarget x.step == some n)
    || s.works.any fun w => w.done.isNone && (match w.kind with
      | .class3 _ _ (some c) => calTarget c == some n
      | _ => false)

/-- Calibration registers (R394). -/
def State.calWords (s : State) (d : Nat) : List (Nat × Word) :=
  let x := s.die d
  let held := if d = 0 then s.dieNums.any s.holdsCalr else s.holdsCalr d
  [(0x00, packWord [(0, bit (s.dieAreaValid d)), (1, bit (s.stepping d)), (2, bit held)]),
   (0x04, packWord [(0, x.calLane.toNat), (8, if s.stepping d then x.calNet.toNat else 0)])]
    ++ pairWords 0x08 (s.calValidMask d).toNat
    ++ if d = 0 then
        [(0x10, packWord [(0, s.cal.inForce), (2, bit s.cal.aOk), (3, bit s.cal.bOk)]), (0x14, s.cal.sequence)]
      else []

/-- Thermal registers (R415). -/
def Die.thermalWords (x : Die) : List (Nat × Word) :=
  let t := x.thm
  [(0x00, x.thmWord), (0x04, word t.tj.toNat)] ++ pairWords 0x08 t.tjTb
    ++ [(0x10, word t.text.toNat), (0x14, word t.watchMs.toNat),
        (0x18, packWord [(0, t.warn.toNat), (16, t.throttle.toNat)]),
        (0x1C, packWord [(0, t.shut.toNat), (16, t.graceMs.toNat)])]
    ++ pairWords 0x20 t.graceTb
    ++ [(0x28, word t.shedCnt), (0x2C, word (satTo 32 (t.hotNs / 1000000))), (0x30, word t.tjMax.toNat), (0x34, t.shA),
        (0x38, t.shB), (0x3C, t.shC)]

/-- RPS registers (R433). -/
def State.rpsWords (s : State) (d : Nat) : List (Nat × Word) :=
  let x := (s.die d).rps
  [(0x00, x.statusWord), (0x04, x.patchVer),
   (0x08, packWord [(0, x.faultAddr.toNat), (16, x.faultCtx.toNat), (20, x.faultKind.toNat)]),
   (0x0C, word x.reqCnt), (0x10, word x.abandonCnt)]
    ++ arrayWords 0x20 4 (x.ctxs.zipIdx.map fun p => (s.microNow d p.2).word p.1.mask) ++ arrayWords 0x40 4 (x.ctxs.map fun c => word c.selfTest.toNat)
    ++ arrayWords 0x80 4 (x.matchRegs.map fun m => packWord [(0, m.1.toNat), (12, m.2.1.toNat), (31, bit m.2.2)])

/-- Boot registers of die 0 (R446). -/
def State.bootWords (s : State) : List (Nat × Word) :=
  [(0x00, s.boot.infoWord), (0x04, word s.otp.rollback), (0x08, word s.boot.rollback), (0x0C, word s.boot.dieOff.toNat)]
    ++ s.boot.stageTb.zipIdx.flatMap (fun p => pairWords (0x10 + 8 * p.2) p.1)
    ++ arrayWords 0x60 4 s.otp.keyHash

/-! ### Places -/

/-- Where a part address lies (R29): a register of a set, with the instance within the set, the offset in its block and
the block's size (R289); or a cluster's memory, 0 the vector SRAM, 1 the capture SRAM, 2 the recipe store. -/
inductive Place where
  | reg (d set idx off size : Nat)
  | mem (k which off size : Nat)
  deriving DecidableEq, Repr

/-- The stride and number of the instances of a register set (R289), 0 for a set of one 64 KiB block. -/
def setStride (set : Nat) : Nat × Nat :=
  match set with
  | 1 => (0x40, 64)
  | 6 => (0x40, 64)
  | 4 => (0x100, 8)
  | 5 => (0x200, 8)
  | 7 => (0x100, 8)
  | _ => (0, 0)

/-- The place of an offset in die register space. -/
def regPlace (d off : Nat) : Place :=
  let set := off / 0x10000
  let o := off % 0x10000
  let (stride, n) := setStride set
  if stride ≠ 0 ∧ o / stride < n then .reg d set (o / stride) (o % stride) stride
  else .reg d (if stride = 0 then set else 0) 0 o 0x10000

/-- The place of a part address that the diagnostic commands reach (R29, R304); none outside the regions or on an
absent die. -/
def State.placeOf (s : State) (a : Nat) : Option Place :=
  let d := a / 2 ^ 37
  let loc := a % 2 ^ 37
  if a % 4 ≠ 0 ∨ s.hasDie d = false then none
  else if 0x1800000000 ≤ loc ∧ loc < 0x1801000000 then some (regPlace d (loc - 0x1800000000))
  else if 0x1000000000 ≤ loc ∧ loc < 0x1008000000 then
    let k := d * 8 + (loc - 0x1000000000) / 0x1000000
    let o := loc % 0x1000000
    if o < 0x200000 then some (.mem k 0 o 0x200000)
    else if 0x400000 ≤ o ∧ o < 0x440000 then some (.mem k 1 (o - 0x400000) 0x40000)
    else if 0x600000 ≤ o ∧ o < 0x608000 then some (.mem k 2 (o - 0x600000) 0x8000)
    else none
  else none

/-- Words from a place to the end of its block. -/
def Place.left : Place → Nat
  | .reg _ _ _ off size => (size - off) / 4
  | .mem _ _ off size => (size - off) / 4

/-- The registers of the block that holds a place. -/
def State.setWords (s : State) (d set idx : Nat) : List (Nat × Word) :=
  let k := d * 8 + idx
  match set with
  | 0x1 => (s.chan (d * 64 + idx)).words s.tb
  | 0x2 => s.refWords d
  | 0x3 => s.clockWords d
  | 0x4 => (s.seqShown k).words
  | 0x5 => s.trigWords k
  | 0x6 => (s.chan (d * 64 + idx)).meas.words
  | 0x7 => (s.red k).words (s.seq k).inRun
  | 0x8 => if d = 0 then s.weirWords else []
  | 0x9 => (s.die d).dram.words
  | 0xA => s.recoveryWords d
  | 0xB => if d = 0 then s.serial.words else []
  | 0xC => s.calWords d
  | 0xD => (s.die d).thermalWords
  | 0xE => s.rpsWords d
  | 0xF => if d = 0 then s.bootWords else []
  | _ => []

/-- Offsets that a read of a register latches (R287, R171). -/
def latched (set off : Nat) : List Nat :=
  let arr (lo step n : Nat) : Bool := decide (lo ≤ off) && decide (off < lo + step * n) && decide ((off - lo) % step = 0)
  let pair : Bool := match set with
    | 0x2 => arr 0x40 8 8
    | 0x3 => off == 0x00 || off == 0x30 || off == 0x38
    | 0x4 => off == 0x10 || off == 0x18 || off == 0x40 || off == 0x48
    | 0x5 => off == 0x18 || off == 0x24 || off == 0x30 || off == 0x38 || off == 0x50 || off == 0x58
    | 0x7 => arr 0x40 8 16
    | 0x9 => off == 0x18 || off == 0x40
    | 0xA => off == 0x30
    | 0xC => off == 0x08
    | 0xD => off == 0x08 || off == 0x20
    | 0xF => arr 0x10 8 8
    | _ => false
  if set = 0x6 ∧ off = 0x04 then [0x08, 0x0C]
  else if set = 0x6 ∧ off = 0x10 then [0x14, 0x18, 0x1C]
  else if pair then [off + 4] else []

/-- The register is read through a latch: some register of its set latches it. -/
def isLatched (set off : Nat) : Bool :=
  (latched set (off - 4)).contains off || (set == 0x6 && (off == 0x0C || off == 0x18 || off == 0x1C))

/-! ### What a read clears, what a write sets -/

/-- The effect of a read of a register on its RC fields (R11). "Clears" means 0 for every count; THM_TJ_MAX goes back to
its reset value 0x8000, "no reading yet", because 0 would be a temperature (DESIGN CHOICE, unsafe, log entry 77). -/
def State.regClear (s : State) (d set idx off : Nat) : State :=
  let k := d * 8 + idx
  match set with
  | 0x1 => if off = 0x3C then s.updChan (d * 64 + idx) fun c => { c with qEmpty := 0 } else s
  | 0x3 =>
    if off = 0x28 then s.updPll d fun p => { p with lolCnt := 0 }
    else if off = 0x54 then s.updDie d fun x => { x with squeeze := 0 }
    else if off = 0x90 ∧ d = 0 then s.updLink fun l => { l with crcCnt := 0 }
    else s
  | 0x4 =>
    if off = 0x34 then s.updSeq k fun x => { x with deferCnt := 0 }
    else if off = 0x38 then s.updSeq k fun x => { x with dropCnt := 0 }
    else if off = 0x3C then s.updSeq k fun x => { x with lateCnt := 0 }
    else s
  | 0x5 =>
    if off = 0x44 then s.updTrig k fun x => { x with ignored := 0 }
    else if off = 0x78 then s.updCluster k fun x => { x with flog := { x.flog with ovf := 0 } }
    else if off = 0x7C then s.updCluster k fun x => { x with flog := { x.flog with full := 0 } }
    else if 0x84 ≤ off ∧ off < 0x104 ∧ off % 8 = 4 then s.updCap k ((off - 0x84) / 8) fun x => { x with dropped := 0 }
    else s
  | 0x7 => if off = 0x10 then s.updRed k fun x => { x with closes := 0 } else s
  | 0x8 =>
    if d ≠ 0 then s
    else if off = 0x10 then { s with weir := { s.weir with decideMax := 0 } }
    else if off = 0x14 then { s with weir := { s.weir with decideLate := 0 } }
    else if 0x200 ≤ off ∧ off < 0x400 ∧ off % 4 = 0 then
      let i := (off - 0x200) / 0x20
      let x := off % 0x20 / 4
      if x < 5 then { s with weir := { s.weir with refuse := s.weir.refuse.set (i * 5 + x) 0 } }
      else if x = 5 then { s with weir := { s.weir with accept := s.weir.accept.set i 0 } }
      else s
    else s
  | 0x9 =>
    if off = 0x34 then s.updDram d fun x => { x with rfmCnt := 0 }
    else if off = 0x38 then s.updDram d fun x => { x with promoteCnt := 0 }
    else if off = 0x3C then s.updDram d fun x => { x with retrainCnt := 0 }
    else s
  | 0xA =>
    if off = 0x0C then s.updDie d fun x => { x with escCnt := 0 }
    else if off = 0x10 then s.updDie d fun x => { x with ovfCnt := 0 }
    else if off = 0x24 ∧ d = 0 then s.updEv fun v => { v with ovfCnt := 0 }
    else if off = 0x2C ∧ d = 0 then s.updEv fun v => { v with filterCnt := 0 }
    else s
  | 0xB =>
    if d ≠ 0 then s
    else if off = 0x18 then s.updSerial fun x => { x with mmfCnt := 0 }
    else if off = 0x1C then s.updSerial fun x => { x with slvOvf := 0 }
    else if off = 0x20 then s.updSerial fun x => { x with slvPreempt := 0 }
    else s
  | 0xD =>
    if off = 0x28 then s.updThm d fun x => { x with shedCnt := 0 }
    else if off = 0x30 then s.updThm d fun x => { x with tjMax := 0x8000 }
    else s
  | 0xE =>
    if off = 0x0C then s.updRps d fun x => { x with reqCnt := 0 }
    else if off = 0x10 then s.updRps d fun x => { x with abandonCnt := 0 }
    else s
  | _ => s

/-- Set MEAS_CFG of a channel (R144, R145): a new averaging holds from the next multiple of N x 1,000. -/
def Meas.config (m : Meas) (sel : BitVec 2) (avgM1 : BitVec 16) (tb : Tb) : Meas :=
  let m := { m with sel }
  if avgM1 = m.avgM1 then m else { m with avgM1, avgFrom := roundUp tb ((avgM1.toNat + 1) * 1000) }

/-- Set the guard of a cluster, unless a run holds a channel of it (R79). -/
def State.setGuard (s : State) (k : Nat) (lane : BitVec 3) (src : Bool) : State :=
  if (List.range 8).any fun l => s.held (chanOf k l) then s
  else s.updCluster k fun x => { x with guardLane := lane, guardSrc := src }

/-- A write of a register word under its field access codes (R11, R12) and the rules of its chapter (R78, R79). -/
def State.regSet (s : State) (d set idx off : Nat) (v : Word) : State :=
  let k := d * 8 + idx
  let n := d * 64 + idx
  match set with
  | 0x1 =>
    if off = 0x04 then s.updChan n fun c => { c with fl := c.fl.clear v }
    else if (s.chan n).st.inRun then s
    else if off = 0x30 then s.updChan n fun c => { c with dacDiv := max 50 (v.toNat % 0x10000) }
    else if off = 0x34 then s.updChan n fun c => { c with cfg := ChCfg.ofBits v }
    else s
  | 0x2 =>
    if off = 0x80 then s.updDie d fun x =>
      { x with refLate := x.refLate &&& ~~~(v.setWidth 8), refSuper := x.refSuper &&& ~~~((v >>> 8).setWidth 8) }
    else if 0xA0 ≤ off ∧ off < 0xC0 ∧ off % 4 = 0 then s.setGuard (d * 8 + (off - 0xA0) / 4) (v.setWidth 3) (hasBit v 3)
    else s
  | 0x3 =>
    if off = 0x08 then s.updDie d fun x => { x with stepped := x.stepped && !hasBit v 2 }
    else if off = 0x24 then s.updPll d fun p =>
      { p with lol := p.lol && !hasBit v 5, guardHit := p.guardHit && !hasBit v 6 }
    else if off = 0x84 ∧ d = 0 then s.updLink fun l => { l with late := l.late && !hasBit v 3 }
    else s
  | 0x4 => if off = 0x04 then s.updSeq k fun x => { x with fl := x.fl.clear v } else s
  | 0x6 =>
    if off = 0x20 then s.updChan n fun c =>
      { c with meas := { c.meas with ovr := c.meas.ovr && !hasBit v 0, chgSat := c.meas.chgSat && !hasBit v 1 } }
    else if off = 0x00 ∧ (s.chan n).st.inRun = false then s.updChan n fun c =>
      { c with meas := c.meas.config (if v.setWidth 2 = 3#2 then c.meas.sel else v.setWidth 2) ((v >>> 4).setWidth 16) s.tb }
    else s
  | 0x7 => if off = 0x08 then s.updRed k fun x => x.clearExc v else s
  | 0xB =>
    if off = 0x0C ∧ d = 0 then s.updSerial fun x =>
      { x with mmf := x.mmf && !hasBit v 2, xipTo := x.xipTo && !hasBit v 4, verifyFail := x.verifyFail && !hasBit v 5,
               slvFraming := x.slvFraming && !hasBit v 6 }
    else s
  | _ => s

/-! ### Words, bursts and paths -/

/-- What capture data makes of the capture SRAM is not given, so while a stream of the cluster has a share of it, its
words are free values (R153, R159; log entry 7). -/
def State.captureBusy (s : State) (k : Nat) : Bool := (s.cluster k).caps.any fun c => c.mode != 0

/-- Read one word at a place on a path: the word, the path's latches and the state after the read (R11, R287). `key` is
the part address of the place. -/
def State.readPlace (s : State) (lat : Latches) (key : Nat) : Place → Word × Latches × State
  | .reg d set idx off _ =>
    let ws := s.setWords d set idx
    let v := if isLatched set off then (lat.lookup key).getD 0 else wordAt ws off
    let new := (latched set off).map fun o => (key - off + o, wordAt ws o)
    (v, new ++ lat.filter (fun p => !(new.any fun q => q.1 == p.1)), s.regClear d set idx off)
  | .mem k which off _ =>
    let x := s.cluster k
    if which = 1 ∧ s.captureBusy k then
      let (v, s) := s.takeFree
      (v.setWidth 32, lat, s)
    else
      let m := if which = 0 then x.vsram else if which = 1 then x.csram else x.rstore
      (word (Mem.le ramByte m off 4), lat, s)

/-- Write one word at a place (R305). -/
def State.writePlace (s : State) (v : Word) : Place → State
  | .reg d set idx off _ => s.regSet d set idx off v
  | .mem k which off _ =>
    s.updCluster k fun x =>
      let put (m : Mem) : Mem := Mem.setBytes ramByte m off (leBytes 4 v.toNat)
      if which = 0 then { x with vsram := put x.vsram }
      else if which = 1 then { x with csram := put x.csram }
      else { x with rstore := put x.rstore }

/-- The place `j` words on in the same block. -/
def Place.plus (p : Place) (j : Nat) : Place :=
  match p with
  | .reg d set idx off size => .reg d set idx (off + 4 * j) size
  | .mem k which off size => .mem k which (off + 4 * j) size

/-- Read `n` words from a place on (ascending addresses). -/
def State.readRun (s : State) (lat : Latches) (key : Nat) (p : Place) : Nat → List Word × Latches × State
  | 0 => ([], lat, s)
  | n + 1 =>
    let (v, lat, s) := s.readPlace lat key p
    let (vs, lat, s) := State.readRun s lat (key + 4) (p.plus 1) n
    (v :: vs, lat, s)

/-- Write words from a place on. -/
def State.writeRun (s : State) (p : Place) : List Word → State
  | [] => s
  | v :: vs => State.writeRun (s.writePlace v p) (p.plus 1) vs

/-- The die of a place. -/
def Place.die : Place → Nat
  | .reg d _ _ _ _ => d
  | .mem k _ _ _ => dieOfCluster k

/-- A place of a die that is reachable (R316). -/
def State.placeServed (s : State) (p : Place) : Bool :=
  let st := (s.die p.die).st
  st == .active || st == .thermalOff

/-- A burst of register reads (R289, R305, R333): a status, the words with zeros past the block's end, the count of
valid words, and the latches and state after it. -/
def State.burstRead (s : State) (lat : Latches) (a count : Nat) : Status × List Word × Nat × Latches × State :=
  match s.placeOf a with
  | none => (.badArg, [], 0, lat, s)
  | some p =>
    if s.placeServed p = false then (.notAvailable, [], 0, lat, s)
    else
      let n := min count p.left
      let (ws, lat, s) := s.readRun lat a p n
      (if n < count then .short else .ok, ws ++ List.replicate (count - n) 0, n, lat, s)

/-- A burst of register writes (R289, R305, R333). -/
def State.burstWrite (s : State) (a : Nat) (ws : List Word) : Status × Nat × State :=
  match s.placeOf a with
  | none => (.badArg, 0, s)
  | some p =>
    if s.placeServed p = false then (.notAvailable, 0, s)
    else
      let n := min ws.length p.left
      (if n < ws.length then .short else .ok, n, s.writeRun p (ws.take n))

end Sys2Proof.Machine
end

