-- ==== Sys2Proof/Machine/Chan.lean ====
section
/-! DEFINITION. Channel commands (R322, R323) and the steps that complete them: RPS_DONE (R20) and REFDAC_UPDATE
(R51). -/

namespace Sys2Proof.Machine

/-! ### Settings of a channel -/

/-- Answers of the state checks that every command naming lanes of a cluster shares (R64, R197, R316, R420): the die
serves channels; no named lane, with its gang, is held by an accepted run; and, for a command that needs the RPS, no run
is accepted on the cluster's lock group. -/
def State.lanesFree (s : State) (k : Nat) (lanes : BitVec 8) (rps : Bool) : Option (Status × Nat) :=
  match s.unavailable [dieOfCluster k] true with
  | some e => some e
  | none => firstErr
      [((lanesOf k (s.wholeGangs k lanes)).all fun n => !s.held n, .badState, dHeld),
       (!rps || (s.groupOf k).all fun g => (s.runsOf g).isEmpty, .badState, dHeld)]

/-- The new standing charge of a channel that `f` changes after what it has accepted already (R208). -/
def State.newCharge (s : State) (n : Nat) (f : Chan → Chan) : Nat × Rat := (n, (f (s.futureChan n)).charge)

/-- The plan of a command that needs the RPS (R214, R421): its bound with those queued ahead on the cluster, and the
power that its new standing charges need; a command that gives none is not held to the power budget (R208). -/
def State.rpsPlan (s : State) (h : Hdr) (k : Nat) (op : RpsOp) (changes : Bool) (extra : List (Nat × Rat)) : Plan :=
  let d := dieOfCluster k
  { group := s.groupOf k, dies := dieBit d, kind := .rps (s.die d).rps.nextId, tab := s.table
    ask := s.timed h (s.bound (op.bound changes + s.queuedBound k))
      fun c => if extra.isEmpty then none else s.powerShort d extra c }

/-- The plan of a command without a row of its own in R214: 10 µs, decided against slots and the outlet. -/
def State.quickPlan (s : State) (h : Hdr) (group : Option Nat) (dies : BitVec 8) : Plan :=
  { group, dies, ask := s.timed h (s.bound 10000) }

/-! ### Channel commands -/

/-- A channel with the groups that CHANNEL_CONFIG applies at once: CFG, MEAS and DAC_DIV (R78, R144, R322). -/
def Chan.configure (c : Chan) (apply cfg measSel : BitVec 8) (avgM1 dacDiv : BitVec 16) (tb : Tb) : Chan :=
  let c := if hasBit apply 1 then { c with cfg := ChCfg.ofBits cfg } else c
  let c := if hasBit apply 2 then { c with meas := c.meas.config (measSel.setWidth 2) avgM1 tb } else c
  if hasBit apply 3 then { c with dacDiv := max 50 dacDiv.toNat } else c

/-- CHANNEL_CONFIG (R322, R323). -/
def execChannelConfig (t : Tb) (h : Hdr) (k : BitVec 8) (lanes : BitVec 8) (apply : BitVec 8) (mode : BitVec 8)
    (cfg : BitVec 8) (measSel : BitVec 8) (avgM1 : BitVec 16) (dacDiv : BitVec 16) (s : State) :
    Host.Outcome State Fault Refusal :=
  let ns := lanesOf k lanes
  let rps := hasBit apply 0
  let m := (Mode.ofCode mode.toNat).getD .off
  let op := RpsOp.config m
  let plan (s : State) : (Status × Nat) ⊕ Plan :=
    match s.lanesFree k.toNat lanes rps <|> firstErr [(!rps || ns.all s.connected, .badState, dState)] with
    | some e => .inl e
    | none =>
      .inr (if rps then
        s.rpsPlan h k.toNat op false (ns.map fun n => s.newCharge n fun c => { c with st := { c.st with mode := m } })
      else s.quickPlan h (s.groupOf k.toNat) (dieBit (dieOfCluster k.toNat)))
  .next (s.request t (.channelConfig t h k lanes apply mode cfg measSel avgM1 dacDiv) plan fun s _ _ _ =>
    let s := s.updChans (fun n _ => ns.contains n) fun _ c => c.configure apply cfg measSel avgM1 dacDiv s.tb
    if rps then
      s.rpsSubmit (dieOfCluster k.toNat) (k.toNat % 8) (s.wholeGangs k.toNat lanes) (some h.tag) op
    else s.finish h.tag .ok 0 0 0)

/-- CHANNEL_CONNECT (R65, R322, R323). -/
def execChannelConnect (t : Tb) (h : Hdr) (k : BitVec 8) (lanes : BitVec 8) (mode : BitVec 8) (range : BitVec 8)
    (force : BitVec 32) (levels : List (BitVec 16)) (s : State) : Host.Outcome State Fault Refusal :=
  let ns := lanesOf k lanes
  let d := dieOfCluster k.toNat
  let m := (Mode.ofCode mode.toNat).getD .off
  let r : BitVec 3 := range.setWidth 3
  let x : Codes := { force := force.setWidth 18, levels }
  let op := RpsOp.connect m r x
  let plan (s : State) : (Status × Nat) ⊕ Plan :=
    match s.lanesFree k.toNat lanes true <|> firstErr
      [((lanesOf k (s.wholeGangs k.toNat lanes)).all fun n =>
          !((s.chan n).st.otDrvLive || (s.chan n).st.otPmuLive), .badState, dOtActive),
       ((s.die d).thm.watchMs != 0, .badState, dState),
       (ns.all fun n => !s.connected n, .badState, dState)] with
    | some e => .inl e
    | none => .inr (s.rpsPlan h k.toNat op false (ns.map fun n => s.newCharge n fun c => c.connect m r x))
  .next (s.request t (.channelConnect t h k lanes mode range force levels) plan fun s _ _ _ =>
    s.rpsSubmit d (k.toNat % 8) (s.wholeGangs k.toNat lanes) (some h.tag) op)

/-- CHANNEL_DISCONNECT (R67, R69, R322). -/
def execChannelDisconnect (t : Tb) (h : Hdr) (k : BitVec 8) (lanes : BitVec 8) (s : State) :
    Host.Outcome State Fault Refusal :=
  let plan (s : State) : (Status × Nat) ⊕ Plan :=
    match s.lanesFree k.toNat lanes true with
    | some e => .inl e
    | none =>
      let m := s.wholeGangs k.toNat lanes
      .inr (s.rpsPlan h k.toNat .disconnect (s.stillChangesRange k.toNat m) [])
  .next (s.request t (.channelDisconnect t h k lanes) plan fun s _ _ _ =>
    s.rpsSubmit (dieOfCluster k.toNat) (k.toNat % 8) (s.wholeGangs k.toNat lanes) (some h.tag) .disconnect)

/-- CHANNEL_RANGE (R72, R322). -/
def execChannelRange (t : Tb) (h : Hdr) (k : BitVec 8) (lanes : BitVec 8) (range : BitVec 8) (s : State) :
    Host.Outcome State Fault Refusal :=
  let r : BitVec 3 := range.setWidth 3
  let plan (s : State) : (Status × Nat) ⊕ Plan :=
    match s.lanesFree k.toNat lanes true with
    | some e => .inl e
    | none => .inr (s.rpsPlan h k.toNat (.range r) false
        ((lanesOf k lanes).map fun n => s.newCharge n fun c => { c with st := { c.st with range := r } }))
  .next (s.request t (.channelRange t h k lanes range) plan fun s _ _ _ =>
    s.rpsSubmit (dieOfCluster k.toNat) (k.toNat % 8) (s.wholeGangs k.toNat lanes) (some h.tag) (.range r))

/-- The update group of a CHANNEL_FORCE: one entry per kind named, the last with APPLY (R43, R323). -/
def forceGroup (kinds : BitVec 8) (force : BitVec 32) (levels : List (BitVec 16)) : List QEntry :=
  let es := (bitsOf kinds).map fun i =>
    ({ code := if i = 0 then force.setWidth 18 else (levels.getD (i - 1) 0).setWidth 18, kind := BitVec.ofNat 3 i,
       apply := false } : QEntry)
  es.zipIdx.map fun p => { p.1 with apply := p.2 + 1 == es.length }

/-- CHANNEL_FORCE (R44, R322, R323): each lane applies its group at its first instant at least 5 µs after the decision. -/
def execChannelForce (t : Tb) (h : Hdr) (k : BitVec 8) (lanes : BitVec 8) (kinds : BitVec 8) (force : BitVec 32)
    (levels : List (BitVec 16)) (s : State) : Host.Outcome State Fault Refusal :=
  let ns := lanesOf k lanes
  let d := dieOfCluster k.toNat
  let es := forceGroup kinds force levels
  let plan (s : State) : (Status × Nat) ⊕ Plan :=
    match s.lanesFree k.toNat lanes false with
    | some e => .inl e
    | none =>
      let extra := ns.map fun n => s.newCharge n fun c => { c with dac := c.dac.load es }
      let div := maxOf (ns.map fun n => (s.chan n).dacDiv)
      .inr { group := s.groupOf k.toNat, dies := dieBit d, kind := .force d, tab := s.table
             ask := s.timed h (s.bound (div * 10 + 1000)) (s.powerShort d extra) }
  .next (s.request t (.channelForce t h k lanes kinds force levels) plan fun s _ _ _ =>
    s.updChans (fun n _ => ns.contains n) fun _ c =>
      { c with forces := c.forces ++ [{ tag := h.tag, instant := s.tb + 5000, entries := es }] })

/-- CHANNEL_MEASURE (R322, R323). -/
def execChannelMeasure (t : Tb) (h : Hdr) (k : BitVec 8) (lanes : BitVec 8) (s : State) :
    Host.Outcome State Fault Refusal :=
  let n := chanOf k.toNat ((bitsOf lanes).headD 0)
  let d := dieOfCluster k.toNat
  let plan (s : State) : (Status × Nat) ⊕ Plan :=
    match s.unavailable [d] true with
    | some e => .inl e
    | none => .inr { group := s.groupOf k.toNat, dies := dieBit d, kind := .measure n (s.tb + 5000)
                     ask := s.timed h (s.bound (2000 * ((s.chan n).meas.avgM1.toNat + 1))) }
  .next (s.request t (.channelMeasure t h k lanes) plan fun s _ _ _ => s)

/-- GANG_SET (R76, R323). -/
def execGangSet (t : Tb) (h : Hdr) (k : BitVec 8) (l0 : BitVec 8) (m : BitVec 8) (range : BitVec 8) (s : State) :
    Host.Outcome State Fault Refusal :=
  let kk := k.toNat
  let form := m != 0
  let op := if form then RpsOp.gangForm l0.toNat m.toNat (range.setWidth 3) else .gangDissolve l0.toNat
  let lanes (s : State) : BitVec 8 :=
    if form then maskOf 8 ((List.range m.toNat).map (· + l0.toNat)) else maskOf 8 (s.gangLanes (chanOf kk l0.toNat))
  let plan (s : State) : (Status × Nat) ⊕ Plan :=
    let ns := lanesOf k (lanes s)
    let ganged (c : Chan) : Bool := c.st.gangMember || c.st.gangMeas
    match s.lanesFree kk (lanes s) true <|> firstErr
      [(ns.all fun n => (s.chan n).st.still && !s.connected n, .badState, dState),
       (!form || ns.all fun n => !ganged (s.chan n) && !ganged (s.futureChan n), .badState, dState)] with
    | some e => .inl e
    | none => .inr (s.rpsPlan h kk op false [])
  .next (s.request t (.gangSet t h k l0 m range) plan fun s _ _ _ =>
    s.rpsSubmit (dieOfCluster kk) (kk % 8) (lanes s) (some h.tag) op)

/-- Reference DAC `j` of die `d`. -/
def State.refDac (s : State) (d j : Nat) : RefDac :=
  (s.die d).refdac.getD j { code := 0, shadow := 0, pending := false, tick := 0, cmd := 0, out := 0 }

/-- The effect of an accepted REF_DAC_SET (R51, R52): too late, it changes nothing but LATE; else it replaces what is
pending. -/
def State.refSet (s : State) (h : Hdr) (d j : Nat) (code : BitVec 16) (tick : Tb) : State :=
  if tick ≤ s.tb then
    (s.updDie d fun x => { x with refLate := setBit x.refLate j }).finish h.tag .timeout 0x01 0 0
  else
    let old := s.refDac d j
    let s := s.updDie d fun x =>
      { x with
        refdac := x.refdac.modify j fun r => { r with shadow := code, pending := true, tick, cmd := h.tag }
        refSuper := if old.pending then setBit x.refSuper j else x.refSuper }
    if old.pending then s.finish old.cmd .revoked 0x06 0 0 else s

/-- REF_DAC_SET (R51, R52, R322). -/
def execRefDacSet (t : Tb) (h : Hdr) (die : BitVec 8) (j : BitVec 8) (code : BitVec 16) (tick : BitVec 64) (s : State) :
    Host.Outcome State Fault Refusal :=
  let d := die.toNat
  let plan (s : State) : (Status × Nat) ⊕ Plan :=
    orPlan (s.unavailable [d] true)
      { dies := dieBit d, kind := .refdac d j.toNat, ask := s.timed h (tick.toNat + 10030) }
  .next (s.request t (.refDacSet t h die j code tick) plan fun s _ _ _ => s.refSet h d j.toNat code tick.toNat)

/-- GUARD_SET (R79, R322). -/
def execGuardSet (t : Tb) (h : Hdr) (k : BitVec 8) (guard : BitVec 8) (s : State) : Host.Outcome State Fault Refusal :=
  let kk := k.toNat
  let d := dieOfCluster kk
  let plan (s : State) : (Status × Nat) ⊕ Plan :=
    orPlan (s.unavailable [d] true <|> firstErr
      [((List.range 8).all fun l => !s.held (chanOf kk l), .badState, dHeld)]) (s.quickPlan h (s.groupOf kk) (dieBit d))
  .next (s.requestNow t h (.guardSet t h k guard) plan fun s => (0, s.setGuard kk (guard.setWidth 3) (hasBit guard 3)))

/-- CHANNEL_QUERY (R322). -/
def execChannelQuery (t : Tb) (h : Hdr) (n : BitVec 16) (s : State) : Host.Outcome State Fault Refusal :=
  .next (s.immediate t (.channelQuery t h n) fun s =>
    match s.unavailable [n.toNat / 64] false with
    | some (st, e) => ({ status := st, detail := e }, s)
    | none =>
      let c := s.chan n.toNat
      ({ result := resultOf [(0x10, c.st.word.toNat), (0x14, c.fl.word.toNat), (0x18, c.dac.force.toNat),
                             (0x1C, c.meas.last.toNat)] }, s))

/-! ### Completions -/

/-- REFDAC_UPDATE (R51, R374, R388): every pending shadow of die `d` whose tick is now moves to its DAC, under the
coefficients of that instant, and its command is answered. -/
def execRefdacUpdate (t : Tb) (d : Nat) (s : State) : Host.Outcome State Fault Refusal :=
  let s := s.at t
  let due := (s.die d).refdac.filter fun r => r.pending && r.tick == s.tb
  let s := s.updDie d fun x =>
    { x with refdac := x.refdac.mapIdx fun j r =>
        if r.pending && r.tick == s.tb then
          { r with code := r.shadow, pending := false, out := s.refDacCode d j r.shadow.toNat }
        else r }
  .next (due.foldl (fun s r => s.finish r.cmd .ok 0 0 0) s)

end Sys2Proof.Machine
end

