-- ==== Sys2Proof/Machine/Clock.lean ====
section
/-! DEFINITION. The pattern PLL's frequencies and tracked steps (R85 to R89, R97, R132). -/

namespace Sys2Proof.Machine

/-- The tick that contains an exact time (R119). -/
def tick (x : Rat) : Tb := x.floor.toNat

/-- N + F / 2^32: the VCO frequency in units of 100 MHz (R85, R86). -/
def PllSetting.mult (p : PllSetting) : Rat := (p.nint.toNat : Rat) + (p.frac.toNat : Rat) / 2 ^ 32

/-- The ×4 period in ns (R97). -/
def PllSetting.t4 (p : PllSetting) : Rat := if p.mult = 0 then 5 / 2 else (p.post.toNat : Rat) * 10 / p.mult

/-- The setting a PLL moves to, or its present one (R88). -/
def Pll.goal (p : Pll) : PllSetting := p.target.getD p.set

/-- The ×4 period that a cluster takes at a segment start: the nominal one of the PLL's present target (R97, R117), 2.5 ns
in holdover (R93). -/
def Pll.t4 (p : Pll) : Rat := if p.holdover then 5 / 2 else p.goal.t4

/-- The PAT period in ns. -/
def Pll.pat (p : Pll) : Rat := 4 * p.t4

/-- The VCO frequency at `tb`, in units of 100 MHz: 10 ppm/µs of the frequency a tracked step began at (R88). -/
def Pll.multAt (p : Pll) (tb : Tb) : Rat :=
  match p.target with
  | some x =>
    if p.tracking then
      let step := p.from_ * (tb - p.startTb : Nat) / 10 ^ 8
      if p.from_ ≤ x.mult then min x.mult (p.from_ + step) else max x.mult (p.from_ - step)
    else x.mult
  | none => p.set.mult

/-- A change to `x` is a tracked step rather than a relock (R88): Q is kept, and the new VCO lies within ±1,000 ppm of the
reference frequency. -/
def Pll.tracks (p : Pll) (x : PllSetting) : Bool :=
  let ref := p.goal.mult
  x.post == p.goal.post && decide (x.mult ≤ ref * 1001 / 1000) && decide (ref * 999 / 1000 ≤ x.mult)

/-! ### The modulator (R87) -/

/-- A modulator that is loaded from SEED with its accumulators cleared (R87). -/
def Modulator.load (seed : BitVec 32) (tb : Tb) : Modulator := { lfsr := seed, acc1 := 0, acc2 := 0, acc3 := 0, asOf := tb }

/-- One REF cycle of the modulator with input `x` (R87): the output bit of the 32-bit Galois LFSR with polynomial
x^32 + x^22 + x^2 + x + 1 is added to the least significant bit of the input. That the LFSR shifts towards bit 0, which is its
output, and that the third order is three accumulators in a row is presumed (PRESUMED, unsafe, log entry 79). -/
def Modulator.step (m : Modulator) (x : BitVec 32) (dither : Bool) : Modulator :=
  let out : BitVec 32 := if dither then m.lfsr &&& 1 else 0
  let acc1 := m.acc1 + x + out
  let acc2 := m.acc2 + acc1
  let half := m.lfsr >>> 1
  { m with
    acc1, acc2, acc3 := m.acc3 + acc2
    lfsr := if !dither then m.lfsr else if m.lfsr.getLsbD 0 then half ^^^ 0x80200003 else half }

/-- The modulator input at `tb`: the fraction of the VCO frequency (R86, R88). -/
def Pll.input (p : Pll) (tb : Tb) : BitVec 32 := BitVec.ofNat 32 (p.multAt tb * 2 ^ 32).floor.toNat

/-- `n` REF cycles of the modulator, the first at `10 * i`. -/
def Pll.cycles (p : Pll) : Nat → Nat → Modulator → Modulator
  | 0, _, m => m
  | n + 1, i, m => p.cycles n (i + 1) (m.step (p.input (10 * i)) p.goal.dither)

/-- The modulator as of `tb`: REF has 100 MHz, and its cycles lie on TB multiples of 10 ns (R87; log entry 79). -/
def Pll.modulatorAt (p : Pll) (tb : Tb) : Modulator :=
  let first := p.modulator.asOf / 10 + 1
  { p.cycles (tb / 10 + 1 - first) first p.modulator with asOf := tb }

/-! ### The edges (R469) -/

/-- The ×4 cycles from an edge at `edge` until `tb` (R88, R469): a tracked step moves the edges with its frequency. -/
def Pll.turns (p : Pll) (edge : Rat) (tb : Tb) : Rat :=
  let q : Rat := 10 * (p.goal.post.toNat : Rat)
  if p.tracking then
    let dt : Rat := ((tb - p.startTb : Nat) : Rat)
    let len : Rat := if p.from_ = 0 then 0 else
      let d := p.goal.mult / p.from_ - 1
      (if d < 0 then -d else d) * 10 ^ 8
    let slewed := min dt len
    ((((p.startTb : Nat) : Rat) - edge) * p.from_ + (p.from_ + p.multAt tb) / 2 * slewed + p.goal.mult * (dt - slewed)) / q
  else (((tb : Nat) : Rat) - edge) * p.set.mult / q

/-- The instant of an edge at `tb`, counted back at the frequency of `tb` (R469). -/
def Pll.edgeNow (p : Pll) (tb : Tb) : Option Rat :=
  let f := p.multAt tb
  p.edge.map fun e => if f = 0 then e else ((tb : Nat) : Rat) - p.turns e tb * (10 * (p.goal.post.toNat : Rat)) / f

/-- The modulator and the edges as of `tb`, as a change of the frequency's course finds them (R87, R469). -/
def Pll.upTo (p : Pll) (tb : Tb) : Pll := { p with modulator := p.modulatorAt tb, edge := p.edgeNow tb }

/-- The ×4 period at `tb`, in ns (R88): that of the frequency a tracked step has reached; 2.5 ns in holdover (R93). -/
def Pll.periodAt (p : Pll) (tb : Tb) : Rat :=
  let f := p.multAt tb
  if p.holdover ∨ f = 0 then 5 / 2 else 10 * (p.goal.post.toNat : Rat) / f

/-- The first ×4 edge at or after an instant (R119, R469); in holdover the edges lie on whole multiples of 2.5 ns. -/
def Pll.nextEdge (p : Pll) (x : Rat) : Rat :=
  let e := if p.holdover then 0 else (p.edgeNow (tick x)).getD x
  let t := p.periodAt (tick x)
  e + (((x - e) / t).ceil : Rat) * t

/-- The edge that stands for one at `e`, about `tb`, in the count of `Pll.turns`. -/
def Pll.origin (p : Pll) (e : Rat) (tb : Tb) : Rat :=
  let q : Rat := 10 * (p.goal.post.toNat : Rat)
  if p.tracking ∧ p.from_ ≠ 0 then
    (p.startTb : Rat) + (p.turns (p.startTb : Rat) tb * q - ((tb : Rat) - e) * p.multAt tb) / p.from_
  else e

/-- The place of an event in fine units (R97): `e` fine units after a vector start at `v` fine units, split by the nominal
frequency into whole ×4 steps, whole VCO periods and a vernier part rounded to the nearest fine unit, a half up; in a tracked
step the steps and periods are those of the clock at the vector start. Of the clocks of holdover, where every strobe is masked,
the split takes no account (DESIGN CHOICE, unsafe, log entry 77). -/
def Pll.place (p : Pll) (v : Rat) (e : Int) : Rat :=
  let t4 := p.goal.t4 * 2048
  let vco := t4 / (p.goal.post.toNat : Rat)
  let c := ((e : Rat) / t4).floor
  let rest := (e : Rat) - (c : Rat) * t4
  let n := (rest / vco).floor
  let vernier := (rest - (n : Rat) * vco + 1 / 2).floor
  let now := p.multAt (tick (v / 2048))
  let ratio := if p.tracking ∧ now ≠ 0 then p.goal.mult / now else 1
  v + ((c : Rat) * t4 + (n : Rat) * vco) * ratio + (vernier : Rat)

/-! ### Changes of setting -/

/-- Start a tracked step, or retarget one in progress from the present frequency (R88). -/
def Pll.track (p : Pll) (x : PllSetting) (tb : Tb) : Pll :=
  { p.upTo tb with tracking := true, from_ := p.multAt tb, target := some x, startTb := tb }

/-- The length of a tracked step in ns: ⌈|Δ| / 10 ppm⌉ µs (R88). -/
def Pll.stepNs (p : Pll) : Nat :=
  match p.target with
  | some x => if p.from_ = 0 then 0 else
    let d := x.mult / p.from_ - 1
    (((if d < 0 then -d else d) * 10 ^ 5).ceil).toNat * 1000
  | none => 0

/-- A tracked step has reached its target at `tb` (R88). -/
def Pll.arrive (p : Pll) (tb : Tb) : Pll := { p.upTo tb with set := p.goal, target := none, tracking := false }

/-- A PLL goes over to the clocks of holdover (R89, R93). -/
def Pll.hold (p : Pll) (tb : Tb) : Pll := { p with holdover := true, switchTb := some tb }

/-- A PLL reaches lock at its last setting (R87, R89, R93); from holdover the guard switches the clocks back. The phase is whatever
the lock leaves (R469). -/
def Pll.lock (p : Pll) (tb : Tb) : Pll :=
  { p with set := p.goal, target := none, tracking := false, relocking := false, locked := true, holdover := false
           switchTb := if p.holdover then some tb else p.switchTb
           modulator := .load p.goal.seed tb, edge := none }

/-- A fraction of one from a free value. -/
def fraction (v : BitVec 64) : Rat := ((v.toNat % 2 ^ 32 : Nat) : Rat) / 2 ^ 32

/-- The phase that a lock has left shows (R469): `phase` is the part of a ×4 period, in 2^-32, from `x` to the next edge. -/
def Pll.show_ (p : Pll) (x : Rat) (phase : BitVec 32) : Pll :=
  let e := x + ((phase.toNat : Nat) : Rat) / 2 ^ 32 * p.periodAt (tick x)
  { p with edge := some (p.edge.getD (p.origin e (tick x))) }

/-- SYNC reaches the pattern PLL of a die at `tick` (R87, R91): the dividers are reset, and the first PAT edge falls `x` of a VCO
period after tick + 64. -/
def Pll.sync (p : Pll) (tick : Tb) (x : Rat) : Pll :=
  let vco : Rat := if p.set.mult = 0 then 0 else 10 / p.set.mult
  { p with modulator := .load p.set.seed tick, syncTb := tick, synced := true, edge := some ((tick : Rat) + 64 + x * vco) }

/-- SYNC reaches the dies `ds` at `tick` (R91): where in its VCO period each first edge falls is a free value, one for dies of
equal settings, whose edges coincide (log entry 7). -/
def State.syncDies (s : State) (ds : List Nat) (tick : Tb) : State :=
  ds.foldl (fun t d =>
    let like := ds.find? fun y => (s.die y).pll.set == (s.die d).pll.set
    t.updPll d fun p => p.sync tick (fraction (Config.freeValue (s.free + like.getD d))))
    { s with free := s.free + 8 }

end Sys2Proof.Machine
end

