-- ==== Sys2Proof/Machine/Flash.lean ====
section
/-! DEFINITION. What the flash holds (R362): firmware slots and their authentication (R440 to R442), the RPS patch
section (R429), the identity area (R364), the still-code table (R365), the calibration slots (R389, R390) and the event
journal (R366). -/

namespace Sys2Proof.Machine

/-- The flash as a reader. -/
def State.flashRd (s : State) : Rd := fun i => Mem.get flashByte s.serial.flash i

/-- Bytes of the flash. -/
def State.flashBytes (s : State) (off n : Nat) : List Byte := Mem.bytes flashByte s.serial.flash off n

/-- Every byte of a span of the flash is erased. -/
def State.flashBlank (s : State) (off n : Nat) : Bool := (s.flashBytes off n).all (· == flashByte)

/-- Programming clears bits and sets none (R363). -/
def programmed (old new : List Byte) : List Byte := (old.zip new).map fun p => p.1 &&& p.2

/-- Program bytes into the flash. -/
def State.flashProgram (s : State) (off : Nat) (bs : List Byte) : State :=
  s.updSerial fun x => { x with flash := Mem.setBytes flashByte x.flash off (programmed (s.flashBytes off bs.length) bs) }

/-- Erase a span of the flash. -/
def State.flashErase (s : State) (off n : Nat) : State :=
  s.updSerial fun x => { x with flash := Mem.clear x.flash off n }

/-- Page size in bytes (R357, R373). -/
def Serial.page (x : Serial) : Nat := 2 ^ x.pageLog2.toNat

/-! ### Flash operations -/

/-- What an operation is doing at this moment: an erase or a program, its address and its bytes (R361, R363, R391). -/
def FlashOp.cur (o : FlashOp) (pg : Nat) : Bool × Nat × List Byte :=
  match o.kind with
  | 0 => (false, o.addr, o.data.take (pg - o.addr % pg))
  | 1 => (true, o.addr, [])
  | 3 => (false, o.addr, [])
  | _ =>
    let body := o.data.length - 64
    let dies := bitsOf (BitVec.ofNat 8 (fieldAt o.data (body + 6) 1))
    let k := 16 * dies.length + 1
    let at_ (i : Nat) : Nat := o.addr + 0x10000 + 0x10000 * dies.getD (i / 65536) 0 + i % 65536
    if o.total = 0 then (true, o.addr, [])
    else if o.total < k then (true, at_ ((o.total - 1) * 4096), [])
    else
      let i := (o.total - k) * pg
      if i < body then (false, at_ i, (o.data.drop i).take pg) else (false, o.addr, o.data.drop body)

/-- The bytes that a program or erase cut short leaves undefined (R356, R372; log entry 7). -/
def State.tearSpan (s : State) (off : Nat) : Nat → State
  | 0 => s
  | n + 1 =>
    let (v, s) := s.takeFree
    State.tearSpan (s.updSerial fun x => { x with flash := Mem.set flashByte x.flash off (v.setWidth 8) }) (off + 1) n

/-- The flash operation in progress is cut short: its page or sector is undefined (R372). -/
def State.tear (s : State) : State :=
  match s.serial.ops with
  | [] => s
  | o :: _ =>
    if o.begun then
      let (erase, a, bs) := o.cur s.serial.page
      s.tearSpan a (if erase then 4096 else bs.length)
    else s

/-! ### Firmware slots -/

/-- Offset of a firmware slot (R362): false A, true B. -/
def fwBase (slot : Bool) : Nat := if slot then 0x800000 else 0

/-- FW_VERSION of a bundle header (R440). -/
def fwVersionAt (r : Rd) : Nat := rd r 0x08 4

/-- SECT[i] of a bundle header: type, offset and size (R440). -/
def fwSect (r : Rd) (i : Nat) : Nat × Nat × Nat := (rd r (0x20 + 16 * i) 1, rd r (0x24 + 16 * i) 4, rd r (0x28 + 16 * i) 4)

/-- The sections of a bundle. -/
def fwSects (r : Rd) : List (Nat × Nat × Nat) := (List.range (rd r 0x0E 1)).map (fwSect r)

/-- Check 2 of R441: the header and its section table. -/
def fwHeaderOk (r : Rd) : Bool :=
  let n := rd r 0x0E 1
  let body := rd r 0x10 4
  let ss := fwSects r
  rd r 0 4 == 0x57465247 && rd r 4 2 == 1 && rdZero r 6 2 && decide (rd r 0x0C 1 ≤ 64) && decide (rd r 0x0D 1 < 8) && decide (1 ≤ n)
    && decide (n ≤ 8) && rdZero r 0x0F 1 && body % 64 == 0 && decide (body ≤ 8388096) && rdZero r 0x14 12
    && rdZero r 0x160 160
    && ((List.range n).all fun i => rdZero r (0x21 + 16 * i) 3 && rdZero r (0x2C + 16 * i) 4)
    && (ss.all fun x => decide (1 ≤ x.1) && decide (x.1 ≤ 3) && x.2.1 % 64 == 0 && decide (x.2.1 + x.2.2 ≤ body))
    && (ss.map (·.1)).contains 1 && decide (ss.map (·.1)).Nodup
    && (ss.zipIdx.all fun x => ss.zipIdx.all fun y =>
        x.2 == y.2 || decide (x.1.2.1 + x.1.2.2 ≤ y.1.2.1) || decide (y.1.2.1 + y.1.2.2 ≤ x.1.2.1))

/-- The signed digest of a bundle (R440). -/
def State.fwDigest (s : State) (base : Nat) : List Byte :=
  sha384 (s.flashBytes base 0x100 ++ s.flashBytes (base + 0x200) (rd (s.flashRd.from base) 0x10 4))

/-- The reason code of a slot (R441): 0 when it passes every check. `readFail` is check 1. -/
def State.fwReason (s : State) (slot readFail : Bool) : Nat :=
  let base := fwBase slot
  let r := s.flashRd.from base
  if readFail then 2
  else if !fwHeaderOk r then 1
  else if !hasBit (BitVec.ofNat 8 (rd r 0x0D 1) &&& s.model.mask) (s.model.mask.toNat.log2) then 6
  else if sha384 (s.flashBytes (base + 0xA0) 96) ≠ s.otp.keyHash.flatMap (fun w => leBytes 4 w.toNat) then 4
  else if rd r 0x0C 1 < s.otp.rollback then 5
  else if !ecdsaOk (ofBe (s.flashBytes (base + 0xA0) 48)) (ofBe (s.flashBytes (base + 0xD0) 48))
      (ofBe (s.flashBytes (base + 0x100) 48)) (ofBe (s.flashBytes (base + 0x130) 48)) (s.fwDigest base) then 3
  else 0

/-- The slot tried first (R442). -/
def State.fwFirst (s : State) (readFailA readFailB : Bool) : Bool :=
  let a := s.flashRd.from (fwBase false)
  let b := s.flashRd.from (fwBase true)
  !readFailA && !readFailB && fwHeaderOk a && fwHeaderOk b && decide (fwVersionAt a < fwVersionAt b)

/-! ### The RPS patch -/

/-- The RPS section of the running bundle: its reader and size (R429). -/
def State.patchSect (s : State) : Option (Rd × Nat) :=
  let base := fwBase s.boot.fwSlot
  let r := s.flashRd.from base
  ((fwSects r).find? fun x => x.1 == 3).map fun x => (r.from (0x200 + x.2.1), x.2.2)

/-- The layout of an RPS section (R429). -/
def patchOk (r : Rd) (size : Nat) : Bool :=
  let nMicro := rd r 8 2
  let nNano := rd r 0xA 2
  let nMatch := rd r 0xC 2
  rd r 0 4 == 0x50535052 && rd r 4 4 != 0 && decide (nMicro ≤ 256) && decide (nNano ≤ 128) && decide (nMatch ≤ 16)
    && decide (rd r 0xE 1 + nMicro ≤ 256) && decide (rd r 0xF 1 < 128) && decide (rd r 0xF 1 + nNano ≤ 128)
    && decide (0x10 + 4 * nMicro + 16 * nNano + 4 * nMatch ≤ size)
    && ((List.range nMicro).all fun i => decide (rd r (0x10 + 4 * i) 4 < 2 ^ 24))
    && ((List.range nMatch).all fun i => decide (rd r (0x10 + 4 * nMicro + 16 * nNano + 4 * i) 4 < 2 ^ 20))

/-- An RPS without a patch: every match disabled, patch RAM cleared, version 0 (R429, R430). -/
def Rps.noPatch (x : Rps) : Rps :=
  { x with loading := false, patchVer := 0, micro := [], nano := [], matchRegs := List.replicate 16 (0, 0, false) }

/-- The RPS with the patch of a section loaded (R429, R430). -/
def Rps.withPatch (x : Rps) (r : Rd) : Rps :=
  let nMicro := rd r 8 2
  let nNano := rd r 0xA 2
  let m := 0x10 + 4 * nMicro + 16 * nNano
  { x with
    loading := false
    patchVer := BitVec.ofNat 32 (rd r 4 4)
    micro := List.replicate (rd r 0xE 1) 0
      ++ (List.range nMicro).map fun i => BitVec.ofNat 24 (rd r (0x10 + 4 * i) 4)
    nano := List.replicate (rd r 0xF 1) 0
      ++ (List.range nNano).map fun i => BitVec.ofNat 128 (rd r (0x10 + 4 * nMicro + 16 * i) 16)
    matchRegs := (List.range 16).map fun j =>
      if j < rd r 0xC 2 then
        let v := rd r (m + 4 * j) 4
        (BitVec.ofNat 12 v, BitVec.ofNat 8 (v / 4096), true)
      else (0, 0, false) }

/-- Load the running bundle's patch into a die (R430). Answers whether the section keeps its layout. -/
def State.patchDie (s : State) (d : Nat) : Bool × State :=
  match s.patchSect with
  | none => (true, s.updRps d Rps.noPatch)
  | some (r, size) =>
    if patchOk r size then (true, s.updRps d fun x => x.withPatch r) else (false, s.updRps d Rps.noPatch)

/-- The dies whose patch version differs from die 0's (R431). -/
def State.patchDiffer (s : State) : BitVec 8 :=
  maskOf 8 (s.dieNums.filter fun d =>
    (s.die d).st != .offline && (s.die d).rps.patchVer != (s.die 0).rps.patchVer)

/-! ### Identity and still-code table -/

/-- The identity area holds a valid block (R364). -/
def State.identOk (s : State) : Bool :=
  let r := s.flashRd.from 0x1000000
  let bytes := s.flashBytes 0x1000000 0x10000
  rd r 0 4 == 0x4449584C && rd r 4 2 == 1 && rdZero r 6 2 && decide (rd r 0xC 1 < 2) && decide (rd r 0xD 1 < 16)
    && rdZero r 0xE 2 && rdZero r 0x24 60 && rdZero r 0x1E0 28 && rd r 0x1FC 4 == crc32 (bytes.take 0x1FC)
    && (bytes.drop 0x200).all (· == flashByte)

/-- What the part takes from the identity area at a reset (R364). -/
def State.identRead (s : State) : Ident :=
  let r := s.flashRd.from 0x1000000
  let bytes := s.flashBytes 0x1000000 0x10000
  if bytes.all (· == flashByte) then Ident.default s.model
  else if s.identOk then
    { signing := hasBit (r 0xC) 0, keyMask := (r 0xD).setWidth 4
      keys := (List.range 4).map fun i => sliceBytes bytes (0x60 + 96 * i) 96
      subVendor := BitVec.ofNat 16 (rd r 8 2), subId := BitVec.ofNat 16 (rd r 0xA 2) }
  else { Ident.default s.model with signing := true }

/-- SER_TIMING of a valid identity area: SEL_LEAD, SEL_LAG, SEL_IDLE and SCK_MAX, zero for what keeps the ROM value
(R355, R364). -/
def State.serTiming (s : State) : List Nat :=
  let r := s.flashRd.from 0x1000000
  if s.identOk then
    [rd r 0x20 1, rd r 0x21 1, rd r 0x22 1, rd r 0x23 1]
  else [0, 0, 0, 0]

/-- The still-code table passes its integrity check (R365). -/
def State.stillTableOk (s : State) : Bool :=
  let r := s.flashRd.from 0x1010000
  rd r 0 4 == 0x4C495453 && rd r 4 2 == 1 && rd r 6 2 == 512 && rd r 8 2 == 32 && rdZero r 0xA 2
    && rd r 0xC 4 == crc32 (s.flashBytes 0x1010040 16384) && rdZero r 0x10 44
    && rd r 0x3C 4 == crc32 (s.flashBytes 0x1010000 0x3C)

/-- The still codes that channel `n` takes from the table (R68, R365). -/
def State.stillFor (s : State) (ok : Bool) (n : Nat) : StillCodes :=
  let e := stillEntryAt (s.flashRd.from 0x1010040) (32 * n)
  stillOrDefault (ok && e.valid) e.codes

/-! ### Calibration slots -/

/-- Offset of a calibration slot (R362). -/
def calBase (slot : Nat) : Nat := if slot = 0 then 0x1020000 else 0x1120000

/-- A calibration slot is valid (R390). -/
def State.calSlotOk (s : State) (slot : Nat) (mask : BitVec 8) : Bool :=
  let b := calBase slot
  let r := s.flashRd.from b
  rd r 0 4 == 0x5343584C && rd r 4 2 == 1 && rd r 6 1 == mask.toNat && rdZero r 7 1 && rdZero r 0xC 4
    && decide (1 ≤ rd r 8 4) && decide (rd r 8 4 ≤ 0xFFFFFFFE) && rd r 0x10 8 == s.otp.serial.toNat && rdZero r 0x1C 32
    && rd r 0x3C 4 == crc32 (s.flashBytes b 0x3C)
    && rd r 0x18 4 == crc32 ((bitsOf mask).flatMap fun d => s.flashBytes (b + 0x10000 + 0x10000 * d) 0x10000)

/-- A calibration slot's header reads all 0xFF (R390). -/
def State.calSlotBlank (s : State) (slot : Nat) : Bool := s.flashBlank (calBase slot) 64

/-- Load the valid calibration slot with the higher SEQUENCE into every die (R390). -/
def State.calLoad (s : State) (mask : BitVec 8) : State :=
  let ok (i : Nat) : Bool := s.calSlotOk i mask
  let seq (i : Nat) : Nat := rd s.flashRd (calBase i + 8) 4
  let use : Option Nat :=
    if ok 0 && (!ok 1 || decide (seq 1 ≤ seq 0)) then some 0 else if ok 1 then some 1 else none
  let s := { s with cal :=
    { inForce := use.getD 3, aOk := ok 0, bOk := ok 1
      sequence := BitVec.ofNat 32 ((use.map seq).getD 0) } }
  match use with
  | none => s
  | some i => (bitsOf mask).foldl (fun s d => s.updDie d fun x =>
      { x with cal := Mem.setBytes ramByte [] 0 (s.flashBytes (calBase i + 0x10000 + 0x10000 * d) 0x10000) }) s

/-! ### The journal -/

/-- Offset of a journal slot (R366). -/
def jSlot (j : Nat) : Nat := 0x1220000 + 64 * (j % 32768)

/-- A journal slot holds a valid record (R366). -/
def State.jValid (s : State) (j : Nat) : Bool :=
  let r := s.flashRd.from (jSlot j)
  rd r 0 2 == 0x524A && rd r 2 1 == 1 && rdZero r 3 1 && rd r 4 4 != 0 && rd r 4 4 != 0xFFFFFFFF && rdZero r 0xC 4
    && rdZero r 0x34 8 && rd r 0x3C 4 == crc32 (s.flashBytes (jSlot j) 0x3C)

/-- The head at boot: the valid record with the highest JSEQ (R366); slot 0 and JSEQ 0 for an empty journal. -/
def State.jFind (s : State) : Nat × Nat :=
  (List.range 32768).foldl (fun h j =>
    let q := rd s.flashRd (jSlot j + 4) 4
    if h.2 < q ∧ s.jValid j then (j, q) else h) (0, 0)

/-- The slot of the next append: the first erased one after the head (R366). `n` bounds the search. -/
def State.jNext (s : State) : Nat → Nat → Nat
  | 0, j => j
  | n + 1, j => if s.flashBlank (jSlot j) 64 then j % 32768 else State.jNext s n (j + 1)

/-- BOOT_COUNT of this boot (R366). -/
def State.bootCount (s : State) : Nat :=
  let x := s.serial
  if x.jseq = 0 then 1 else rd s.flashRd (jSlot x.jHead + 8) 4 + (if x.jWritten = 0 then 1 else 0)

/-- A journal record (R366). -/
def State.jRecord (s : State) (seq : Nat) (e : Event) : List Byte :=
  let b := leBytes 2 0x524A ++ leBytes 1 1 ++ leBytes 1 0 ++ leBytes 4 seq ++ leBytes 4 s.bootCount ++ leBytes 4 0
    ++ e.bytes ++ leBytes 4 s.boot.fwVersion.toNat ++ leBytes 8 0
  b ++ leBytes 4 (crc32 b)

/-- Slot `j` opens its sector: no valid record lies in the sector before it (R366). -/
def State.jOpens (s : State) (j : Nat) : Bool := (List.range (j % 64)).all fun i => !s.jValid (j - j % 64 + i)

/-- Append an event to the journal, and erase the next sector when the append writes the first record of a sector (R366). -/
def State.journalPut (s : State) (e : Event) : State :=
  let x := s.serial
  let j := if x.jseq = 0 then 0 else s.jNext 32768 (x.jHead + 1)
  let seq := if x.jseq ≥ 0xFFFFFFFE then 1 else x.jseq + 1
  let opens := s.jOpens j
  let s := s.flashProgram (jSlot j) (s.jRecord seq e)
  let s := if opens then s.flashErase (jSlot (j - j % 64 + 64)) 4096 else s
  s.updSerial fun x => { x with jHead := j, jseq := seq, jWritten := inc32 x.jWritten }

end Sys2Proof.Machine
end

