-- ==== Sys2Proof/Machine/Boot.lean ====
section
/-! DEFINITION. Resets and boot (R66 to R68, R80, R81, R343, R408, R434 to R443). -/

namespace Sys2Proof.Machine

/-! ### Resets -/

/-- What every PART reset leaves (R434): the part as after power-on, but for the fuses, the flash and what lies outside
the part. A flash operation in progress is cut short (R435). -/
def State.partReset (s : State) (cause : Nat) (epoch : BitVec 16) (perstLow : Bool) : State :=
  let s := s.tear
  let r := State.resetOf s.model
  { r with
    otp := s.otp
    serial := { r.serial with flash := s.serial.flash }
    boot := { r.boot with resetCause := cause, epoch, perstLow }
    out := s.out
    free := s.free
    pending := s.pending }

/-- Every channel in hardware still with a cause; nothing else of it outlives a PART reset (R69, R343, R434). -/
def State.allStill (s : State) (cause : BitVec 4) : State :=
  s.updChans (fun _ _ => true) fun _ c => { c with st := { c.st with lastCause := cause } }

/-- POWER_ON_RESET (R66, R412, R434): every output is held open by hardware and the part starts anew. -/
def execPowerOnReset (t : Tb) (s : State) : Host.Outcome State Fault Refusal :=
  let s := s.at t
  .next (s.partReset 0 0 s.boot.perstLow)

/-- PERST_N_ASSERT (R434, R435): every channel enters hardware still with cause 10 and the boot restarts at POR. During
a power-on reset's PERST_N low nothing new happens. -/
def execPerstNAssert (t : Tb) (s : State) : Host.Outcome State Fault Refusal :=
  let s := s.at t
  .next (if s.boot.perstLow then s else (s.partReset 1 0 true).allStill 10)

/-! ### The stages -/

/-- What a stage's work leaves: none, or the failure code and FAIL_DETAIL that end the boot (R437). -/
abbrev StageEnd := Option (Nat × Nat)

/-- A boot ends at a failure stage (R437, R439). -/
def State.bootFail (s : State) (code detail : Nat) : State :=
  s.updBoot fun b => { b with stage := BitVec.ofNat 8 code, failDetail := BitVec.ofNat 8 detail, part := .failed }

/-- A die goes offline during a boot (R438). -/
def State.bootOffline (s : State) (d : Nat) : State :=
  let s := s.updDie d fun x => { x with st := .offline, loadCap := 0, bwCap := 0, springCap := 0 }
  let s := s.updBoot fun b => { b with dieOff := setBit b.dieOff d }
  s.raise_ { code := evDieOffline, tb := s.tb, locKind := 1, location := d }

/-- The dies of the model that are not offline. -/
def State.liveDies (s : State) : List Nat := s.dieNums.filter fun d => (s.die d).st != .offline

/-- The lowest die of a mask among the dies of the part that are not offline. -/
def State.lowestOf (s : State) (m : BitVec 8) : Option Nat := s.liveDies.find? fun d => hasBit m d

/-- ROM (R436): the OTP is read, die 0's time-base PLL locks and TB starts, the link trains. -/
def State.stageRom (s : State) (env : BootEnv) : StageEnd × State :=
  if !env.romOk then (some (0xE0, 0), s)
  else if !env.refOk then (some (0xE1, 0), s)
  else
    let s := s.updDie 0 fun x => { x with tbLock := true }
    (none, if s.boot.resetCause = 2 then s
      else s.updPci fun p => { p with width := env.width.toNat, speed := env.speed.toNat })

/-- CMD_W, ADDR_W and DATA_W of a flash mode (R358, R373). -/
def flashWidths (mode : Nat) : BitVec 2 × BitVec 2 × BitVec 2 :=
  match mode with
  | 0 => (0, 0, 0)
  | 1 => (0, 0, 2)
  | 2 => (0, 2, 2)
  | 3 => (0, 3, 3)
  | _ => (3, 3, 3)

/-- DIV within the limits of a mode (R354). -/
def clampDiv (mode div : Nat) : BitVec 9 := BitVec.ofNat 9 (min 400 (max div (if mode = 5 then 40 else 20)))

/-- FLASH_PROBE (R357 to R359): mode and clock as the flash allows. The dummy cycles are the flash's own (log entry
7). -/
def State.stageFlash (s : State) (env : BootEnv) : StageEnd × State :=
  if env.flashFail ≠ 0 then (some (0xE2, env.flashFail.toNat), s)
  else
    let m := env.mode.toNat
    let (c, a, d) := flashWidths m
    let (v, s) := s.takeFree
    (none, s.updSerial fun x =>
      { x with cmdW := c, addrW := a, dataW := d, ddr := m == 5, dummy := v.setWidth 8
               div := clampDiv m env.clkDiv.toNat, sizeMib := env.sizeMib, pageLog2 := env.pageLog2, mode := env.mode
               eraseMax := env.eraseMax.toNat })

/-- AUTH (R440 to R442): the first slot that passes every check is the running slot. -/
def State.stageAuth (s : State) (env : BootEnv) : StageEnd × State :=
  let first := s.fwFirst env.readFailA env.readFailB
  let why (slot : Bool) : Nat := s.fwReason slot (if slot then env.readFailB else env.readFailA)
  let run : Option Bool := if why first = 0 then some first else if why (!first) = 0 then some (!first) else none
  let s := s.updBoot fun b => { b with firstSlot := first }
  match run with
  | none => (some (0xE3, why false + 16 * why true), s)
  | some slot =>
    let r := s.flashRd.from (fwBase slot)
    let s := s.updBoot fun b =>
      { b with fwSlot := slot, fwVersion := word (fwVersionAt r), rollback := rd r 0x0C 1 }
    (none, if slot = first then s else s.raise_ { code := evFwSlotB, tb := s.tb })

/-- FW_START (R355, R364, R366, R430): the identity area and the journal's head are read, and die 0's RPS patch is
loaded. -/
def State.stageFw (s : State) (env : BootEnv) : StageEnd × State :=
  let (ok, s) := s.patchDie 0
  if !env.fwOk || !ok then (some (0xE4, 0), s)
  else
    let s := { s with ident := s.identRead }
    let keep (v : Nat) (old : BitVec 8) : BitVec 8 := if v = 0 then old else BitVec.ofNat 8 v
    let ts := s.serTiming
    let mhz := ts.getD 3 0
    let (slot, seq) := s.jFind
    (none, s.updSerial fun x =>
      { x with selLead := keep (ts.getD 0 0) x.selLead, selLag := keep (ts.getD 1 0) x.selLag
               selIdle := keep (ts.getD 2 0) x.selIdle
               div := if mhz = 0 then x.div else clampDiv x.mode.toNat (max x.div.toNat (ceilDiv 4000 mhz))
               jHead := slot, jseq := seq })

/-- A die-bridge link of the ring fails (R25): link `i` joins port UP of die `i` to port DOWN of the next die. -/
def State.cutLink (s : State) (i : Nat) : State :=
  let n := s.model.dies
  (s.updDie i fun x => { x with upLink := false }).updDie ((i + 1) % n) fun x => { x with dnLink := false }

/-- Link `i` works. -/
def State.linkOk (s : State) (i : Nat) : Bool := (s.die i).upLink

/-- The link of a port as BRIDGE_DEGRADE names ports: 2d UP, 2d + 1 DOWN (R339). -/
def State.linkOfPort (s : State) (port : Nat) : Nat :=
  let n := s.model.dies
  if port % 2 = 0 then port / 2 else (port / 2 + n - 1) % n

/-- A die's pattern PLL at a boot: it locks at its reset setting, and the phase is whatever the lock leaves (R85, R469; log
entry 47). -/
def State.bootPll (s : State) (d : Nat) : State := s.updPll d fun p => p.lock s.tb

/-- DIE_LINK (R25, R81, R438): links trained, firmware sent to the other dies, TB aligned. -/
def State.stageLink (s : State) (env : BootEnv) : StageEnd × State :=
  let s := (bitsOf env.portsDown).foldl (fun s p =>
    if p / 2 < s.model.dies ∧ s.linkOk (s.linkOfPort p) then
      (s.cutLink (s.linkOfPort p)).raise_ { code := evBridgeDegrade, tb := s.tb, locKind := 6, location := p }
    else s) s
  let s := (s.dieNums.filter fun d => d != 0 && ((env.fwFail.getLsbD d) || s.unreachable d)).foldl
    (fun s d => s.bootOffline d) s
  match s.lowestOf (clearBit env.alignFail 0) with
  | some d => (some (0xE5, d), s)
  | none =>
    let s := s.liveDies.foldl (fun s d => s.updDie d fun x => { x with tbLock := true, aligned := true }) s
    let s := s.liveDies.foldl State.bootPll s
    let s := (s.liveDies.filter (· != 0)).foldl (fun s d => (s.patchDie d).2) s
    (none, if s.patchDiffer = 0 then s
      else s.raise_ { code := evPatchMismatch, tb := s.tb, detail := s.patchDiffer.toNat })
/-- What one die's devices show at a boot. -/
def dramOf (env : BootEnv) (d : Nat) : DramEnv := env.dram.getD d default

/-- The junction reading of a die at a boot. -/
def tjOf (env : BootEnv) (d : Nat) : BitVec 16 := env.tj.getD d 0

/-- DRAM_TRAIN (R255, R267, R268). -/
def State.stageDram (s : State) (env : BootEnv) : StageEnd × State :=
  let e0 := dramOf env 0
  let bad := s.liveDies.find? fun d =>
    let e := dramOf env d
    !inTable e || e.ranksM1 != e0.ranksM1 || e.density != e0.density
  match bad with
  | some d => (some (0xE6, d), s)
  | none => (none, s.liveDies.foldl (fun s d => s.trainDie d (dramOf env d) (tjOf env d)) s)

/-- A junction reading as the signed number of 1/16 °C it stands for; one that was not formed counts as above every
threshold (R395). -/
def tjValue (tj : BitVec 16) : Int := if tj = 0x8000 then 0x8000 else tj.toInt

/-- Enter a junction reading into the registers (R395, R397, R415). -/
def Thermal.note (x : Thermal) (tj : BitVec 16) (tb : Tb) : Thermal :=
  { x with
    tj
    tjTb := tb
    formed := if tj = 0x8000 then x.formed else tj
    tjMax := if tj = 0x8000 then x.tjMax else if x.tjMax = 0x8000 ∨ x.tjMax.toInt < tj.toInt then tj else x.tjMax
    hotNs := if tjValue x.tj ≥ 1680 then x.hotNs + (tb - x.tjTb) else x.hotNs }

/-- The junction reading of ANALOG_INIT (R408); after a recovery from die 0's own shutdown every die is THERMAL_OFF
(R405). -/
def State.bootReading (s : State) (d : Nat) (tj : BitVec 16) (allOff : Bool) : State :=
  let v := tjValue tj
  let x := (s.die d).thm
  let st : ThmSt := if v ≥ x.shut.toInt then .shutdown else if v ≥ x.throttle.toInt then .throttle
    else if v ≥ x.warn.toInt then .warn else .normal
  let off := st == .shutdown || allOff
  let s := s.updDie d fun y =>
    { y with
      thm := { y.thm.note tj s.tb with st, watching := true, watchTb := s.tb }
      deskewTj := if tj = 0x8000 then y.deskewTj else tj
      st := if off then .thermalOff else y.st
      loadCap := if off then 0 else y.loadCap
      bwCap := if off then 0 else y.bwCap
      springCap := if off then 0 else y.springCap }
  let ev (code : Nat) : NewEvent := { code, tb := s.tb, locKind := 1, location := d, detail := tj.toNat }
  match st with
  | .normal => s
  | .warn => s.raise_ (ev evThermalWarn)
  | .throttle => s.raise_ (ev evThrottle)
  | .shutdown => s.raise_ (ev evThermalShutdown)

/-- The channels of a die whose CONNECTED entries are left open for the load budget, in the order in which they are left:
the largest standing charge first, the highest channel on a tie (R67). `n` bounds how many. -/
def shedEntries (es : List (Nat × Rat)) : Nat → List Nat
  | 0 => []
  | n + 1 =>
    if (es.map (·.2)).sum ≤ 16000 then []
    else
      match es.foldl (fun (b : Option (Nat × Rat)) e =>
          match b with
          | some x => if x.2 ≤ e.2 then some e else b
          | none => some e) none with
      | some x => x.1 :: shedEntries (es.filter fun e => e.1 != x.1) n
      | none => []

/-- The still codes of a die at ANALOG_INIT (R66 to R68, R432): each channel takes its entry, and switches close where
CONNECTED, the self-test, the load budget and the Kelvin check allow it; none on a THERMAL_OFF die (R406). -/
def State.bootStill (s : State) (d : Nat) (tableOk : Bool) (kelvin : List Nat) : State :=
  let ns := (List.range 64).map (· + 64 * d)
  let s := s.updChans (fun n _ => n / 64 == d) fun n c =>
    let c := { c with still := s.stillFor tableOk n }.applyStill (s.stillFor tableOk n)
    { c with st := { c.st with lastCause := 0 } }
  if (s.die d).st ≠ .active then s
  else
    let want := ns.filter fun n => (s.chan n).still.connected
    let shed := shedEntries (want.map fun n => (n, (s.chan n).still.charge)) want.length
    let s := shed.foldl (fun s n =>
      s.raise_ { code := evStillOpen, tb := s.tb, locKind := 3, location := n, detail := 2 }) s
    let close := want.filter fun n =>
      !shed.contains n && !hasBit (s.ctx d (clusterOf n % 8)).selfTest (laneOf n)
    let s := (close.filter fun n => kelvin.contains n).foldl (fun s n =>
      (s.updChan n fun c => { c with fl := { c.fl with senseOpen := true } }).raise_
        { code := evStillOpen, tb := s.tb, locKind := 3, location := n, detail := 1 }) s
    s.updChans (fun n _ => close.contains n && !kelvin.contains n) fun _ c =>
      { c with st := { c.st with switchClosed := true } }

/-- ANALOG_INIT (R66 to R68, R390, R408, R432, R438). -/
def State.stageAnalog (s : State) (env : BootEnv) : StageEnd × State :=
  let allOff := s.ev.bootQ.any fun e => e.code == 0x0061 && e.detail.toNat % 256 == 5
  let s := s.liveDies.foldl (fun s d => s.bootReading d (tjOf env d) allOff) s
  let s := s.liveDies.foldl (fun s d => s.updRps d fun r =>
    { r with ctxs := r.ctxs.mapIdx fun c x => { x with selfTest := env.selfTest.getD (8 * d + c) 0 } }) s
  if env.rpsFail.getLsbD 0 then (some (0xE7, 0), s)
  else
    let s := (s.liveDies.filter fun d => env.rpsFail.getLsbD d).foldl (fun s d => s.bootOffline d) s
    let s := s.calLoad s.dieMask
    let s := [0, 1].foldl (fun s i =>
      if s.calSlotBlank i || (if i = 0 then s.cal.aOk else s.cal.bOk) then s
      else s.raise_ { code := evCalSlotBad, tb := s.tb, detail := i }) s
    let ok := s.stillTableOk
    let s := if ok then s else s.raise_ { code := evStillTableBad, tb := s.tb }
    (none, s.liveDies.foldl (fun s d => s.bootStill d ok env.kelvin) s)

/-- The boot events enter the device queue (R443); the journal takes those that a boot appends (R339, R408). -/
def State.bootFlush (s : State) : State :=
  let s := s.ev.bootQ.foldl (fun s e => s.updEv fun v =>
    { v with
      queue := v.queue ++ [{ e with seq := v.seqNext, linkBack := if e.code = 0x0001 then 1 else 0 }]
      seqNext := nextSeq v.seqNext
      jobs := if e.code = 0x0043 then v.jobs ++ [{ e with seq := v.seqNext }] else v.jobs }) s
  s.updEv fun v => { v with bootQ := [] }

/-- READY (R400, R408, R436, R442, R443). -/
def State.stageReady (s : State) : State :=
  let degraded := s.dieNums.any fun d => (s.die d).st == .offline || (s.die d).dram.st != .full
  let s := s.updBoot fun b =>
    { b with ready := true, readyTb := s.tb, part := if degraded || s.patchDiffer != 0 then .degraded else .ready }
  let s := { s with
    otp := { s.otp with rollback := max s.otp.rollback s.boot.rollback }
    dies := s.dies.map fun (x : Die) =>
      if x.thm.st = ThmSt.throttle then { x with thm := { x.thm with graceTb := s.tb + x.thm.graceMs.toNat * 1000000 } }
      else x }
  s.bootFlush

/-- The work of a stage. -/
def State.stageWork (s : State) (env : BootEnv) (i : Nat) : StageEnd × State :=
  match i with
  | 1 => s.stageRom env
  | 2 => s.stageFlash env
  | 3 => s.stageAuth env
  | 4 => s.stageFw env
  | 5 => s.stageLink env
  | 6 => s.stageDram env
  | 7 => s.stageAnalog env
  | _ => (none, s)

/-- Enter stage `i` (R436): BOOT_STAGE_TB records TB, which stands at 0 until the time-base PLL has locked (R80). -/
def State.enterStage (s : State) (env : BootEnv) (i : Nat) : State :=
  let tb := env.stageTb.getD (i - 1) 0
  let s := s.at tb
  let s := s.updBoot fun b => { b with stage := BitVec.ofNat 8 (16 * i), stageTb := b.stageTb.set (i - 1) s.tb }
  if i = 8 then s.stageReady else s

/-- Go through the stages from the one in progress up to stage `upTo`; `n` bounds how many. -/
def State.bootStages (env : BootEnv) : Nat → State → State
  | 0, s => s
  | n + 1, s =>
    let i := s.boot.stage.toNat / 16
    if s.boot.stage.toNat ≥ 0xE0 ∨ i ≥ min 8 env.upTo then s
    else
      match s.stageWork env i with
      | (some (code, detail), s) => s.bootFail code detail
      | (none, s) => State.bootStages env n (s.enterStage env (i + 1))

/-- The boot as far as the environment shows it (R436). -/
def State.bootTo (s : State) (t : Tb) (env : BootEnv) : State := (State.bootStages env 8 s).at t

/-- PERST_N_RELEASE (R434, R436): with the later of the two releases the boot starts and passes its stages as far as
`env.upTo`; on a boot in progress, the stages that follow. A boot that has ended goes on only by a reset (R439). -/
def execPerstNRelease (t : Tb) (env : BootEnv) (s : State) : Host.Outcome State Fault Refusal :=
  let s := s.at t
  .next (if s.boot.ready then s else (s.updBoot fun b => { b with perstLow := false }).bootTo t env)

/-- BOOT_STAGE_TIMEOUT (R436, R437): the stage in progress has not ended by its deadline. The details that R437 names and
a deadline alone does not give are free values (log entry 7). -/
def execBootStageTimeout (t : Tb) (s : State) : Host.Outcome State Fault Refusal :=
  let s := s.at t
  let (v, s') := s.takeFree
  let open_ := v.toNat % 256
  .next (match s.boot.stage.toNat with
    | 0x10 => if (s.die 0).tbLock then s.bootFail 0xE0 0 else s.bootFail 0xE1 0
    | 0x20 => s'.bootFail 0xE2 open_
    | 0x30 => s'.bootFail 0xE3 open_
    | 0x40 => s.bootFail 0xE4 0
    | 0x50 => s'.bootFail 0xE5 (open_ % 8)
    | 0x60 => s'.bootFail 0xE6 (open_ % 8)
    | 0x70 => s.bootFail 0xE7 0
    | _ => s)

/-! ### PART recovery -/

/-- A page program in progress finishes before a recovery (R409); an erase does not. -/
def State.finishPage (s : State) : State :=
  match s.serial.ops with
  | [] => s
  | o :: _ =>
    let (erase, a, bs) := o.cur s.serial.page
    if o.begun && !erase then (s.flashProgram a bs).updSerial fun x => { x with ops := [] } else s

/-- PART recovery (R343, R405, R409): the journal takes the events owed to it and the PART_RECOVERY record, everything
else is lost, and the part reboots with RESET_CAUSE 2 and the next epoch; the first two boot events are PART_RECOVERY and
the EPOCH_MARK. The link and the configuration space are kept, the rings and the registers of BAR 0 start anew. -/
def State.partRecovery (s : State) (cause : Nat) (tb : Tb) (still : BitVec 4) (boot : Option BootEnv) : State :=
  let e : NewEvent :=
    { code := evPartRecovery, tb, detail := cause + s.boot.epoch.toNat * 2 ^ 16 }
  let pr := e.record 0 s.boot.epoch
  let old := s.boot.epoch
  let epoch : BitVec 16 := if old = 0xFFFF then 1 else old + 1
  let s := s.finishPage
  let s := (s.ev.jobs ++ [pr]).foldl (fun s e => s.journalPut e) s
  let p := s.pci
  let s := (s.partReset 2 epoch false).allStill still
  let mark : NewEvent := { code := evEpochMark, tb, detail := old.toNat + 5 * 2 ^ 16 }
  let s := { s with
    pci := { s.pci with width := p.width, speed := p.speed, aspmL1 := p.aspmL1, d3hot := p.d3hot,
                        msix := p.msix, maskAll := p.maskAll, pba := p.pba }
    ev := { s.ev with bootQ := [pr, mark.record 0 epoch] } }
  match boot with
  | some env => s.bootTo 0 env
  | none => s

end Sys2Proof.Machine
end

