-- ==== Sys2Proof/Machine/RunOps.lean ====
section
/-! DEFINITION. How a run's clusters stop and its channels go still, and how a run is aborted, stopped and closed (R69,
R70, R142, R184, R186, R188, R198, R218, R325, R326). -/

namespace Sys2Proof.Machine

/-- Change the run of a RUN_START tag. -/
def State.updRun (s : State) (tag : BitVec 12) (f : Run → Run) : State :=
  { s with runs := s.runs.map fun r => if r.tag == tag then f r else r }

/-- The accepted run of a RUN_START tag. -/
def State.run? (s : State) (tag : BitVec 12) : Option Run := s.runs.find? fun r => r.tag == tag

/-- The mapped lanes of a run in a cluster. -/
def Run.lanesOn (r : Run) (k : Nat) : BitVec 8 := maskOf 8 ((r.mapped.filter fun n => clusterOf n == k).map laneOf)

/-- The lanes of a cluster that the next accepted run on the group maps: they keep their switches closed (R69, R198). -/
def State.keepLanes (s : State) (r : Run) (k : Nat) : BitVec 8 :=
  match s.runs.find? fun x => x.group == r.group && !x.started with
  | some x => x.lanesOn k
  | none => 0

/-- Clear every condition flag of a cluster: the end of its execution (R184). -/
def Red.clearFlags (u : Red) (tb : Tb) : Red := (List.range 16).foldl (fun u f => u.setFlag f false tb) u

/-- The outcome of a run: what has been decided for it, else OK, DONE (R326). -/
def Run.result (r : Run) : Status × BitVec 8 := r.outcome.getD (.ok, 0x00)

/-- The condition flags of a cluster are cleared at `t`, the end of its execution (R184); its trigger engine sees it (R160). -/
def State.dropFlags (s : State) (k : Nat) (t : Tb) : State :=
  let g := s.trig k
  let on := g.source == 11 && decide ((s.red k).flags &&& g.select ≠ 0)
  let s := s.updRed k fun u => u.clearFlags t
  if on then
    let (seen, s) := s.crossing t 33
    s.trigSee k seen t (some false)
  else s

/-- The outcome's records carry ABORTED: every end but DONE (R188). -/
def aborted (o : Status × BitVec 8) : Bool := o.1 != .ok || o.2 != 0

/-- The records of a cluster's channels are FINAL (R188). -/
def State.finalRecords (s : State) (r : Run) (k : Nat) : State :=
  { s with results := s.results.map fun x =>
      if x.group = r.group ∧ x.s = r.s then
        { x with recs := x.recs.map fun e =>
            if clusterOf e.ch = k then
              { e with final := true, aborted := e.aborted || aborted r.result, stretched := e.stretched || r.stretched }
            else e }
      else x }

/-- Where the execution of a cluster has ended and its last close pass has run, its records are FINAL (R188). -/
def State.lastPass (s : State) (k : Nat) : State :=
  match s.runOfCluster k with
  | some r => if (s.seq k).state = .done ∧ (s.red k).windows.isEmpty then s.finalRecords r k else s
  | none => s

/-- The end of a cluster's execution at `t`: it holds its lanes and masks strobes, its recipe windows close, its flags are
cleared, and it is DONE (R142, R175, R184, R188). -/
def State.clusterDone (s : State) (k : Nat) (t : Tb) : State :=
  let s := s.updSeq k fun x =>
    { x with
      state := .done, allMasked := true, springs := [], loops := [], holdAt := none, resumeAt := none
      timers := x.timers.map fun m => { m with running := false } }
  ((s.closeWindows k (fun _ => true) t).dropFlags k t).lastPass k

/-- The lanes of a run in a cluster that no hardware still entry has taken: a mapped channel is connected (R65), and only a
hardware still opens its switch during the run (R69). -/
def State.liveLanes (s : State) (r : Run) (k : Nat) : BitVec 8 :=
  maskOf 8 ((bitsOf (r.lanesOn k)).filter fun l => !(s.chan (chanOf k l)).faulted && s.connected (chanOf k l))

/-- Give a run's channels of a cluster its still overrides (R70). -/
def State.takeOverrides (s : State) (r : Run) (k : Nat) : State :=
  let os := imgOverrides (s.imgRd r.image)
  s.updLanes (dieOfCluster k) (k % 8) (s.liveLanes r k) fun l c =>
    match os.find? fun o => o.1 == chanOf k l with
    | some o => { c with override := some o.2.codes }
    | none => c

/-- The channels of a run in a cluster enter still by the orderly path (R69, R142): ahead of what waits when a fault
causes it (R71), switches kept closed for the next run's channels (R198). -/
def State.runStill (s : State) (r : Run) (k : Nat) (cause : BitVec 4) (fault : Bool) : State :=
  let m := s.liveLanes r k
  let keep := s.keepLanes r k
  let d := dieOfCluster k
  let s := s.takeOverrides r k
  let s := s.updLanes d (k % 8) (r.lanesOn k) fun _ c =>
    { c with wave := none, grid := none, queue := c.queue.filter fun e => e.owner.isSome }
  if m = 0 then s
  else if fault then (s.rpsDropWaiting d (k % 8) m).rpsUrgent d (k % 8) m (.still cause keep)
  else s.orderlyStillLanes k m cause keep

/-- The end of a run is a fault's, whose still goes ahead of waiting requests (R20, R71); the still of a host abort, a stop
or RUN_LIMIT keeps queue order (R418). -/
def faultEnd (o : Status × BitVec 8) : Bool := o.1 == .hwFault || o == (.timeout, 0x03)

/-- The last close passes of a cluster run and the records of its channels are FINAL (R188). -/
def State.closeRecords (s : State) (r : Run) (k : Nat) : State :=
  ((s.closeAll k r.group (s.red k).passes).updRed k fun u => { u with windows := [] }).finalRecords r k

/-- CH_CFG with CMP_HYST, TERM_EN and DCLAMP_EN of another: what a run sets, and what returns at its end (R78). -/
def ChCfg.forRun (x y : ChCfg) : ChCfg := { y with senseCheck := x.senseCheck }

/-- The channels of a run return to the settings they had before it (R78). -/
def State.restoreCfg (s : State) (r : Run) : State :=
  s.updChans (fun n _ => r.mapped.contains n) fun _ c =>
    { c with cfg := c.cfg.forRun (c.savedCfg.getD c.cfg), savedCfg := none, faulted := false }

/-- A run whose members are all DONE ends (R142, R188, R326): the channels not still yet enter still with cause 1, its
records are FINAL and its final reply is formed. -/
def State.runClose (s : State) (tag : BitVec 12) : State :=
  match s.run? tag with
  | none => s
  | some r =>
    let ks := s.runClusters r
    let s := ks.foldl (fun s k => if (s.seq k).abortSeen then s else s.runStill r k 1 false) s
    let s := ks.foldl (fun s k => s.closeRecords r k) s
    let s := (s.restoreCfg r).updClusters (fun k _ => ks.contains k) fun _ c =>
      { c with seq := { c.seq with abortSeen := false } }
    s.runFinal tag r.result.1 r.result.2.toNat r.cause

/-- The execution of a cluster of an aborting run ends (R142). -/
def State.clusterStop (s : State) (r : Run) (k : Nat) : State :=
  if (s.seq k).state = .done then s
  else
    let s := s.clusterDone k s.tb
    let s := s.updRun r.tag fun r => { r with endTb := max r.endTb s.tb }
    s.updSeq k fun x => { x with abortSeen := true }

/-- A cluster of an aborting run stops and its channels enter still (R142). -/
def State.clusterAbort (s : State) (r : Run) (k : Nat) (cause : BitVec 4) (fault : Bool) : State :=
  if (s.seq k).state = .done then s else (s.clusterStop r k).runStill r k cause fault

/-- Decide the end of a running run (R326): the first decision stands, but an abort takes over from a stop, and `force`
replaces an earlier one. -/
def Run.decide (r : Run) (st : Status) (detail : BitVec 8) (cause : Nat) (force : Bool) : Run :=
  match r.outcome with
  | some (.ok, _) => { r with outcome := some (st, detail), cause, state := .ending }
  | some _ => if force then { r with outcome := some (st, detail), cause, state := .ending } else r
  | none => { r with outcome := some (st, detail), cause, state := .ending }

/-- ABORT of a lock group (R139, R142): the end of its running run is decided, unless its members are done, and the line
is asserted. -/
def State.abortGroup (s : State) (g : Nat) (st : Status) (detail : BitVec 8) (cause : Nat) : State :=
  match s.running g with
  | none => s
  | some r =>
    let s := if s.runDone r then s else s.updRun r.tag fun r => r.decide st detail cause false
    s.lineUp g lnAbort s.tb 1

/-- A run ends within a step, wherever its clusters stand (R342, R343): they stop and its final reply is formed. -/
def State.runKill (s : State) (tag : BitVec 12) (st : Status) (detail : BitVec 8) (cause : Nat) : State :=
  match s.run? tag with
  | none => s
  | some r =>
    let s := s.updRun tag fun r => r.decide st detail cause true
    ((s.runClusters r).foldl (fun s k => s.clusterAbort r k 1 true) s).runClose tag

/-- Abort an accepted run as RUN_ABORT does (R218, R317, R326, R371): one that has not started is revoked, a running one
is aborted, with detail HOST. `cause` is the event that reports why, 0 for none. -/
def State.hostAbort (s : State) (r : Run) (cause : Nat) : State :=
  if r.started then s.abortGroup r.group .revoked 0x07 cause
  else (s.unarm r).runFinal r.tag .revoked 0x07 cause

/-- Abort every accepted run (R280, R317, R371). -/
def State.hostAbortAll (s : State) (cause : Nat) : State := s.runs.foldl (fun s r => s.hostAbort r cause) s

/-- Disconnect by the orderly path every connected channel that no accepted run holds (R317, R371): one request for each
channel or gang. -/
def State.disconnectUnheld (s : State) : State :=
  (s.chanNums.filter fun n => s.connected n && !s.held n && !(s.chan n).st.gangMember).foldl
    (fun s n => s.orderlyDisconnect n) s

end Sys2Proof.Machine
end

