-- ==== Sys2Proof/Machine/Fault.lean ====
section
/-! DEFINITION. Faults and their handling (R336 to R347), and the rows that raise a CHANNEL or a DIE fault. -/

namespace Sys2Proof.Machine

/-! ### Scopes -/

/-- The clusters that a located fault names itself: one cluster, a die, the members of a lock group, or those of the
spanning groups (R106). -/
def State.located (s : State) (sc : Scope) : List Nat :=
  match sc.locKind with
  | 1 => (List.range 8).map (· + 8 * sc.location)
  | 2 => [sc.location]
  | 3 => [clusterOf sc.location]
  | 4 => s.membersOf sc.location
  | 7 => (List.range 32).flatMap fun g => if (s.group g).span then s.membersOf g else []
  | _ => s.clusterNums

/-- The lock groups of a CLUSTER or DIE scope: those with a member among the located clusters (R336). -/
def State.scopeGroups (s : State) (sc : Scope) : List Nat :=
  let ks := s.located sc
  (List.range 32).filter fun g => (s.membersOf g).any ks.contains

/-- The channels of a scope (R336, R337): a channel or gang, else every channel of its clusters and of its lock
groups. -/
def State.scopeChans (s : State) (sc : Scope) : List Nat :=
  match sc.sev with
  | .channel => (s.gangLanes sc.location).map (chanOf (clusterOf sc.location))
  | .part => s.chanNums
  | _ => (s.located sc ++ (s.scopeGroups sc).flatMap s.membersOf).eraseDups.flatMap fun k =>
      (List.range 8).map (chanOf k)

/-- Two scopes overlap (R337). -/
def State.overlap (s : State) (a b : Scope) : Bool :=
  let xs := s.scopeChans b
  (s.scopeChans a).any xs.contains

/-- The die whose controller handles a fault: the die of its location, die 0 for a part-wide one or the lock link. -/
def Scope.die (sc : Scope) : Nat :=
  match sc.locKind with
  | 1 => sc.location
  | 2 => dieOfCluster sc.location
  | 3 => sc.location / 64
  | _ => 0

/-- The running run that maps a channel. -/
def State.runOfChan (s : State) (n : Nat) : Option (BitVec 12) :=
  (s.runs.find? fun r => r.started && r.mapped.contains n).map Run.tag

/-! ### The end of a handling -/

/-- LINK_BACK from the next record to an earlier one (R338): 0 where it does not reach. -/
def State.linkTo (s : State) (seq : Nat) : Nat :=
  let d := s.ev.seqNext - seq
  if seq = 0 ∨ s.ev.seqNext ≤ seq ∨ d > 0xFFFF then 0 else d

/-- The epoch advances and the EPOCH_MARK of a handling enters the device queue (R346); `out` says that its scope left
service. -/
def State.epochMark (s : State) (h : Handling) (out : Bool) : State :=
  let old := s.boot.epoch
  let s := s.updBoot fun b => { b with epoch := if old = 0xFFFF then 1 else old + 1 }
  s.raise_ { code := evEpochMark, tb := s.tb, locKind := h.scope.locKind, location := h.scope.location
             linkBack := s.linkTo h.seq, detail := old.toNat + h.scope.sev.code * 2 ^ 16 + bit out * 2 ^ 19 }

/-- The handling of a die ends with its mark (R336, R346). -/
def State.endHandling (s : State) (d : Nat) (h : Handling) (out : Bool) : State :=
  (s.updDie d fun x => { x with hand := none }).epochMark h out

/-- A cluster of a run has underrun and waits for its segment boundary (R139). -/
def State.underWaits (s : State) (r : Run) : Bool :=
  r.started && (s.runClusters r).any fun k => (s.seq k).underTb.isSome && (s.seq k).state == .running

/-- A CLUSTER handling still waits for a final reply: a run of its groups that started has not ended (R341). -/
def State.clusterWaits (s : State) (h : Handling) : Bool :=
  (s.scopeGroups h.scope).any fun g => (s.runsOf g).any fun r =>
    (r.state == .ending && r.outcome.isSome) || (h.later && s.underWaits r)

/-- End every CLUSTER handling whose final replies have all been formed (R341). -/
def State.endClusterHandlings (s : State) : State :=
  s.dieNums.foldl (fun s d =>
    match (s.die d).hand with
    | some h => if h.scope.sev == .cluster && !s.clusterWaits h then s.endHandling d h false else s
    | none => s) s

/-! ### CHANNEL and CLUSTER handling -/

/-- How the runs that a CLUSTER fault aborts answer (R93, R106, R139, R191). -/
def faultOutcome (code : BitVec 16) : Status × BitVec 8 :=
  if code = 0x0021 then (.hwFault, 0x03)
  else if code = 0x0024 then (.hwFault, 0x04)
  else if code = 0x0032 then (.hwFault, 0x05)
  else if code = 0x0034 then (.timeout, 0x03)
  else (.hwFault, 0x09)

/-- CHANNEL handling (R340): LOST in the records of a running run, which goes on without the channels; runs that have not
started and map one are revoked. -/
def State.channelHandling (s : State) (h : Handling) : State :=
  let ns := s.scopeChans h.scope
  let s := ns.foldl (fun s n =>
    match s.runs.find? fun r => r.started && r.mapped.contains n with
    | some r => (s.updChan n fun c => { c with faulted := true }).updRec r.group n fun e => { e with lost := true }
    | none => s) s
  s.revokeRuns (fun r => r.mapped.any ns.contains) 0x04 h.seq

/-- The start of a CLUSTER handling (R341): ABORT on every lock group of its scope, and its runs that have not started
are revoked. -/
def State.clusterHandling (s : State) (d : Nat) (h : Handling) : State :=
  let gs := s.scopeGroups h.scope
  let (st, detail) := faultOutcome h.code
  let s := if h.later then s else gs.foldl (fun s g => s.abortGroup g st detail h.seq) s
  let s := s.revokeRuns (fun r => gs.contains r.group) 0x04 h.seq
  (s.updDie d fun x => { x with hand := some h }).endClusterHandlings

/-! ### DIE handling -/

/-- The images with sections on a die become BROKEN (R253), and the runs on them that have not started are revoked. An
image that still loads follows its IMAGE_LOAD. -/
def State.breakImages (s : State) (d detail cause : Nat) : State :=
  let hits (i : Image) : Bool := hasBit i.dieMask d && i.state != .loading
  let hit := (s.images.filter hits).map Image.id
  let break_ (i : Image) : Image := if hits i then { i with state := .broken, lost := setBit i.lost d } else i
  let s := { s with images := s.images.map break_ }
  s.revokeRuns (fun r => hit.contains r.image) detail cause

/-- The content of a die's DRAM is lost: its images break, and its result records, histogram blocks, fail logs and
capture streams are gone (R253, R272, R342). -/
def State.dieContentLost (s : State) (d detail cause : Nat) : State :=
  let lose (r : Run) : Run :=
    if r.started && r.mapped.any (fun n => n / 64 == d) then { r with dramLost := true } else r
  let s : State := { s with
    results := s.results.map fun x =>
      { x with recs := x.recs.filter fun e => e.ch / 64 != d, hists := x.hists.filter fun b => b.ch / 64 != d }
    runs := s.runs.map lose }
  let s := s.updClusters (fun k _ => dieOfCluster k == d) fun _ c =>
    { c with caps := c.caps.map fun _ => Cap.reset, flog := { c.flog with kept := [], wr := 0 } }
  (s.updDram d fun m => { m with mem := [], reqs := [] }).breakImages d detail cause

/-- A die leaves every lock group (R25). -/
def State.leaveGroups (s : State) (d : Nat) : State :=
  { s with groups := s.groups.map fun g =>
      let members := maskOf 64 ((bitsOf g.members).filter fun k => dieOfCluster k != d)
      if members = 0 then Group.empty
      else { g with members, master := g.master.filter fun k => dieOfCluster k != d } }

/-- The still cause of a DIE handling (R69, R342); where the spec names none, a free value (log entry 7). -/
def State.dieCause (s : State) (code : BitVec 16) : BitVec 4 × State :=
  if code = 0x0072 then (6, s)
  else if code = 0x0022 ∨ code = 0x0015 then (7, s)
  else if code = 0x0060 then (9, s)
  else
    let (v, s) := s.takeFree
    (v.setWidth 4, s)

/-- An operation of the diagnostic window in progress on a die that goes offline, or that is lost for its
recovery, ends with HW_FAULT (R305). How many words
it had done is open, so VALID is a free value up to what it would have reached (log entry 7). -/
def State.diagLost (s : State) (d : Nat) : State :=
  if s.diag.busy ∧ (s.diag.addrLo.toNat + s.diag.addrHi.toNat * 2 ^ 32) / 2 ^ 37 = d ∧ s.boot.ready then
    let (v, s) := s.takeFree
    { s with diag := { s.diag with
        busy := false, status := BitVec.ofNat 8 Status.hwFault.code, valid := v.toNat % (s.diag.valid + 1) } }
  else s

/-- Steps 1 to 3 of a DIE handling (R342). The records on the die are dropped unless its DRAM will be kept. -/
def State.dieStop (s : State) (d : Nat) (h : Handling) : State :=
  let (cause, s) := s.dieCause h.code
  let s := (s.hwStillDie d cause).diagLost d
  let s := s.updDie d fun x => { x with st := .recovering, loadCap := 0, bwCap := 0, springCap := 0 }
  let s := if h.lockKept then s else s.dieContentLost d 0x03 h.seq
  let gs := (List.range 32).filter fun g => (s.membersOf g).any fun k => dieOfCluster k == d
  let s := (s.runs.filter fun r => r.started && gs.contains r.group).foldl
    (fun s r => s.runKill r.tag .hwFault 0x09 h.seq) s
  let s := s.revokeRuns (fun r => gs.contains r.group || (s.imgDies r.image).contains d) 0x03 h.seq
  (s.works.filter fun w => w.done.isNone && hasBit w.dieMask d).foldl (fun s w => s.revoke w 0x03 h.seq) s

/-- Queued faults whose whole scope lies on a die that has been reset are to be discarded (R344). -/
def State.markStale (s : State) (d : Nat) : State :=
  let mark (h : Handling) : Handling :=
    if (s.scopeChans h.scope).all (fun n => n / 64 == d) then { h with stale := true } else h
  { s with dies := s.dies.map fun x => { x with handQ := x.handQ.map mark } }

/-- A die leaves service as OFFLINE (R25, R305, R342). -/
def State.dieOut (s : State) (d : Nat) (cause : Nat) : State :=
  let s := (s.diagLost d).updDie d fun x => { x with st := .offline, loadCap := 0, bwCap := 0, springCap := 0 }
  (((s.breakImages d 0x03 cause).leaveGroups d).markStale d)

/-- The thermal state that a reading gives afresh (R399, R410). -/
def Thermal.afresh (x : Thermal) (tj : BitVec 16) (tb : Tb) : Thermal :=
  let v := tjValue tj
  let st : ThmSt := if v ≥ x.shut.toInt then .shutdown else if v ≥ x.throttle.toInt then .throttle
    else if v ≥ x.warn.toInt then .warn else .normal
  { x.note tj tb with
    st, steps := 0, convs := [], graceTb := if st = .throttle then tb + x.graceMs.toNat * 1000000 else 0 }

/-- The event of a thermal state entered from NORMAL (R399). -/
def thermalEvent (st : ThmSt) (d : Nat) (tj : BitVec 16) (tb : Tb) : Option NewEvent :=
  let ev (code : Nat) : NewEvent := { code, tb, locKind := 1, location := d, detail := tj.toNat }
  match st with
  | .normal => none
  | .warn => some (ev evThermalWarn)
  | .throttle => some (ev evThrottle)
  | .shutdown => some (ev evThermalShutdown)

/-- Still codes applied again to a die's channels, every switch left open and LAST_STILL_CAUSE kept (R69, R342,
R407). -/
def State.stillAgain (s : State) (d : Nat) : State :=
  s.updChans (fun n _ => n / 64 == d) fun _ c =>
    Chan.noted { c.applyStill c.still with override := none, st := { (c.applyStill c.still).st with switchClosed := false } }
      s.tb c

/-- Steps 4 to 7 of a DIE handling (R342): the die is started anew. Whether its calibration RAM survives is open (R393),
so that one bit is a free value. A reading at or above SHUTDOWN leaves the die THERMAL_OFF (R408). -/
def State.dieRestart (s : State) (d : Nat) (h : Handling) (rec : RecEnv) : State :=
  let (v, s) := s.takeFree
  let s := s.updDie d fun x =>
    { x with
      tbLock := true, aligned := true
      cal := if hasBit v 0 then x.cal else []
      calRun := none
      calNet := 0
      thm := x.thm.afresh rec.tj s.tb
      deskewTj := if rec.tj = 0x8000 then x.deskewTj else rec.tj
      rps := { Rps.reset with
               reqCnt := x.rps.reqCnt, abandonCnt := x.rps.abandonCnt
               ctxs := Rps.reset.ctxs.mapIdx fun c y => { y with selfTest := rec.selfTest.getD c 0 } } }
  let s := (s.patchDie d).2
  let s := if h.lockKept then s else s.trainDie d rec.dram rec.tj
  let s := (s.stillAgain d).updChans (fun n _ => n / 64 == d) fun _ c =>
    { c with st := { c.st with rpsBusy := false, rangeSettle := false } }
  let thm := (s.die d).thm.st
  let s := match thermalEvent thm d rec.tj s.tb with
    | some e => s.raise_ e
    | none => s
  let off := thm == .shutdown
  let caps := (s.die d).dram.st.caps
  let s := s.updDie d fun x =>
    if off then { x with st := .thermalOff }
    else { x with st := .active, loadCap := 16000, bwCap := caps.1, springCap := caps.2 }
  (s.markStale d).endHandling d h off

/-- A DIE handling (R342): steps 1 to 3, then the die's restart, or its leaving service. Where the restart is not given with
the fault, the die stays RECOVERING until HANDLING_DEQUEUE brings it, or until its time is missed (log entry 52). -/
def State.dieHandling (s : State) (d : Nat) (h : Handling) (rec : Option RecEnv) : State :=
  let s := s.dieStop d h
  if h.code = 0x0072 then
    let s := s.updDie d fun x =>
      { x with st := .thermalOff, thm := { x.thm with st := .shutdown, graceTb := 0 } }
    (s.markStale d).endHandling d h true
  else if h.code = 0x0043 then (s.dieOut d h.seq).endHandling d h true
  else
    match rec with
    | some r => if r.started then s.dieRestart d h r else s.updDie d fun x => { x with hand := some h }
    | none => s.updDie d fun x => { x with hand := some h }

/-- Start a handling (R336); RCV_LAST_SEQ names its event (R350). -/
def State.startHandling (s : State) (d : Nat) (h : Handling) (rec : Option RecEnv) : State :=
  let s := s.updDie d fun x => { x with lastSeq := h.seq }
  match h.scope.sev with
  | .channel => s.channelHandling h
  | .cluster => s.clusterHandling d h
  | .die => s.dieHandling d h rec
  | _ => s

/-! ### Raising a fault -/

/-- What becomes of a new fault (R344, R345). -/
inductive Fate where
  | start
  | wait
  | escalate (d : Nat) (h : Handling)
  deriving DecidableEq, Repr

/-- The fate of a fault on die `d` (R344): a handling in hand that overlaps and is less severe is taken over; otherwise
the fault waits behind what is in hand or queued. -/
def State.fate (s : State) (d : Nat) (sc : Scope) : Fate :=
  match (s.die d).hand with
  | some h => if s.overlap sc h.scope && decide (h.scope.sev.code < sc.sev.code) then .escalate d h else .wait
  | none =>
    let other := s.dieNums.findSome? fun o =>
      match (s.die o).hand with
      | some h => if o ≠ d ∧ s.overlap sc h.scope then some (o, h) else none
      | none => none
    match other with
    | some (o, h) => if h.scope.sev.code < sc.sev.code then .escalate o h else .wait
    | none => if (s.die d).handQ.isEmpty then .start else .wait

/-- The cause of a PART recovery and its still cause (R339, R343, R405). -/
def partCause (code : BitVec 16) : Nat × BitVec 4 :=
  if code = 0x0060 then (1, 10)
  else if code = 0x0022 then (2, 10)
  else if code = 0x0015 then (3, 10)
  else if code = 0x0072 then (5, 6)
  else (4, 10)

/-- A fault finds the queue full (R345): it is handled as a DIE fault of its own die, on die 0 as PART. A DIE handling in
hand there resets the fault's scope itself. -/
def State.queueFull (s : State) (d : Nat) (h : Handling) (rec : Option RecEnv) (boot : Option BootEnv) : State :=
  let s := s.updDie d fun x => { x with ovfCnt := inc32 x.ovfCnt }
  if d = 0 then s.partRecovery 4 s.tb 10 boot
  else
    match (s.die d).hand with
    | some o => if o.scope.sev = .die then s
      else s.dieHandling d { h with scope := { sev := .die, locKind := 1, location := d } } rec
    | none => s.dieHandling d { h with scope := { sev := .die, locKind := 1, location := d } } rec

/-- A queued fault's scope takes in that of another at equal or higher severity (R345; log entry 72). -/
def State.covers (s : State) (x h : Handling) : Bool :=
  let xs := s.scopeChans x.scope
  (s.scopeChans h.scope).all xs.contains && decide (h.scope.sev.code ≤ x.scope.sev.code)

/-- A fault is queued, merged into an entry that covers it, or escalated on a full queue (R345). -/
def State.queueFault (s : State) (d : Nat) (h : Handling) (rec : Option RecEnv) (boot : Option BootEnv) : State :=
  let q := (s.die d).handQ
  if q.any fun x => s.covers x h then s
  else if q.length < 64 then s.updDie d fun x => { x with handQ := x.handQ ++ [h] }
  else s.queueFull d h rec boot

/-- A fault of die 0 whose severity is DIE is handled as PART (R337, R343). -/
def State.faultPart (s : State) (e : NewEvent) (boot : Option BootEnv) : State :=
  let s := s.raise_ e
  let (cause, still) := partCause (BitVec.ofNat 16 e.code)
  s.partRecovery cause e.tb still boot

/-- A fault of another die during a boot takes the die offline where it is a DIE fault (R438). -/
def State.faultBoot (s : State) (d : Nat) (sc : Scope) (e : NewEvent) : State :=
  if sc.sev = .die then s.bootOffline d else s.raise_ e

/-- A fault is raised: its event, and its handling as R336 to R345 lay down. A CLUSTER fault asserts ABORT at once,
whatever waits (R93, R106, R139, R191), but `later` where the abort waits for a segment boundary (R139). -/
def State.fault (s : State) (sc : Scope) (e : NewEvent) (rec : Option RecEnv) (boot : Option BootEnv)
    (later : Bool := false) : State :=
  let d := sc.die
  if sc.sev = .die ∧ d = 0 then s.faultPart e boot
  else if !s.boot.ready then s.faultBoot d sc e
  else
    let fate := s.fate d sc
    let (seq, s) := match fate with
      | .escalate _ h => s.raise { e with escalated := true, linkBack := s.linkTo h.seq }
      | _ => s.raise e
    let code := BitVec.ofNat 16 e.code
    let h : Handling := { scope := sc, seq, code, tb := e.tb, out := false, lockKept := code != 0x0022 && code != 0x0043,
                          stale := false, later }
    let (st, detail) := faultOutcome code
    let s := if sc.sev = .cluster ∧ ¬ later then
        (s.scopeGroups sc).foldl (fun s g => s.abortGroup g st detail seq) s
      else s
    match fate with
    | .start => s.startHandling d h rec
    | .wait => s.queueFault d h rec boot
    | .escalate o _ =>
      let by_ := if o = d then d else 0
      let s := s.updDie o fun x => { x with hand := none }
      let s := s.updDie by_ fun x => { x with escCnt := inc32 x.escCnt }
      s.startHandling d h rec

/-- A DIE-scope event of die `d`. -/
def dieScope (d : Nat) : Scope := { sev := .die, locKind := 1, location := d }

/-! ### CHANNEL faults -/

/-- A CHANNEL fault of channel `n` (R340). -/
def State.faultChannel (s : State) (n code detail : Nat) : State :=
  s.fault { sev := .channel, locKind := 3, location := n }
    { code, tb := s.tb, locKind := 3, location := n, run := s.runOfChan n, detail } none none

/-- A monitor puts channel `n` into hardware still and raises its event (R61, R62, R77). -/
def State.monitorTrip (s : State) (n : Nat) (cause : BitVec 4) (code detail : Nat) (flag : ChFlags → ChFlags) : State :=
  let s := s.updChan n fun c => { c with fl := flag c.fl }
  (s.hwStill n cause).faultChannel n code detail

/-- PROT_TRIP (R62): the sense point of a connected channel lies outside PROT_LO to PROT_HI for 1 µs. -/
def execProtTrip (t : Tb) (n : Nat) (above : Bool) (s : State) : Host.Outcome State Fault Refusal :=
  let s := s.at t
  .next (if s.hasChan n && s.connected n then
      s.monitorTrip n 4 evProtTrip (bit above) fun f => { f with protTrip := true }
    else s)

/-- SENSE_DIVERGE (R61): force node and sense point of a channel connected in FV or FI differ by more than 1 V for 10 µs;
a range change suspends the monitor. -/
def execSenseDiverge (t : Tb) (n : Nat) (s : State) : Host.Outcome State Fault Refusal :=
  let s := s.at t
  let c := s.chan n
  .next (if s.hasChan n && s.connected n && (c.st.mode == .fv || c.st.mode == .fi) && !c.st.rangeSettle then
      s.monitorTrip n 5 evSenseDiverge 0 fun f => { f with senseDiverge := true }
    else s)

/-- The output switch of channel `n` is closed by a connect in progress that has not ended: it has closed 20 µs after the
start at the latest (R65, step 3; log entry 49). `free` says it for the instants before. -/
def State.closing (s : State) (n : Nat) (free : Bool) : Bool :=
  let x := s.ctx (dieOfCluster (clusterOf n)) (clusterOf n % 8)
  match x.cur with
  | some { op := .connect _ _ _, live, .. } =>
    hasBit live (laneOf n) && (free || decide (x.startTb + 20000 ≤ s.tb))
  | _ => false

/-- OVERTEMP_STAGE (R77): the live and sticky bits and the event; a channel whose switch is closed, or its gang, enters
hardware still. -/
def execOvertempStage (t : Tb) (n : Nat) (pmu : Bool) (s : State) : Host.Outcome State Fault Refusal :=
  let s := s.at t
  let (v, s) := s.takeFree
  let live (c : Chan) : Chan :=
    if pmu then { c with st := { c.st with otPmuLive := true }, fl := { c.fl with otPmu := true } }
    else { c with st := { c.st with otDrvLive := true }, fl := { c.fl with otDrv := true } }
  let st := (s.chan n).st
  .next (if !s.hasChan n || (if pmu then st.otPmuLive else st.otDrvLive) then s
    else if s.connected n || s.closing n (v.getLsbD 0) then
      ((s.updChan n live).hwStill n 3).faultChannel n evOvertempStage (bit pmu)
    else (s.updChan n live).raise_
      { code := evOvertempStage, tb := s.tb, locKind := 3, location := n, detail := bit pmu })

/-- OT_FLAG_CLEAR (R77). -/
def execOtFlagClear (t : Tb) (n : Nat) (pmu : Bool) (s : State) : Host.Outcome State Fault Refusal :=
  .next ((s.at t).updChan n fun c =>
    { c with st := if pmu then { c.st with otPmuLive := false } else { c.st with otDrvLive := false } })

/-! ### DIE faults -/

/-- A die that works: present, and neither offline nor being recovered. -/
def State.dieWorks (s : State) (d : Nat) : Bool :=
  s.hasDie d && ((s.die d).st == .active || (s.die d).st == .thermalOff)

/-- FW_WATCHDOG (R349): the firmware watchdog of die `d` was not serviced for 50 ms. FW_WD_CNT holds at its greatest value
(DESIGN CHOICE, unsafe, log entry 77). -/
def execFwWatchdog (t : Tb) (d : Nat) (rec : Option RecEnv) (boot : Option BootEnv) (s : State) :
    Host.Outcome State Fault Refusal :=
  let s := s.at t
  .next (if s.dieWorks d then
      (s.updDie d fun x => { x with wdCnt := satTo 16 (x.wdCnt + 1) }).fault (dieScope d)
        { code := evFwWatchdog, tb := s.tb, locKind := 1, location := d } rec boot
    else s)

/-- TBPLL_LOL (R39): the time-base PLL of die `d` loses lock. -/
def execTbpllLol (t : Tb) (d : Nat) (rec : Option RecEnv) (boot : Option BootEnv) (s : State) :
    Host.Outcome State Fault Refusal :=
  let s := s.at t
  .next (if s.hasDie d && (s.die d).tbLock then
      (if d = 0 then s else s.updDie d fun x => { x with tbLock := false, aligned := false, tbLoose := s.tb }).fault
        (dieScope d) { code := evTbpllLol, tb := s.tb, locKind := 1, location := d } rec boot
    else s)

/-- RPS_FAULT (R428): every context of the die stops, the fault is recorded and DIE handling follows. -/
def execRpsFault (t : Tb) (d : Nat) (ctx : BitVec 3) (kind : BitVec 4) (addr : BitVec 13) (rec : Option RecEnv)
    (boot : Option BootEnv) (s : State) : Host.Outcome State Fault Refusal :=
  let s := s.at t
  .next (if s.dieWorks d && !(s.die d).rps.fault then
      ((s.microSyncAll d).updRps d fun r => { r with fault := true, faultAddr := addr, faultCtx := ctx, faultKind := kind }).fault
        (dieScope d)
        { code := evRpsFault, tb := s.tb, locKind := 1, location := d, detail := addr.toNat % 4096 } rec boot
    else s)

/-- A die in recovery goes OFFLINE instead, with the event that says why (R25, R342). -/
def State.recoveryLost (s : State) (d : Nat) (h : Handling) (detail : Nat) : State :=
  let (seq, s) := s.raise { code := evDieOffline, tb := s.tb, locKind := 1, location := d, detail }
  let s := if h.lockKept then s.dieContentLost d 0x03 seq else s
  (s.dieOut d seq).endHandling d h true

/-- DIE_RECOVERY_TIMEOUT (R342): a step of the DIE handling in hand misses its time; the die goes OFFLINE. -/
def execDieRecoveryTimeout (t : Tb) (d : Nat) (s : State) : Host.Outcome State Fault Refusal :=
  let s := s.at t
  .next (match (s.die d).hand with
    | some h =>
      if h.scope.sev = .die ∧ (s.die d).st = .recovering then s.recoveryLost d h 1 else s
    | none => s)

/-- HANDLING_DEQUEUE (R342, R344): the DIE handling in hand that waits for the die's restart ends, where the restart is
given (log entry 52); else the oldest queued fault of die `d` has its turn, and is discarded where an earlier handling
has reset its whole scope. -/
def execHandlingDequeue (t : Tb) (d : Nat) (rec : Option RecEnv) (s : State) : Host.Outcome State Fault Refusal :=
  let s := s.at t
  .next (match (s.die d).hand, (s.die d).handQ with
    | some h, _ =>
      match rec with
      | some r => if h.scope.sev = .die ∧ (s.die d).st = .recovering ∧ r.started then s.dieRestart d h r else s
      | none => s
    | none, h :: q =>
      if s.dieNums.any (fun o => (s.die o).hand.any fun x => s.overlap h.scope x.scope) then s
      else
        let s := s.updDie d fun x => { x with handQ := q }
        if h.stale then s else s.startHandling d h rec
    | none, [] => s)

/-! ### Bridge links -/

/-- A BULK transfer of some work exceeds what the host link or a bridge link carries somewhere in its window. -/
def State.overLink (s : State) (tag : BitVec 12) : Bool :=
  let tab := s.table
  s.bulks.any fun b =>
    b.tag == tag && !b.done &&
      (let ts := instants tab b.start (some b.stop)
       let (links, _) := s.bridgePath b.die b.dir
       ts.any fun t =>
         decide (sumAt tab t (fun x => if x.dir = b.dir then x.dma else 0) > s.dmaCapacity)
           || links.any fun l => decide (sumAt tab t (fun x => if l ∈ x.links then x.rate else 0) > 30000))

/-- Revoke BULK transfers that have not begun to move until the rest fits, latest accepted first (R220, R221, R281). `n`
bounds the revocations. -/
def State.linkShrink (s : State) : Nat → State
  | 0 => s
  | n + 1 =>
    let ws := (s.works.filter fun w => w.done.isNone && (s.bulks.any fun b => b.tag == w.tag)
      && !(s.bulks.any fun b => b.tag == w.tag && b.moving)).reverse
    match ws.find? fun w => s.overLink w.tag with
    | some w => State.linkShrink (s.revoke w 0x05 0) n
    | none => s

/-- The capacity of the host link or of a bridge path fell (R221, R281): what does not fit is revoked, and transfers that
move already finish at the reduced rate. -/
def State.linkFell (s : State) : State :=
  let s := s.linkShrink s.works.length
  { s with bulks := s.bulks.map fun b => if b.moving && !b.done && s.overLink b.tag then { b with slow := true } else b }

/-- A die that can no longer be reached goes offline (R25): by its DIE_OFFLINE fault, or out of the recovery in hand. -/
def State.cutOff (s : State) (d : Nat) : State :=
  if s.dieWorks d then
    s.fault (dieScope d) { code := evDieOffline, tb := s.tb, locKind := 1, location := d } none none
  else match (s.die d).hand with
    | some h => if (s.die d).st = .recovering then s.recoveryLost d h 0 else s
    | none => s

/-- BRIDGE_DEGRADE (R25): a die-bridge link fails; traffic takes the other direction, and a die that can no longer be
reached goes offline. -/
def execBridgeDegrade (t : Tb) (port : Nat) (s : State) : Host.Outcome State Fault Refusal :=
  let s := s.at t
  let i := s.linkOfPort port
  .next (if port < 2 * s.model.dies ∧ s.linkOk i then
      let s := (s.cutLink i).raise_ { code := evBridgeDegrade, tb := s.tb, locKind := 6, location := port }
      let s := s.linkFell
      (s.dieNums.filter s.unreachable).foldl State.cutOff s
    else s)

end Sys2Proof.Machine
end

