-- ==== Sys2Proof/Machine/Host.lean ====
section
/-! DEFINITION. BAR 0 and BAR 2 (R283 to R305): the control window's words, reads and writes, the rings and doorbells,
the diagnostic indirect window, the aperture, and PTM. -/

namespace Sys2Proof.Machine

/-! ### The words of BAR 0 -/

/-- The transfer that a DMA channel carries (R298). -/
def State.carried (s : State) (ch : Nat) : Option Bulk := s.bulks.find? fun b => b.channel == ch && b.moving && !b.done

/-- DMA_STATE of a channel (R291). -/
def State.dmaWord (s : State) (ch : Nat) : Word :=
  let queued := (s.bulks.filter fun b => b.channel == ch && !b.moving && !b.done).length
  match s.carried ch with
  | some b => packWord [(0, 1), (1, bit b.dir), (2, bit (!s.unreachable b.die)), (8, queued), (16, b.rate / 125)]
  | none => packWord [(8, queued)]

/-- The ring registers of a ring at a base (R292). -/
def Ring.words (r : Ring) (off : Nat) : List (Nat × Word) :=
  pairWords off r.base.toNat
    ++ [(off + 0x08, packWord [(0, r.sizeLog2), (8, bit r.enable), (16, r.vector)]), (off + 0x0C, word r.index.toNat)]
    ++ pairWords (off + 0x10) r.wb.toNat ++ [(off + 0x18, word r.coal)]

/-- The ring registers of an inlet at a base (R292). -/
def Inlet.words (r : Inlet) (off : Nat) : List (Nat × Word) :=
  pairWords off r.base.toNat
    ++ [(off + 0x08, packWord [(0, r.sizeLog2), (8, bit r.enable)]), (off + 0x0C, word r.index.toNat)]

/-- The identity and boot-status block (R290). -/
def State.idWords (s : State) : List (Nat × Word) :=
  [(0x000, packWord [(0, 0x1F3C), (16, s.model.device.toNat)]),
   (0x004, packWord [(0, s.model.mask.toNat), (8, s.dieMask.toNat), (16, 0xB0)]), (0x008, s.boot.fwVersion),
   (0x00C, s.boot.statusWord)] ++ pairWords 0x010 s.boot.readyTb ++ pairWords 0x018 s.otp.serial.toNat

/-- The part-status and interrupt-cause block (R291). -/
def State.partWords (s : State) : List (Nat × Word) :=
  let p := s.pci
  [(0x1000, packWord [(0, s.boot.part.code), (16, s.boot.epoch.toNat)]), (0x1004, word p.intOutlet.toNat),
   (0x1008, p.miscWord),
   (0x100C, word (maskOf 16 ((List.range 16).filter fun i => (s.inlet i).stopped)).toNat), (0x1014, word p.fetchMax),
   (0x1018, word s.heldCount),
   (0x101C, packWord [(0, p.width), (8, p.speed), (16, bit (p.aspmL1 && !s.runs.isEmpty))]),
   (0x1020, word p.bar2Discard), (0x1024, word p.bar0Partial), (0x1028, word p.dbBad)]
    ++ (List.range 8).flatMap (fun ch =>
        [(0x1040 + 8 * ch, s.dmaWord ch), (0x1044 + 8 * ch, word ((s.dma.map Dma.doneKib).getD ch 0))])
    ++ [(0x1080, packWord [(28, p.apBaseLo.toNat)]),
        (0x1084, packWord [(0, p.apBaseHi.toNat), (5, p.apDie.toNat), (16, bit p.apBad)])]

/-- The ring setup block (R292). -/
def State.ringWords (s : State) : List (Nat × Word) :=
  s.inlets.zipIdx.flatMap (fun x => x.1.words (0x2000 + 0x20 * x.2))
    ++ s.outlets.zipIdx.flatMap (fun x => x.1.words (0x2200 + 0x20 * x.2)) ++ s.evRing.words 0x2400

/-- The time-base and PTM block (R302). -/
def State.timeWords (s : State) : List (Nat × Word) :=
  let p := s.ptm
  pairWords 0x4000 s.tb
    ++ [(0x4008, packWord [(0, bit p.enable), (16, p.interval)]), (0x400C, packWord [(0, bit p.valid), (8, p.pairs)])]
    ++ pairWords 0x4010 p.pairTb ++ pairWords 0x4018 p.pairHost.toNat ++ [(0x4020, word p.prop)]

/-- The diagnostic window's block (R304). -/
def State.diagWords (s : State) : List (Nat × Word) :=
  let x := s.diag
  [(0x8000, x.addrLo), (0x8004, word x.addrHi.toNat),
   (0x8008, packWord [(0, x.count), (8, bit x.write), (9, bit x.snap)]),
   (0x800C, packWord [(0, bit x.busy), (1, bit x.early), (8, x.valid), (16, x.status.toNat)])]
    ++ if x.busy then [] else arrayWords 0x8100 4 x.data

/-- The blocks of BAR 0 that are served at the present boot stage (R285). -/
def State.blockServed (s : State) (off : Nat) : Bool := decide (off < 0x2000) || s.ringsServed

/-- The live words of BAR 0 (R284). -/
def State.bar0Words (s : State) : List (Nat × Word) :=
  s.idWords ++ s.partWords ++ if s.ringsServed then s.ringWords ++ s.timeWords ++ s.diagWords else []

/-- The registers of a snapshot group of BAR 0 (R288). -/
def inGroup (g off : Nat) : Bool :=
  match g with
  | 0 => decide (0x4000 ≤ off) && decide (off < 0x4024)
  | 1 => decide (0x1040 ≤ off) && decide (off < 0x1080)
  | 2 => decide (0x2000 ≤ off) && decide (off < 0x2420) && off % 0x20 == 0x0C
  | 3 => off == 0x1004 || off == 0x1008
  | _ => false

/-- A register's word: the frozen copy where its group is frozen (R288), else the live one. -/
def State.bar0Word (s : State) (off : Nat) : Word :=
  match s.frozen with
  | some f => if inGroup f.group off then wordAt f.words off else wordAt s.bar0Words off
  | none => wordAt s.bar0Words off

/-- The _LO registers of BAR 0 whose _HI halves change by themselves; RW pairs return what was written (R11, R287). -/
def bar0Lo (off : Nat) : Bool := decide (off ∈ [0x0010, 0x0018, 0x4000, 0x4010, 0x4018])

/-- What a read of BAR 0 clears, and the EARLY of an access to DIAG_DATA while BUSY (R11, R305). -/
def State.bar0Clear (s : State) (off : Nat) : State :=
  if off = 0x1014 then s.updPci fun p => { p with fetchMax := 0 }
  else if off = 0x1020 then s.updPci fun p => { p with bar2Discard := 0 }
  else if off = 0x1024 then s.updPci fun p => { p with bar0Partial := 0 }
  else if off = 0x1028 then s.updPci fun p => { p with dbBad := 0 }
  else if 0x8100 ≤ off ∧ off < 0x8200 ∧ s.ringsServed ∧ s.diag.busy then
    { s with diag := { s.diag with early := true } }
  else s

/-- What the part has moved of a transfer in progress is not given, so DMA_DONE of a busy channel is a free value that
stays within the transfer's size (log entry 7). -/
def State.dmaDone (s : State) (off : Nat) : Option (Word × State) :=
  if 0x1044 ≤ off ∧ off < 0x1080 ∧ off % 8 = 4 ∧ (s.frozen.any fun f => f.group == 1) = false then
    (s.carried ((off - 0x1044) / 8)).map fun b =>
      let (v, s) := s.takeFree
      (word (v.toNat % (b.bytes / 1024 + 1)), s)
  else none

/-- The bytes of a word that a read's byte enables name (R284). -/
def byteEnabled (v : Word) (be : BitVec 4) : Word :=
  word (((List.range 4).map fun i => if hasBit be i then field v.toNat (8 * i + 7) (8 * i) * 2 ^ (8 * i) else 0).sum)

/-- A read of a word of BAR 0 (R284 to R288). -/
def State.bar0Read (s : State) (off : Nat) (be : BitVec 4) : State :=
  let s := s.updPci fun p => { p with l1 := false }
  let hi := decide (4 ≤ off) && bar0Lo (off - 4)
  let (v, s) := match s.dmaDone off with
    | some r => r
    | none => (if hi then (s.latBar.lookup off).getD 0 else s.bar0Word off, s)
  let lat := if bar0Lo off then (off + 4, s.bar0Word (off + 4)) :: s.latBar.filter fun p => p.1 != off + 4
    else s.latBar
  ({ s with latBar := lat }.bar0Clear off).updOut fun o => { o with readData := [byteEnabled v be] }

/-! ### Rings and doorbells -/

/-- A sign of life of the host (R317). -/
def State.hostSign (s : State) : State :=
  if s.ev.watch then
    let s := s.updEv fun v => { v with lastSign := s.tb }
    if s.ev.hostLost then
      (s.updEv fun v => { v with hostLost := false }).raise_ { code := evHostBack, tb := s.tb }
    else s
  else s

/-- Count a discarded doorbell (R294). -/
def State.badDoorbell (s : State) : State := s.updPci fun p => { p with dbBad := inc32 p.dbBad }

/-- Stop an inlet (R294, R299). -/
def State.stopInlet (s : State) (i : Nat) : State :=
  ((s.updInlet i fun x => { x with stopped := true }).misc .inletErr).raise_
    { code := evInletStopped, tb := s.tb, locKind := 5, location := i }

/-- A write of INLET_DB (R293, R294). A descriptor that it announces counts its time from here. -/
def State.inletDoorbell (s : State) (i : Nat) (v : Word) : State :=
  let s := s.hostSign
  let r := s.inlet i
  let idx : BitVec 16 := v.setWidth 16
  if !r.enable || r.stopped then s.badDoorbell
  else if (idx - r.index).toNat > 2 ^ r.sizeLog2 then s.stopInlet i
  else s.updInlet i fun r =>
    let n := (idx - r.index).toNat
    { r with peer := idx, announced := r.announced.take n ++ List.replicate (n - r.announced.length) s.tb }

/-- The index of an outlet or event doorbell lies between the last one and the part's (R294). -/
def Ring.doorbellOk (r : Ring) (idx : BitVec 16) : Bool :=
  r.enable && decide ((idx - r.peer).toNat ≤ (r.index - r.peer).toNat)

/-- A write of OUTLET_DB (R293, R294). -/
def State.outletDoorbell (s : State) (o : Nat) (v : Word) : State :=
  if (s.outlet o).doorbellOk (v.setWidth 16) then
    (s.updOutlet o fun r => { r with peer := v.setWidth 16 }).flushAll
  else s.badDoorbell

/-- A write of EVENT_DB (R293, R294). -/
def State.eventDoorbell (s : State) (v : Word) : State :=
  if s.evRing.doorbellOk (v.setWidth 16) then { s with evRing := { s.evRing with peer := v.setWidth 16 } }
  else s.badDoorbell

/-- SIZE_LOG2 after a write: a value outside 4 to 12 leaves it (R12, R292). -/
def newSize (old v : Nat) : Nat := if 4 ≤ v ∧ v ≤ 12 then v else old

/-- A ring after a write of CFG (R292). -/
def Ring.cfg (r : Ring) (v : Word) : Ring :=
  let en := hasBit v 8
  let r := if r.enable then r
    else { r with sizeLog2 := newSize r.sizeLog2 (field v.toNat 3 0), vector := field v.toNat 21 16 }
  if en && !r.enable then { r with enable := true, index := 0, peer := 0, msiOwed := false }
  else { r with enable := en }

/-- An inlet after a write of CFG (R292, R294). -/
def Inlet.cfg (r : Inlet) (v : Word) : Inlet :=
  let en := hasBit v 8
  let r := if r.enable then r else { r with sizeLog2 := newSize r.sizeLog2 (field v.toNat 3 0) }
  let r := { r with stopped := false, retried := false }
  if en && !r.enable then { r with enable := true, index := 0, peer := 0, announced := [] }
  else { r with enable := en }

/-- A write of a ring's CFG: it enables or disables the ring; held replies go where they can now (R292, R296, R347). -/
def State.ringCfg (s : State) (r : RingId) (v : Word) : State :=
  match r with
  | .inlet i => s.updInlet i.toNat fun x => x.cfg v
  | .outlet o => (s.updOutlet o.toNat fun x => x.cfg v).flushAll
  | .event => ({ s with evRing := s.evRing.cfg v } : State).flushAll

/-- A 64-bit value with its low or its high word replaced. -/
def putHalf (x : BitVec 64) (hi : Bool) (v : Word) : BitVec 64 :=
  if hi then BitVec.ofNat 64 (x.toNat % 2 ^ 32 + v.toNat * 2 ^ 32)
  else BitVec.ofNat 64 (x.toNat / 2 ^ 32 * 2 ^ 32 + v.toNat)

/-- A ring after a write of one of its registers other than CFG (R292). -/
def Ring.set (r : Ring) (o : Nat) (v : Word) : Ring :=
  if o = 0x18 then { r with coal := v.toNat % 0x10000 }
  else if r.enable then r
  else if o = 0x00 then { r with base := putHalf r.base false (v &&& 0xFFFFF000) }
  else if o = 0x04 then { r with base := putHalf r.base true v }
  else if o = 0x10 then { r with wb := putHalf r.wb false (v &&& 0xFFFFFFF0) }
  else if o = 0x14 then { r with wb := putHalf r.wb true v }
  else r

/-- An inlet after a write of one of its registers other than CFG (R292). -/
def Inlet.set (r : Inlet) (o : Nat) (v : Word) : Inlet :=
  if r.enable then r
  else if o = 0x00 then { r with base := putHalf r.base false (v &&& 0xFFFFF000) }
  else if o = 0x04 then { r with base := putHalf r.base true v }
  else r

/-- A write into the ring setup block (R292). -/
def State.ringSet (s : State) (off : Nat) (v : Word) : State :=
  let o := off % 0x20
  if off < 0x2200 then
    let i := (off - 0x2000) / 0x20
    if o = 0x08 then s.ringCfg (.inlet (BitVec.ofNat 4 i)) v else s.updInlet i fun r => r.set o v
  else if off < 0x2400 then
    let i := (off - 0x2200) / 0x20
    if o = 0x08 then s.ringCfg (.outlet (BitVec.ofNat 4 i)) v else s.updOutlet i fun r => r.set o v
  else if off < 0x2420 then
    if o = 0x08 then s.ringCfg .event v else { s with evRing := s.evRing.set o v }
  else s

/-! ### Snapshot, aperture and the diagnostic window -/

/-- The words of a snapshot group, each a copy of what a read would return at this instant (R288). -/
def State.groupCopy (s : State) (g : Nat) : List (Nat × Word) × State :=
  ((s.bar0Words.map (·.1)).filter (inGroup g)).foldl (fun (p : List (Nat × Word) × State) off =>
    match p.2.dmaDone off with
    | some (v, s) => (p.1 ++ [(off, v)], s)
    | none => (p.1 ++ [(off, wordAt s.bar0Words off)], p.2)) ([], { s with frozen := none })

/-- A write of SNAPSHOT (R288). -/
def State.snap (s : State) (v : Word) : State :=
  let g := field v.toNat 3 0
  if hasBit v 7 then { s with frozen := none }
  else if g < 4 then
    let (words, s) := s.groupCopy g
    { s with frozen := some { group := g, words } }
  else s

/-- A write of APERTURE_LO or APERTURE_HI (R300). BASE as the registers hold it reaches at most 0x03_F000_0000. -/
def State.setAperture (s : State) (hi : Bool) (v : Word) : State :=
  if hi then
    if s.hasDie (field v.toNat 7 5) then s.updPci fun p =>
      { p with apBaseHi := v.setWidth 2, apDie := BitVec.ofNat 3 (field v.toNat 7 5), apBad := p.apBad && !hasBit v 16 }
    else s.updPci fun p => { p with apBad := true }
  else if s.hasDie s.pci.apDie.toNat then s.updPci fun p => { p with apBaseLo := BitVec.ofNat 4 (field v.toNat 31 28) }
  else s.updPci fun p => { p with apBad := true }

/-- The part address of DIAG_ADDR (R304). -/
def Diag.addr (x : Diag) : Nat := x.addrLo.toNat + x.addrHi.toNat * 2 ^ 32

/-- The first words of a list replaced. -/
def overlay (new old : List Word) : List Word := new ++ old.drop new.length

/-- One operation of the diagnostic window (R305). -/
def State.diagRun (s : State) : State :=
  let x := s.diag
  let a := x.addr
  let hops := s.controlHops (a / 2 ^ 37)
  let busy (s : State) (st : Status) (valid : Nat) (data : List Word) : State :=
    { s with diag := { s.diag with
        busy := true, valid, status := BitVec.ofNat 8 st.code, data
        readyTb := s.tb + 2000 + 90 * hops + 10 * x.count } }
  if !s.boot.ready then busy s .notAvailable 0 x.data
  else if x.write then
    let (st, n, s) := s.burstWrite a (x.data.take x.count)
    busy s st n x.data
  else
    let (st, ws, n, lat, s) := s.burstRead s.latDiag a x.count
    busy { s with latDiag := lat } st n (overlay ws x.data)

/-- A write of DIAG_CTL (R304, R305): COUNT outside 1 to 64 leaves the field; GO starts an operation unless one is in
progress. The write's other fields take effect also while BUSY (DESIGN CHOICE, unsafe, log entry 77). -/
def State.diagCtl (s : State) (v : Word) : State :=
  let n := field v.toNat 6 0
  let x := s.diag
  let s := { s with diag := { x with count := if 1 ≤ n ∧ n ≤ 64 then n else x.count, write := hasBit v 8,
                                     snap := hasBit v 9 } }
  if hasBit v 31 then
    if x.busy then { s with diag := { s.diag with early := true } } else s.diagRun
  else s

/-- A write into the diagnostic window's block (R304, R305). -/
def State.diagSet (s : State) (off : Nat) (v : Word) : State :=
  let x := s.diag
  if off = 0x8000 then { s with diag := { x with addrLo := v &&& 0xFFFFFFFC } }
  else if off = 0x8004 then { s with diag := { x with addrHi := v.setWidth 8 } }
  else if off = 0x8008 then s.diagCtl v
  else if off = 0x800C then { s with diag := { x with early := x.early && !hasBit v 1 } }
  else if 0x8100 ≤ off ∧ off < 0x8200 ∧ off % 4 = 0 then
    if x.busy then { s with diag := { x with early := true } }
    else { s with diag := { x with data := x.data.set ((off - 0x8100) / 4) v } }
  else s

/-- A write into the time-base block: PTM_CTL (R302); INTERVAL_MS outside 1 to 1,000 leaves the field (R12). -/
def State.ptmSet (s : State) (off : Nat) (v : Word) : State :=
  let ms := field v.toNat 25 16
  if off = 0x4008 then
    { s with ptm := { s.ptm with enable := hasBit v 0,
                                 interval := if 1 ≤ ms ∧ ms ≤ 1000 then ms else s.ptm.interval } }
  else s

/-- A write of a whole word into BAR 0 (R284, R285). -/
def State.bar0Set (s : State) (off : Nat) (v : Word) : State :=
  if s.blockServed off = false then s
  else if off = 0x1004 then s.updPci fun p => { p with intOutlet := p.intOutlet &&& ~~~(v.setWidth 16) }
  else if off = 0x1008 then s.updPci fun p => p.clearMisc v
  else if off = 0x1010 then s.snap v
  else if off = 0x1080 then s.setAperture false v
  else if off = 0x1084 then s.setAperture true v
  else if 0x2000 ≤ off ∧ off < 0x3000 then s.ringSet off v
  else if 0x3000 ≤ off ∧ off < 0x3040 ∧ off % 4 = 0 then s.inletDoorbell ((off - 0x3000) / 4) v
  else if 0x3040 ≤ off ∧ off < 0x3080 ∧ off % 4 = 0 then s.outletDoorbell ((off - 0x3040) / 4) v
  else if off = 0x3080 then s.eventDoorbell v
  else if 0x4000 ≤ off ∧ off < 0x5000 then s.ptmSet off v
  else if 0x8000 ≤ off ∧ off < 0x9000 then s.diagSet off v
  else s

/-- A write into BAR 0 (R284): one with partial byte enables is discarded and counted. -/
def State.bar0Write (s : State) (off : Nat) (v : Word) (be : BitVec 4) : State :=
  let s := s.updPci fun p => { p with l1 := false }
  if be = 0xF then s.bar0Set off v else s.updPci fun p => { p with bar0Partial := inc32 p.bar0Partial }

/-! ### BAR 2 -/

/-- The die and local address of BAR 2 offset `x` (R300). -/
def State.aperture (s : State) (x : Nat) : Nat × Nat :=
  (s.pci.apDie.toNat, (s.pci.apBaseLo.toNat + s.pci.apBaseHi.toNat * 16) * 2 ^ 28 + x)

/-- Installed DRAM of a die in its present state, in bytes (R257). -/
def State.dramSize (s : State) (d : Nat) : Nat := (s.die d).dram.sizeGib * 2 ^ 30

/-- BAR 2 reaches the DRAM of a die (R285, R300). -/
def State.bar2Served (s : State) (d : Nat) : Bool :=
  s.boot.ready && s.hasDie d && !s.unreachable d && (s.die d).st != .offline && s.dramUp d

/-- The result record of a channel in the part area of its die: that of the latest run whose map has it (R186, R188). -/
def State.recordOf (s : State) (n : Nat) : Option ResRec :=
  (s.results.reverse.flatMap (·.recs)).find? fun r => r.ch == n

/-- The histogram blocks in the part area of a die, in the order in which they were written (R188). -/
def State.blocksOn (s : State) (d : Nat) : List HistBlock :=
  (s.results.flatMap (·.hists)).filter fun b => b.ch / 64 == d

/-- A byte of the part area of a die, `a` bytes above its start (R30, R170, R186, R188). Cluster c's log of 1 MiB lies at
c × 1 MiB, the 64 records at 8 MiB, and the histogram blocks, 256 bytes each, at 16 MiB; the places are the model's (DESIGN CHOICE,
unsafe, log entry 71). Entries no longer held and records never formed read 0. -/
def State.partByte (s : State) (d a : Nat) : Byte :=
  if a < 0x800000 then
    let f := (s.cluster (8 * d + a / 0x100000)).flog
    let e := a % 0x100000 / 16
    if e < f.wr then
      match f.entry? (e + (f.wr - 1 - e) / 65536 * 65536) with
      | some x => x.extractLsb' (8 * (a % 16)) 8
      | none => 0
    else 0
  else if a < 0x801000 then
    match s.recordOf (64 * d + a % 0x1000 / 64) with
    | some r => r.bytes.getD (a % 64) 0
    | none => 0
  else if trainingBase ≤ a then Config.trainingByte s.tb (s.dramBelow d + a)
  else if 0x1000000 ≤ a then
    match (s.blocksOn d)[(a - 0x1000000) / 256]? with
    | some b => (leBytes 4 (b.counts.getD (a % 256 / 4) 0)).getD (a % 4) 0
    | none => 0
  else 0

/-- A byte of a die's DRAM (R30): of its part area, or of what lies below. -/
def State.dramByte (s : State) (d a : Nat) : Byte :=
  if s.dramBelow d ≤ a then s.partByte d (a - s.dramBelow d) else Mem.get ramByte (s.die d).dram.mem a

/-- A byte that BAR 2 reads (R300). -/
def State.bar2Byte (s : State) (x : Nat) : Byte :=
  let (d, a) := s.aperture x
  if s.bar2Served d && !(s.die d).dram.reforming && decide (a < s.dramSize d) then s.dramByte d a else 0

/-- BAR 2 may write a byte (R248, R300). -/
def State.bar2Writable (s : State) (x : Nat) : Bool :=
  let (d, a) := s.aperture x
  s.bar2Served d && !(s.die d).dram.reforming && decide (a + 2 ^ 29 < s.dramSize d) && !s.inImage d a

/-! ### BAR 4 -/

/-- A word of BAR 4 (R283, R297): of the MSI-X table, 16 bytes a vector (address, data, and the control word whose bit 0
masks it), or of the PBA. The words' meaning is that of the PCI Express specification; the address and data words are 0
at reset (DESIGN CHOICE, unsafe, log entry 77). -/
def State.bar4Word (s : State) (off : Nat) : Word :=
  let v := off / 16
  if off < 0x400 then
    if off % 16 < 12 then s.pci.msix.getD (3 * v + off % 16 / 4) 0 else word (bit (hasBit s.pci.maskAll v))
  else if off = 0x2000 then s.pci.pba.setWidth 32
  else if off = 0x2004 then (s.pci.pba >>> 32).setWidth 32
  else 0

/-- A write of a word of BAR 4 (R297): unmasking a vector whose pending bit is set sends its message. -/
def State.bar4Set (s : State) (off : Nat) (x : Word) : State :=
  let v := off / 16
  let bits : BitVec 64 := setBit 0 v
  if off < 0x400 then
    if off % 16 < 12 then s.updPci fun p => { p with msix := p.msix.set (3 * v + off % 16 / 4) x }
    else if hasBit x 0 then s.updPci fun p => { p with maskAll := p.maskAll ||| bits }
    else
      let s := s.updPci fun p => { p with maskAll := p.maskAll &&& ~~~bits }
      if hasBit s.pci.pba v then (s.updPci fun p => { p with pba := p.pba &&& ~~~bits }).sendMsi v else s
  else s

/-! ### Meanings of the host accesses -/

/-- INLET_DB (R294): the write of an inlet's producer index. -/
def execInletDb (t : Tb) (i : BitVec 4) (v : Word) (s : State) : Host.Outcome State Fault Refusal :=
  .next ((s.at t).bar0Write (0x3000 + 4 * i.toNat) v 0xF)

/-- OUTLET_DB (R294): the write of an outlet's consumer index. -/
def execOutletDb (t : Tb) (o : BitVec 4) (v : Word) (s : State) : Host.Outcome State Fault Refusal :=
  .next ((s.at t).bar0Write (0x3040 + 4 * o.toNat) v 0xF)

/-- EVENT_DB (R294): the write of the event ring's consumer index. -/
def execEventDb (t : Tb) (v : Word) (s : State) : Host.Outcome State Fault Refusal :=
  .next ((s.at t).bar0Write 0x3080 v 0xF)

/-- RING_CFG_WRITE (R292, R294, R296): the write of a ring's CFG. -/
def execRingCfgWrite (t : Tb) (r : RingId) (v : Word) (s : State) : Host.Outcome State Fault Refusal :=
  let off := match r with
    | .inlet i => 0x2008 + 0x20 * i.toNat
    | .outlet o => 0x2208 + 0x20 * o.toNat
    | .event => 0x2408
  .next ((s.at t).bar0Write off v 0xF)

/-- SNAPSHOT (R288): the write that freezes or releases a group. -/
def execSnapshot (t : Tb) (v : Word) (s : State) : Host.Outcome State Fault Refusal :=
  .next ((s.at t).bar0Write 0x1010 v 0xF)

/-- DIAG_GO (R305): the write of DIAG_CTL with GO. -/
def execDiagGo (t : Tb) (v : Word) (s : State) : Host.Outcome State Fault Refusal :=
  .next ((s.at t).bar0Write 0x8008 (v ||| 0x80000000) 0xF)

/-- DIAG_DATA_EARLY (R305): an access to DIAG_DATA while BUSY; it sets EARLY, a read returns 0 and a write is
discarded. -/
def execDiagDataEarly (t : Tb) (write : Bool) (s : State) : Host.Outcome State Fault Refusal :=
  let s := s.at t
  .next (if s.diag.busy then (if write then s.bar0Write 0x8100 0 0xF else s.bar0Read 0x8100 0xF) else s)

/-- APERTURE_WRITE (R300): the write of APERTURE_LO or APERTURE_HI. -/
def execApertureWrite (t : Tb) (hi : Bool) (v : Word) (s : State) : Host.Outcome State Fault Refusal :=
  .next ((s.at t).bar0Write (if hi then 0x1084 else 0x1080) v 0xF)

/-- REGISTER_WRITE (R11, R12, R284, R297): the write of a register under its field access codes. Byte enables count in
BAR 0 alone: words of BAR 4 and of die space are written whole (R284). -/
def execRegisterWrite (t : Tb) (r : RegAddr) (v : Word) (be : BitVec 4) (s : State) :
    Host.Outcome State Fault Refusal :=
  let s := s.at t
  .next (match r with
    | .bar0 off => s.bar0Write off v be
    | .bar4 off => (s.updPci fun p => { p with l1 := false }).bar4Set off v
    | .die d off =>
      if s.hasDie d ∧ off < 0x1000000 ∧ off % 4 = 0 ∧ s.boot.ready ∧ s.placeServed (regPlace d off) then
        s.writePlace v (regPlace d off)
      else s)

/-- A read of one register on a path (R286, R287): the word goes to the outputs. -/
def State.readReg (s : State) (p : Path) (r : RegAddr) (be : BitVec 4) : State :=
  match p, r with
  | .bar0, .bar0 off => s.bar0Read off be
  | .bar0, .bar4 off => (s.updPci fun p => { p with l1 := false }).updOut fun o =>
      { o with readData := [byteEnabled (s.bar4Word off) be] }
  | .diag, .die d off =>
    if s.hasDie d ∧ off < 0x1000000 ∧ off % 4 = 0 ∧ s.boot.ready ∧ s.placeServed (regPlace d off) then
      let (v, lat, s) := s.readPlace s.latDiag (d * 2 ^ 37 + 0x1800000000 + off) (regPlace d off)
      ({ s with latDiag := lat } : State).updOut fun o => { o with readData := [v] }
    else s
  | _, _ => s

/-- RC_READ (R11, R13): the read of a register, which clears its RC fields. -/
def execRcRead (t : Tb) (p : Path) (r : RegAddr) (be : BitVec 4) (s : State) : Host.Outcome State Fault Refusal :=
  .next ((s.at t).readReg p r be)

/-- LO_READ_LATCH (R287): the read of a _LO register, which latches its _HI on the path. -/
def execLoReadLatch (t : Tb) (p : Path) (r : RegAddr) (s : State) : Host.Outcome State Fault Refusal :=
  .next ((s.at t).readReg p r 0xF)

/-- BAR2_READ (R300): the read of DRAM through the aperture. -/
def execBar2Read (t : Tb) (off : Nat) (len : Nat) (s : State) : Host.Outcome State Fault Refusal :=
  let s := (s.at t).updPci fun p => { p with l1 := false }
  let n := min len (2 ^ 28 - off)
  let ws := (List.range (ceilDiv n 4)).map fun j =>
    word (ofLe ((List.range (min 4 (n - 4 * j))).map fun b => s.bar2Byte (off + 4 * j + b)))
  let (d, a) := s.aperture off
  .next ((if s.bar2Served d then s.apertureAsk d a n else s).updOut fun o => { o with readData := ws })

/-- BAR2_WRITE (R300): the write of DRAM through the aperture. A write that touches a byte it may not store is
discarded whole and counted (log entry 12). -/
def execBar2Write (t : Tb) (off : Nat) (data : List Byte) (s : State) : Host.Outcome State Fault Refusal :=
  let s := (s.at t).updPci fun p => { p with l1 := false }
  let n := min data.length (2 ^ 28 - off)
  let (d, a) := s.aperture off
  .next (if (List.range n).all fun i => s.bar2Writable (off + i) then (s.dramWrite d a (data.take n)).apertureAsk d a n
    else s.updPci fun p => { p with bar2Discard := inc32 p.bar2Discard })

/-! ### The endpoint's own steps -/

/-- L1_ENTRY (R279): the part enters L1 when no run is accepted without a final reply. That ASPM L1 is enabled shows in
the step's coming about (log entry 13). -/
def execL1Entry (t : Tb) (s : State) : Host.Outcome State Fault Refusal :=
  let s := s.at t
  .next (if s.runs.isEmpty then s.updPci fun p => { p with l1 := true, aspmL1 := true } else s)

/-- PTM_DIALOGUE (R303): a dialogue that started at `t1`; `resp` is the master time and propagation delay of a
ResponseD, which belong to the previous dialogue, answered or not. After a PTM_FAIL the count of three begins anew
(DESIGN CHOICE, unsafe, log entry 77). -/
def execPtmDialogue (t : Tb) (t1 : Tb) (resp : Option (BitVec 64 × Nat)) (s : State) :
    Host.Outcome State Fault Refusal :=
  let s := s.at t
  let p := s.ptm
  if p.enable = false then .next s
  else match resp with
    | some (host, prop) =>
      let q := { p with prevT1 := some t1, missed := 0 }
      match p.prevT1 with
      | some t1' =>
        let q := { q with valid := true, pairs := satTo 24 (p.pairs + 1), pairTb := t1' + prop, pairHost := host, prop }
        .next { s with ptm := q }
      | none => .next { s with ptm := q }
    | none =>
      let n := p.missed + 1
      let q := { p with prevT1 := some t1, missed := if n ≥ 3 then 0 else n, valid := p.valid && decide (n < 3) }
      let s := { s with ptm := q }
      .next (if n ≥ 3 then (s.misc .ptm).raise_ { code := evPtmFail, tb := s.tb } else s)

/-- MSIX_COALESCE (R295): COAL has passed since a ring's previous message and entries were written meanwhile. -/
def execMsixCoalesce (t : Tb) (r : RingId) (s : State) : Host.Outcome State Fault Refusal :=
  let s := s.at t
  .next (match r with
    | .inlet _ => s
    | .outlet o =>
      let x := s.outlet o.toNat
      if x.msiOwed && x.msiReady s.tb then
        (s.updOutlet o.toNat fun x => { x with lastMsi := some s.tb, msiOwed := false }).sendMsi x.vector
      else s
    | .event =>
      let x := s.evRing
      if x.msiOwed && x.msiReady s.tb then
        ({ s with evRing := { x with lastMsi := some s.tb, msiOwed := false } } : State).sendMsi x.vector
      else s)

/-- EVENT_POST (R318, R347, R348): the oldest record of the device queue is written into a free entry of the event
ring, and the final replies it held go. -/
def execEventPost (t : Tb) (s : State) : Host.Outcome State Fault Refusal :=
  let s := s.at t
  match s.ev.queue with
  | [] => .next s
  | e :: rest =>
    if s.evRing.enable && s.hostUp && decide (s.evRing.inUse < 2 ^ s.evRing.sizeLog2) then
      let e := { e with ovfBefore := s.ev.ovfBefore }
      let s := s.hostWrite (entryAddr s.evRing.base s.evRing.sizeLog2 s.evRing.index.toNat 32) e.bytes
      let s := s.updEv fun v => { v with queue := rest, ovfBefore := false, posted := (v.posted + 1) % 2 ^ 64 }
      let s := { s with evRing := { s.evRing with index := s.evRing.index + 1 } }
      .next ((s.misc .event).signalEvent.flushAll)
    else .next s

end Sys2Proof.Machine
end

