-- ==== Sys2Proof/Machine/Paths.lean ====
section
/-! DEFINITION. The graph of a cluster's segments: its successors under R123, and what is reachable. -/

namespace Sys2Proof.Machine

/-- The segments that END_ACTION gives (R123); none for DONE. -/
def SegEntry.endTargets (e : SegEntry) (i : Nat) : List Nat :=
  match e.endAction with
  | 0 => [i + 1]
  | 1 => [e.next]
  | _ => []

/-- The segments that the loop check of segment `i` can give (R123). -/
def loopTargets (tab : Rd) (e : SegEntry) (i : Nat) : List Nat :=
  if e.ends then
    let b := if e.loopOp = 3 then i else e.loopBegin
    (if (segEntry tab b).loopCount > 1 then [b] else []) ++ e.endTargets i
  else e.endTargets i

/-- Every segment that can follow segment `i` (R123), both results of a branch taken. -/
def segSuccs (tab br : Rd) (i : Nat) : List Nat :=
  let e := segEntry tab i
  if e.brEn then
    let b := brEntry br e.branch
    [b.targetT, b.targetF].flatMap fun t =>
      if t = targetDone then [] else if t = targetLoop then loopTargets tab e i else [t]
  else loopTargets tab e i

/-- The segments reachable from `todo` without going on from those that `stop` names; `n` bounds the passes. -/
def reach (succ : Nat → List Nat) (stop : Nat → Bool) : Nat → List Nat → List Nat → List Nat
  | 0, _, seen => seen
  | _ + 1, [], seen => seen
  | n + 1, i :: rest, seen =>
    if seen.contains i then reach succ stop n rest seen
    else reach succ stop n ((if stop i then [] else succ i) ++ rest) (i :: seen)

/-- The segments of a cluster of an image that are reachable from segment 0, going on past those that `stop` lets
pass. -/
def imgReach (r : Rd) (k : Nat) (stop : Nat → Bool) : List Nat :=
  let dir := imgDir r
  let tab := sectRd r (findSect dir secSegments k)
  let br := sectRd r (findSect dir secBranches k)
  let count := ((findSect dir secSegments k).map (·.count)).getD 0
  (reach (segSuccs tab br) stop (4 * count + 4) [0] []).filter fun i => decide (i < count)

/-- The segment table of a cluster as the image holds it. -/
def imgSegs (r : Rd) (k : Nat) : Rd := sectRd r (findSect (imgDir r) secSegments k)

/-- The clusters of an image on die `d`, ascending; the first owns the die's pattern PLL (R117). -/
def imgClustersOn (r : Rd) (d : Nat) : List Nat :=
  (bitsOf (imgHdr r).clusterMask).filter fun k => dieOfCluster k == d

/-- The rate entry of a segment of an image. -/
def imgRate (r : Rd) (k i : Nat) : RateEntry :=
  let tab := imgSegs r k
  rateEntry tab (segEntry tab i).rate

/-- The owner's reachable PLL settings on die `d` (R116, R117). -/
def imgSettings (r : Rd) (d : Nat) : List PllArg :=
  match imgClustersOn r d with
  | k :: _ => ((imgReach r k fun _ => false).map fun i => (imgRate r k i).pll).eraseDups
  | [] => []

/-- The image makes a tracked step on die `d` (R88, R92). -/
def imgTracks (r : Rd) (d : Nat) : Bool := decide ((imgSettings r d).length > 1)

end Sys2Proof.Machine
end

