-- ==== Sys2Proof/Machine/Coef.lean ====
section
/-! DEFINITION. The coefficients of the resampler (R131): coef[phase][k] = round(65,536 × g(3 − k − phase/64)) with g the
windowed sinc of R131, the residual of each row added to its coefficient of largest magnitude. -/

namespace Sys2Proof.Machine

/-- The rows of phases 0 to 15 (R131). -/
def coef0 : List (List Int) :=
  [[0, 0, 0, 65536, 0, 0, 0, 0],
   [24, -179, 811, 65505, -773, 170, -22, 0],
   [49, -366, 1659, 65415, -1509, 330, -42, 0],
   [77, -562, 2544, 65262, -2206, 481, -60, 0],
   [106, -767, 3466, 65049, -2865, 623, -76, 0],
   [137, -979, 4423, 64776, -3486, 756, -91, 0],
   [170, -1200, 5415, 64444, -4068, 879, -104, 0],
   [205, -1428, 6441, 64052, -4613, 994, -115, 0],
   [242, -1663, 7501, 63602, -5120, 1099, -125, 0],
   [281, -1905, 8592, 63097, -5590, 1195, -134, 0],
   [321, -2153, 9716, 62534, -6023, 1282, -141, 0],
   [364, -2406, 10869, 61914, -6419, 1361, -147, 0],
   [408, -2665, 12051, 61241, -6779, 1431, -151, 0],
   [453, -2929, 13260, 60518, -7104, 1493, -155, 0],
   [500, -3196, 14496, 59741, -7394, 1546, -157, 0],
   [549, -3466, 15756, 58913, -7650, 1592, -158, 0]]

/-- The rows of phases 16 to 31 (R131). -/
def coef1 : List (List Int) :=
  [[599, -3739, 17039, 58039, -7873, 1629, -158, 0],
   [650, -4014, 18344, 57117, -8063, 1660, -158, 0],
   [702, -4290, 19668, 56151, -8222, 1683, -156, 0],
   [755, -4566, 21010, 55141, -8350, 1700, -154, 0],
   [808, -4841, 22368, 54091, -8449, 1710, -151, 0],
   [863, -5114, 23740, 53000, -8519, 1714, -148, 0],
   [917, -5384, 25124, 51873, -8561, 1711, -144, 0],
   [972, -5651, 26518, 50709, -8577, 1704, -139, 0],
   [1027, -5914, 27920, 49514, -8568, 1691, -134, 0],
   [1081, -6170, 29327, 48288, -8534, 1673, -129, 0],
   [1136, -6420, 30739, 47031, -8477, 1650, -123, 0],
   [1189, -6662, 32151, 45751, -8398, 1623, -118, 0],
   [1241, -6896, 33563, 44446, -8298, 1592, -112, 0],
   [1293, -7119, 34972, 43117, -8179, 1558, -106, 0],
   [1342, -7330, 36375, 41769, -8041, 1520, -99, 0],
   [1390, -7530, 37771, 40405, -7886, 1479, -93, 0]]

/-- The rows of phases 32 to 47 (R131). -/
def coef2 : List (List Int) :=
  [[1436, -7715, 39025, 39156, -7715, 1436, -87, 0],
   [1479, -7886, 40393, 37771, -7530, 1390, -81, 0],
   [1520, -8041, 41745, 36375, -7330, 1342, -75, 0],
   [1558, -8179, 43080, 34972, -7119, 1293, -69, 0],
   [1592, -8298, 44398, 33563, -6896, 1241, -64, 0],
   [1623, -8398, 45691, 32151, -6662, 1189, -58, 0],
   [1650, -8477, 46961, 30739, -6420, 1136, -53, 0],
   [1673, -8534, 48207, 29327, -6170, 1081, -48, 0],
   [1691, -8568, 49423, 27920, -5914, 1027, -43, 0],
   [1704, -8577, 50608, 26518, -5651, 972, -38, 0],
   [1711, -8561, 51763, 25124, -5384, 917, -34, 0],
   [1714, -8519, 52882, 23740, -5114, 863, -30, 0],
   [1710, -8449, 53966, 22368, -4841, 808, -26, 0],
   [1700, -8350, 55010, 21010, -4566, 755, -23, 0],
   [1683, -8222, 56014, 19668, -4290, 702, -19, 0],
   [1660, -8063, 56975, 18344, -4014, 650, -16, 0]]

/-- The rows of phases 48 to 63 (R131). -/
def coef3 : List (List Int) :=
  [[1629, -7873, 57895, 17039, -3739, 599, -14, 0],
   [1592, -7650, 58766, 15756, -3466, 549, -11, 0],
   [1546, -7394, 59593, 14496, -3196, 500, -9, 0],
   [1493, -7104, 60371, 13260, -2929, 453, -8, 0],
   [1431, -6779, 61096, 12051, -2665, 408, -6, 0],
   [1361, -6419, 61772, 10869, -2406, 364, -5, 0],
   [1282, -6023, 62396, 9716, -2153, 321, -3, 0],
   [1195, -5590, 62966, 8592, -1905, 281, -3, 0],
   [1099, -5120, 63479, 7501, -1663, 242, -2, 0],
   [994, -4613, 63938, 6441, -1428, 205, -1, 0],
   [879, -4068, 64341, 5415, -1200, 170, -1, 0],
   [756, -3486, 64685, 4423, -979, 137, 0, 0],
   [623, -2865, 64973, 3466, -767, 106, 0, 0],
   [481, -2206, 65202, 2544, -562, 77, 0, 0],
   [330, -1509, 65373, 1659, -366, 49, 0, 0],
   [170, -773, 65483, 811, -179, 24, 0, 0]]

/-- coef[phase][k] (R131). -/
def coef (phase k : Nat) : Int :=
  let q := match phase / 16 with
    | 0 => coef0
    | 1 => coef1
    | 2 => coef2
    | _ => coef3
  (q.getD (phase % 16) []).getD k 0

end Sys2Proof.Machine
end

