-- ==== Sys2Proof/Machine/Seqr.lean ====
section
/-! DEFINITION. The vector sequencer of a cluster (R108 to R143): its tables in vector SRAM, branch sources and late
requests, vectors and their edges, streamed token ranges, and underruns. -/

namespace Sys2Proof.Machine

/-! ### Tables -/

/-- Vector SRAM of cluster `k` as a reader (R115). -/
def State.vsramRd (s : State) (k : Nat) : Rd := fun i => Mem.get ramByte (s.cluster k).vsram i

/-- The content of a placed section of a run's cluster, as it lies in vector SRAM (R115, R229). -/
def State.placed (s : State) (r : Run) (k typ : Nat) : Rd :=
  match findSect (imgDir (s.imgRd r.image)) typ k with
  | some x => (s.vsramRd k).from x.sramOff
  | none => fun _ => 0

/-- Segment entry `i` of a running cluster (R118). -/
def State.segAt (s : State) (r : Run) (k i : Nat) : SegEntry := segEntry (s.placed r k secSegments) i

/-- Branch entry `i` of a running cluster (R125). -/
def State.brAt (s : State) (r : Run) (k i : Nat) : BrEntry := brEntry (s.placed r k secBranches) i

/-- FIXED_SIZE of a run's cluster (R115, R230). -/
def State.fixedSize (s : State) (r : Run) (k : Nat) : Nat :=
  match (imgMap (s.imgRd r.image)).find? fun m => m.k == k with
  | some m => m.fixedUnits * 16384
  | none => 16384

/-- The vector periods that a segment takes: LEN, or for a DURATION segment the smallest number that covers LEN ns
(R119). -/
def SegEntry.periods (e : SegEntry) (p : Rat) : Nat :=
  if e.duration then (if p = 0 then 0 else ((e.len : Rat) / p).ceil.toNat) else e.len

/-- The end of the segment that starts at `sigma` (R119). -/
def SegEntry.endAt (e : SegEntry) (sigma p : Rat) : Rat := sigma + (e.periods p : Nat) * p

/-- The running run of a cluster, its sequencer and its present segment. -/
structure At where
  r : Run
  q : Seq
  e : SegEntry

/-- What cluster `k` executes, if it is in state `st`. -/
def State.atSeg (s : State) (k : Nat) (st : SeqSt) : Option At :=
  let q := s.seq k
  if q.state = st then (s.runOfCluster k).map fun r => { r, q, e := s.segAt r k q.seg } else none

/-- The exact end of the present segment. -/
def At.endAt (a : At) : Rat := a.e.endAt a.q.sigma a.q.period

/-! ### Branch sources (R126 to R129) -/

/-- The value of a source as of an exact time: what its latest event at or before then made it. -/
def srcOn (log : List SrcEvent) (src idx : Nat) (x : Rat) : Bool :=
  let es := log.filter fun e => e.src == src && e.idx == idx && decide (e.origin ≤ x)
  match es with
  | [] => false
  | e :: rest => (rest.foldl (fun (m e : SrcEvent) => if m.origin ≤ e.origin then e else m) e).on

/-- The event source of a branch entry: COND_ANY and COND_ALL share the flags' events (R126). -/
def BrEntry.src (b : BrEntry) : Nat := if b.source = 12 then 11 else b.source

/-- The qualifiers of a branch entry's source (R126). -/
def BrEntry.idxs (b : BrEntry) : List Nat :=
  if b.source ≤ 8 then [0] else if b.source ≤ 10 then bitsOf (b.select &&& 0xFF) else if b.source ≤ 12 then bitsOf b.select
  else if b.source = 13 then [b.select.toNat % 4] else []

/-- The condition of a branch entry as of an exact time (R125 to R127). -/
def BrEntry.cond (b : BrEntry) (log : List SrcEvent) (x : Rat) : Bool :=
  let v := if b.source = 14 then true else if b.source = 15 then false
    else if b.source = 12 then b.idxs.all fun i => srcOn log 11 i x
    else b.idxs.any fun i => srcOn log b.src i x
  v != b.invert

/-- The events of a log that a branch entry watches. -/
def BrEntry.watches (b : BrEntry) (e : SrcEvent) : Bool := e.src == b.src && b.idxs.contains e.idx

/-- The worst-case time in ns from a source's origin until the sequencer sees it (R126). -/
def BrEntry.latency (b : BrEntry) (pat : Rat) : Rat :=
  if b.source < 4 ∨ b.source = 8 then 36 else if b.source < 8 then 39
  else if b.source = 9 ∨ b.source = 10 then 4 * pat else if b.source < 14 then 30 else 0

/-- The worst-case time of R126 for a cluster: MARK and FIRE of a group that spans packages are seen 30 ns after their act time,
which is L after their origin (R105). -/
def State.latency (s : State) (k : Nat) (b : BrEntry) : Rat :=
  let span := (s.runOfCluster k).any fun r => (s.group r.group).span
  if span ∧ (b.source < 4 ∨ b.source = 8) then 8 * s.link.lat + 30 else b.latency (s.die (dieOfCluster k)).pll.pat

/-- A late request of segment `seg` by an event at `origin` (R128, R129). One that arrives after the cluster is done is
lost with it. -/
def State.lateRequest (s : State) (k : Nat) (b : BrEntry) (seg : Nat) (origin : Rat) : State :=
  let q := s.seq k
  if b.drop then s.updSeq k fun q => { q with fl := { q.fl with lateDropped := true }, dropCnt := inc32 q.dropCnt }
  else if q.state = .done then
    match s.runOfCluster k with
    | some r => (s.updSeq k fun q => { q with dropCnt := inc32 q.dropCnt }).updRun r.tag fun r =>
        { r with lateUntaken := true }
    | none => s
  else if q.defer then s.updSeq k fun q => { q with deferCnt := inc32 q.deferCnt }
  else s.updSeq k fun q => { q with defer := true, deferSeg := seg, deferTb := tick origin }

/-- The present segment of a cluster makes a late request of an event (R128): its decision is false, and the event's
origin lies at or before the segment's end. -/
def State.lateNow (s : State) (k : Nat) (e : SrcEvent) : State :=
  match s.atSeg k .running with
  | none => s
  | some a =>
    let b := s.brAt a.r k a.e.branch
    if a.e.brEn && a.q.decided == some false && !a.q.lateDone && b.watches e && decide (e.origin ≤ a.endAt)
        && b.cond a.q.srcLog e.origin then
      (s.updSeq k fun q => { q with lateDone := true }).lateRequest k b a.q.seg e.origin
    else s

/-- The earlier segments whose late windows are open make late requests of an event with its origin at or before their end
(R128); each makes one. -/
def State.lateBefore (s : State) (k : Nat) (e : SrcEvent) : State :=
  match s.runOfCluster k with
  | some r =>
    (s.seq k).watch.foldl (fun s w =>
      let b := s.brAt r k w.2.1
      if b.watches e && decide (e.origin ≤ w.1) && b.cond (s.seq k).srcLog e.origin then
        (s.updSeq k fun q => { q with watch := q.watch.erase w }).lateRequest k b w.2.2 e.origin
      else s) s
  | none => s

/-- An event of a source of R126 reaches the sequencer of cluster `k`: it is entered into the log and judged for late
requests. An event at or before the end of an earlier segment is that segment's (R128); a failing strobe of FAIL_SEG is one of
the present segment. -/
def State.srcEvent (s : State) (k src idx : Nat) (origin : Rat) (on : Bool) : State :=
  let q := s.seq k
  if q.state = .idle ∨ q.state = .armed then s
  else
    let e : SrcEvent := { src, idx, origin, on }
    let s := s.updSeq k fun q => { q with srcLog := q.srcLog ++ [e] }
    if src ≠ 9 ∧ origin ≤ q.since ∨ q.state = .done then s.lateBefore k e else s.lateNow k e

/-- The log of a line that is a wired OR, without the changes that a pulse from `on` to `off` covers, and whether the line
rises with the pulse and falls after it (R26, R124). -/
def coverPulse (log : List SrcEvent) (src : Nat) (on off : Rat) : List SrcEvent × Bool × Bool :=
  let kept := log.filter fun e => e.src != src ||
    (if e.on then decide (e.origin ≤ on) || decide (off < e.origin) else decide (e.origin < on) || decide (off ≤ e.origin))
  (kept, !srcOn kept src 0 on, !srcOn log src 0 off)

/-- A pulse of a line: on at its origin, off `len` ns later; overlapping pulses make one (R26, R124). -/
def State.srcPulse (s : State) (k src : Nat) (origin : Rat) (len : Nat) : State :=
  let (log, rises, falls) := coverPulse (s.seq k).srcLog src origin (origin + len)
  let s := s.updSeq k fun q => { q with srcLog := log }
  let s := if rises then s.srcEvent k src 0 origin true else s
  if falls then s.srcEvent k src 0 (origin + len) false else s

/-- What a segment start keeps of the log: events from then on, and the latest earlier one of each source; FAIL_SEG starts
anew (R126). -/
def pruneLog (log : List SrcEvent) (sigma : Rat) : List SrcEvent :=
  let kept (e : SrcEvent) (later : List SrcEvent) : Bool :=
    e.src != 9 && (decide (sigma ≤ e.origin)
      || !later.any fun x => x.src == e.src && x.idx == e.idx && decide (x.origin ≤ sigma))
  let rec go : List SrcEvent → List SrcEvent
    | [] => []
    | e :: es => if kept e es then e :: go es else go es
  go log

/-- The flags of a cluster's reduction unit have changed since `old`: branch sources 11 and 12 and trigger source 11 see
it (R126, R160). -/
def State.flagEvents (s : State) (k : Nat) (old : BitVec 16) : State :=
  let u := s.red k
  let changed := (List.range 16).filter fun f => hasBit u.flags f != hasBit old f
  let s := changed.foldl (fun s f =>
    s.srcEvent k 11 f ((u.flagTb.getD f 0 : Nat) : Rat) (hasBit u.flags f)) s
  let g := s.trig k
  let was := decide (old &&& g.select ≠ 0)
  let is := decide (u.flags &&& g.select ≠ 0)
  if g.source = 11 ∧ was ≠ is then
    let origin := ((changed.filter (hasBit g.select)).map fun f => u.flagTb.getD f 0).foldl max 0
    let (t, s) := s.crossing origin 33
    s.trigSee k t origin (some is)
  else s

/-- Do something to a cluster's reduction unit and let the sources see the flags that it changes. -/
def State.withFlags (s : State) (k : Nat) (f : State → State) : State :=
  let old := (s.red k).flags
  (f s).flagEvents k old

/-! ### Underruns (R138, R139) -/

/-- The vectors of a segment that start before an exact time, as far as they have been decoded: a token that an underrun cuts
counts only with its copies before the cut (R139). -/
def At.before (a : At) (x : Rat) : Nat :=
  if a.q.period = 0 then 0 else min a.q.vecInSeg ((x - a.q.sigma) / a.q.period).ceil.toNat

/-- An underrun of cluster `k` from an exact time on (R138, R139): strobes are masked, decoding stops, the vectors that the
timeline leaves out are counted, and SPRING_UNDERRUN is raised; the abort follows at once in a DURATION segment, else at the
segment's boundary. A cluster in HOLD decodes nothing and cannot underrun. -/
def State.underrun (s : State) (k : Nat) (x : Rat) (wave : Bool) : State :=
  match s.atSeg k .running with
  | none => s
  | some a =>
    if a.q.underTb.isSome then s
    else
      let made := a.before x
      let first := if a.e.duration then x else a.q.sigma + (made : Nat) * a.q.period
      let gap := if a.e.duration then a.q.gap else add32 a.q.gap (a.e.len - made)
      let s := s.updSeq k fun q =>
        { q with underTb := some (tick first), allMasked := true, gap
                 vecs := q.vecs - (q.vecInSeg - made), vecInSeg := made
                 fl := { q.fl with underrun := true, waveUnderrun := q.fl.waveUnderrun || wave } }
      let next := s.ev.seqNext
      let s := s.fault { sev := .cluster, locKind := 2, location := k }
        { code := evSpringUnderrun, tb := tick first, locKind := 2, location := k, run := some a.r.tag, detail := gap }
        none none (!a.e.duration)
      s.updSeq k fun q => { q with underSeq := if s.ev.seqNext = next then 0 else next }

/-! ### Streamed token ranges (R135) -/

/-- The first byte of the stream buffer of a half. -/
def bufferBase (b : Bool) (fixed : Nat) : Nat := (if b then 0x100000 else 0) + fixed

/-- The first byte behind the stream buffer of a half. -/
def bufferEnd (b : Bool) : Nat := if b then 0x200000 else 0x100000

/-- READY of a half (R135). -/
def Seq.ready (q : Seq) (b : Bool) : Bool := if b then q.readyB else q.readyA

/-- Set READY of a half. -/
def Seq.setReady (q : Seq) (b v : Bool) : Seq := if b then { q with readyB := v } else { q with readyA := v }

/-- A half may be filled: it has been released, and its block has not issued whole (R135). -/
def Seq.fill (q : Seq) (b : Bool) : Bool := if b then q.fillB else q.fillA

/-- Say whether a half may be filled. -/
def Seq.setFill (q : Seq) (b v : Bool) : Seq := if b then { q with fillB := v } else { q with fillA := v }

/-- The exact start of the next vector of a cluster (R119). -/
def Seq.nextVec (q : Seq) : Rat := q.sigma + (q.vecInSeg : Nat) * q.period

/-- The decoder leaves the present stream buffer: its READY is cleared, and it enters the other half if the segment still
has vectors to come, which is an underrun where that half is not READY (R135, R138). -/
def State.leaveBuffer (s : State) (k : Nat) (a : At) : State :=
  let q := s.seq k
  let other := !q.activeHalf
  let s := s.updSeq k fun q =>
    { (q.setReady q.activeHalf false).setFill q.activeHalf true with
      activeHalf := other, ptr := bufferBase other (s.fixedSize a.r k) }
  if q.vecInSeg < a.e.len ∧ ¬ q.ready other then s.underrun k q.nextVec false else s

/-- Move past `n` bytes of tokens. -/
def State.advance (s : State) (k n : Nat) (a : At) : State :=
  let s := s.updSeq k fun q => { q with ptr := q.ptr + n }
  if a.e.streamed ∧ (s.seq k).ptr ≥ bufferEnd (s.seq k).activeHalf then s.leaveBuffer k a else s

/-! ### Vectors and edges (R95 to R99, R109) -/

/-- An edge generator's lane while a token's vectors pass through it: drive state, last drive event, last strobe, and
delayed events. -/
structure Lane where
  drive  : Drive
  edge   : Rat
  strobe : Rat
  sq     : Nat

/-- A drive event at an effective time, delayed where it comes too soon (R99). -/
def Lane.event (x : Lane) (time : Rat) (d : Drive) : Lane :=
  if time < x.edge + 287 then { x with drive := d, edge := x.edge + 287, sq := x.sq + 1 }
  else { x with drive := d, edge := time }

/-- A strobe at an effective time (R99). -/
def Lane.strobed (x : Lane) (time : Rat) : Lane :=
  if time < x.strobe + 205 then { x with strobe := x.strobe + 205, sq := x.sq + 1 } else { x with strobe := time }

/-- No D2, or no strobe (R96). -/
abbrev noEvent : Nat := 0xFFFFFF

/-- The complement of a drive state (R96): off and terminate stand for themselves. -/
def Drive.complement : Drive → Drive
  | .low => .high
  | .high => .low
  | d => d

/-- The drive state that code 0b10 gives (R53). -/
def offState (termEn : Bool) : Drive := if termEn then .term else .off

/-- One vector on a lane: D1, D2 and STROBE at their places after its start at `v` fine units (R95, R97, R109). -/
def Lane.vector (x : Lane) (y : Pll) (p : PinTiming) (sk : List Int) (code : Nat) (termEn : Bool) (v : Rat) : Lane :=
  let time (o kind : Nat) : Rat := y.place v ((o : Int) + sk.getD kind 0)
  let d : Drive := match code with
    | 0 => .low
    | 1 => .high
    | _ => offState termEn
  let x := if code = 3 then x else x.event (time p.d1 0) d
  let x := if p.d2 ≠ noEvent ∧ code < 2 then
      x.event (time p.d2 1) (match p.ret.toNat with
        | 0 => .low
        | 1 => .high
        | 2 => offState termEn
        | _ => d.complement)
    else x
  if p.strobe ≠ noEvent then x.strobed (time p.strobe 2) else x

/-- `n` vectors of one lane, the first at `v`, spaced `step` (fine units). -/
def Lane.vectors (y : Pll) (p : PinTiming) (sk : List Int) (code : Nat) (termEn : Bool) (step : Rat) :
    Nat → Rat → Lane → Lane
  | 0, _, x => x
  | n + 1, v, x => Lane.vectors y p sk code termEn step n (v + step) (x.vector y p sk code termEn v)

/-- The lanes of a cluster whose drive and compare codes count: mapped, in DIGITAL mode and not still (R109). -/
def State.digitalLanes (s : State) (r : Run) (k : Nat) : List Nat :=
  (bitsOf (s.liveLanes r k)).filter fun l =>
    let c := s.chan (chanOf k l)
    c.st.mode == .digital && !c.st.still

/-- The timing of a cluster's pins in force. -/
def State.pinTimings (s : State) (k : Nat) : List PinTiming := (s.cluster k).tsets.getD (s.seq k).tset []

/-- Produce `n` vectors of a word (R111): edges are placed, and the vectors are counted. -/
def State.produce (s : State) (k n : Nat) (w : Word) (a : At) : State :=
  let q := s.seq k
  let v := q.nextVec * 2048
  let step := q.period * 2048
  let pins := s.pinTimings k
  let sk := (s.cluster k).deskew
  let s := (s.digitalLanes a.r k).foldl (fun s l =>
    let c := s.chan (chanOf k l)
    let x := Lane.vectors (s.die (dieOfCluster k)).pll (pins.getD l default) (sk.getD l []) (driveCode w l) c.cfg.termEn step n v
      { drive := c.drive, edge := c.lastEdge, strobe := c.lastStrobe, sq := 0 }
    (s.updChan (chanOf k l) fun c =>
      { c with drive := x.drive, lastEdge := x.edge, prevStrobe := c.lastStrobe, lastStrobe := x.strobe }).updDie
        (dieOfCluster k) fun d => { d with squeeze := add32 d.squeeze x.sq }) s
  s.updSeq k fun q =>
    { q with vecs := (q.vecs + n) % 2 ^ 48, vecInSeg := q.vecInSeg + n, copies := n, word := w }

/-- What cluster `k` decodes next, if it decodes at all: it runs a VECTORS segment with vectors to come and has not
underrun. -/
def State.decoding (s : State) (k : Nat) : Option (At × Token) :=
  match s.atSeg k .running with
  | none => none
  | some a =>
    if a.e.duration ∨ a.q.underTb.isSome ∨ a.e.len ≤ a.q.vecInSeg then none
    else some (a, Token.decode (rd (s.vsramRd k) a.q.ptr 2))

/-- The step of a token: it acts where it is what its cluster decodes next. -/
def State.tokenStep (s : State) (t : Tb) (k : Nat) (f : State → At → Token → Option State) : State :=
  let s := s.at t
  match s.decoding k with
  | some (a, tok) => (f s a tok).getD s
  | none => s

/-! ### Waveforms (R130 to R134) -/

/-- The waveform descriptor `v` of a running cluster. -/
def State.waveAt (s : State) (r : Run) (k v : Nat) : WaveDesc := waveDesc (s.placed r k secWaveforms) v

/-- Take sample `i` of a waveform (R130, R138): a resident one from vector SRAM, a streamed one from its ring, where it may
not have arrived. -/
def State.waveSample (s : State) (r : Run) (k v i : Nat) : Option (Nat × State) :=
  let d := s.waveAt r k v
  let j := if d.cyclic then i % d.length else min i (d.length - 1)
  if !d.streamed then some (rd (s.vsramRd k) (d.location + 4 * j) 4 % 2 ^ 18, s)
  else
    let ring := d.location % 16
    let (off, size) := ringEntry (s.placed r k secWaveforms) ring
    let x := (s.seq k).rings.getD ring { asked := 0, written := 0, read := 0 }
    if x.written ≤ x.read ∨ size = 0 then none
    else some (rd (s.vsramRd k) (off + 4 * x.read % size) 4 % 2 ^ 18,
      s.updSeq k fun q => { q with rings := q.rings.modify ring fun x => { x with read := x.read + 1 } })

/-- Start waveform `v` afresh (R132): none where its first sample has not arrived. -/
def State.waveStart (s : State) (r : Run) (k v : Nat) : Option (Wave × State) :=
  (s.waveSample r k v 0).map fun x =>
    ({ index := v, i := 0, num := 0, hist := List.replicate 8 x.1, ended := false, stalled := false }, x.2)

/-- The resampler's code (R131). -/
def Wave.code (w : Wave) (sinDiv : Nat) : Nat :=
  let phase := if sinDiv = 0 then 0 else w.num * 64 / sinDiv
  let acc := ((List.range 8).map fun k => coef phase k * (w.hist.getD k 0 : Int)).sum
  (max 0 (min 262143 ((acc + 32768).fdiv 65536))).toNat

/-- Advance a resampler by one update (R131): the part of the loop that takes samples, `n` bounding how many. Answers
whether a sample was missing. -/
def State.waveShift (s : State) (r : Run) (k : Nat) (d : WaveDesc) : Nat → Wave → Wave × Bool × State
  | 0, w => (w, false, s)
  | n + 1, w =>
    if w.num < d.sinDiv ∨ d.sinDiv = 0 then (w, false, s)
    else
      let past := !d.cyclic && decide (d.length ≤ w.i + 1)
      match (if past then some (w.hist.getD 0 0, s) else s.waveSample r k w.index (w.i + 1)) with
      | none => ({ w with stalled := true }, true, s)
      | some (x, s) => State.waveShift s r k d n
          { w with num := w.num - d.sinDiv, i := w.i + 1, hist := x :: w.hist.take 7 }

/-- One update instant of a lane's waveform (R131, R134): its code, the resampler after it and whether a streamed sample is
missing. A ONE_SHOT whose history holds only its last sample has run past its end. -/
def State.waveStep (s : State) (r : Run) (k : Nat) (w : Wave) (dacDiv : Nat) : Nat × Wave × Bool × State :=
  let d := s.waveAt r k w.index
  let code := w.code d.sinDiv
  if !d.cyclic && decide (d.length + 6 ≤ w.i) then (code, { w with ended := true }, false, s)
  else
    let (w, miss, s) := s.waveShift r k d (dacDiv + 1) { w with num := w.num + dacDiv }
    (code, w, miss, s)

end Sys2Proof.Machine
end

