-- ==== Sys2Proof/Machine/Verify.lean ====
section
/-! DEFINITION. The checks that IMAGE_LOAD makes of an image (R225 to R229, R244, R245, R247), and those checks of
IMAGE_VERIFY (R249) that read one section at a time. -/

namespace Sys2Proof.Machine

/-! ### The checks of a load -/

/-- Limits of COUNT by section type (R229). -/
def countOk (typ count : Nat) : Bool :=
  match typ with
  | 2 => decide (1 ≤ count) && decide (count ≤ 16)
  | 3 => decide (1 ≤ count) && decide (count ≤ 64)
  | 4 => decide (1 ≤ count) && decide (count ≤ 4096)
  | 5 => decide (count ≤ 256)
  | 6 => decide (1 ≤ count) && decide (count ≤ 4096)
  | 8 => decide (1 ≤ count) && decide (count ≤ 65534)
  | 10 => decide (1 ≤ count) && decide (count ≤ 16)
  | 14 => decide (count ≤ 65536)
  | _ => true

/-- The tables at the head of a WAVEFORMS section (R237). -/
def waveTables (r : Rd) : Nat := 16 + 16 * ((waveCounts r).1 + (waveCounts r).2.1 + (waveCounts r).2.2)

/-- The content size of a section as COUNT and its subheader imply it; for WAVEFORMS, whose samples they do not
count, and VECTOR_STREAM, whose COUNT holds the padding, what SIZE says (R229, R236, R237). -/
def contentSize (r : Rd) (s : Sect) : Nat :=
  let x := r.from s.off
  match s.typ with
  | 1 => 80 * s.count
  | 2 => 16 * s.count
  | 3 => 96 * s.count
  | 4 => 16 + 32 * (segCounts x).2.1 + 64 * (segCounts x).2.2 + 32 * s.count
  | 5 => 16 + 8 * s.count + 8 * (brCounts x).2
  | 6 => 4 * s.count
  | 7 => 2 * s.count
  | 8 => max s.size (waveTables x)
  | 9 => 48 * s.count
  | 10 => 416 * s.count
  | 11 => ((powerBlocks x s.count 0).map fun b => 16 + 16 * b.nPoints).sum
  | 12 => 32 * s.count
  | 13 => 48 * s.count
  | _ => s.count

/-- COUNT agrees with the count that the section's subheader repeats (R232, R235, R237). -/
def subheaderOk (r : Rd) (s : Sect) : Bool :=
  let x := r.from s.off
  match s.typ with
  | 4 => (segCounts x).1 == s.count
  | 5 => (brCounts x).1 == s.count
  | 8 => (waveCounts x).1 == s.count
  | _ => true

/-- The types that the directory may place in vector SRAM (R229). -/
def placeable (typ : Nat) : Bool := decide (typ ∈ [4, 5, 6, 7, 8, 9])

/-- The directory rules of one entry (R228, R229). -/
def sectOk (h : Hdr8) (r : Rd) (s : Sect) : Bool :=
  decide (1 ≤ s.typ) && decide (s.typ ≤ 14)
    && (if imageWide s.typ then s.cluster == 0xFF else decide (s.cluster < 64) && hasBit h.clusterMask s.cluster)
    && countOk s.typ s.count && subheaderOk r s && s.off % 64 == 0 && s.size % 64 == 0
    && decide (0x100 + 32 * h.sectionCount ≤ s.off) && decide (s.off + s.size ≤ 0x100 + h.bodySize)
    && s.size == roundUp (contentSize r s) 64
    && (if placeable s.typ then true else s.sramOff == notPlaced && s.sramSize == 0)
    && (s.sramOff == notPlaced || s.sramOff % 64 == 0)

/-- Two directory entries stand for different sections that do not overlap (R228). -/
def sectsApart (a b : Sect) : Bool :=
  !(a.typ == b.typ && a.cluster == b.cluster) && (decide (a.off + a.size ≤ b.off) || decide (b.off + b.size ≤ a.off))

/-- Every pair of a list meets a relation. -/
def allPairs (p : Sect → Sect → Bool) : List Sect → Bool
  | [] => true
  | x :: xs => xs.all (p x) && allPairs p xs

/-- A DICT token and a TIMER_START in the tokens of `x` from `pos` on, until `left` vectors are produced or the bytes
end at `stop` (R111, R113). `fuel` bounds the tokens. -/
def tokenNeeds (x : Rd) (stop : Nat) : Nat → Nat → Nat → Bool × Bool
  | 0, _, _ => (false, false)
  | fuel + 1, pos, left =>
    if left = 0 ∨ stop < pos + 2 then (false, false)
    else
      match Token.decode (rd x pos 2) with
      | .dict n _ => (true, (tokenNeeds x stop fuel (pos + 2) (left - n)).2)
      | .repeat_ n => tokenNeeds x stop fuel (pos + 2) (left - n)
      | .literal => tokenNeeds x stop fuel (pos + 6) (left - 1)
      | .control op _ =>
        let y := tokenNeeds x stop fuel (pos + 2) left
        (y.1, y.2 || op == 2)

/-- A waveform is streamed (R130). -/
def waveStreams (x : Rd) : Bool := (List.range (waveCounts x).1).any fun i => (waveDesc x (i + 1)).streamed

/-- The sections that every image has, and those that the segments of a cluster and its resident tokens need (R229). -/
def requiredOk (r : Rd) (h : Hdr8) (dir : List Sect) : Bool :=
  let has (t k : Nat) : Bool := (findSect dir t k).isSome
  let cluster (k : Nat) : Bool :=
    let tab := sectRd r (findSect dir secSegments k)
    let es := (List.range (segCounts tab).1).map (segEntry tab)
    let x := sectRd r (findSect dir secStream k)
    let (off, size) := ((findSect dir secStream k).map fun s => (s.sramOff, s.sramSize)).getD (0, 0)
    let ts := (es.filter fun e => !e.duration && !e.streamed).map fun e =>
      tokenNeeds x size (size / 2 + 1) (e.tokenPtr - off) e.len
    has secLevels k && has secTiming k && has secSegments k
      && (has secBranches k || !((es.any fun e => e.brEn) || ts.any fun t => t.2))
      && (has secDictionary k || !(ts.any fun t => t.1))
      && (has secStream k || es.all fun e => e.duration) && (has secWaveforms k || es.all fun e => e.wset == 0)
      && (has secSpring k || (es.all fun e => !e.streamed) && !waveStreams (sectRd r (findSect dir secWaveforms k)))
      && (has secRecipes k || es.all fun e => e.recipes == 0)
  has secChannelMap 0xFF && has secPower 0xFF && has secBudget 0xFF && (bitsOf h.clusterMask).all cluster
    && ((h.nameStr == notPlaced && h.toolStr == notPlaced) || has secStrings 0xFF)

/-- The dies that hold a cluster of a cluster mask (R227). -/
def diesOfClusters (m : BitVec 64) : List Nat := ((bitsOf m).map dieOfCluster).eraseDups

/-- DRAM_BYTES named in the command equal BUDGET (R247). -/
def dieBytesOk (r : Rd) (units : List (BitVec 32)) : Bool :=
  let b := imgBudget r
  (List.range 8).all fun d =>
    (units.getD d 0).toNat * 4096 == ((b.find? fun e => e.die == d).map (·.dramBytes)).getD 0

/-- What fails about the signature of an image: the detail of AUTH_FAIL (R244, R245, R315). `bytes` are the whole
image. -/
def State.signErr (s : State) (bytes : List Byte) : Option Nat :=
  let r := rdOf bytes
  let h := imgHdr r
  let at_ := 0x100 + h.bodySize
  let x := r.from at_
  let i := rd x 6 1
  let key := s.ident.keys.getD i []
  if !h.signed then (if s.ident.signing then some 0x01 else none)
  else if !(rd x 0 4 == 0x47495351 && rd x 4 2 == 1 && decide (i < 4) && rdZero x 7 1 && rdZero x 0x68 56) then some 0x02
  else if !hasBit s.ident.keyMask i then some 0x03
  else if ecdsaOk (ofBe (sliceBytes key 0 48)) (ofBe (sliceBytes key 48 48)) (ofBe (sliceBytes bytes (at_ + 8) 48))
      (ofBe (sliceBytes bytes (at_ + 0x38) 48)) (sha384 (bytes.take at_)) then none
  else some 0x02

/-- The first check of R247 that a header fails, with its answer; `dirClear` says that the reserved fields of the directory
are zero. -/
def State.headErr (s : State) (r : Rd) (size : Nat) (dirClear : Bool) : Option (Status × Nat) :=
  let h := imgHdr r
  let form := h.magic == 0x47494D51 && h.minor == 1 && h.major == 3 && h.hdrSize == 0x100
    && decide (3 ≤ h.sectionCount) && decide (h.sectionCount ≤ 1024) && h.bodySize % 64 == 0
    && h.sigSize == (if h.signed then 160 else 0) && 0x100 + h.bodySize + h.sigSize == size && h.id != 0
  let model := hasBit (BitVec.ofNat 8 h.modelMask &&& s.model.mask) s.model.mask.toNat.log2
    && (bitsOf h.clusterMask).all s.hasCluster && h.clusterMask != 0
  if !form then some (.badArg, 0x01)
  else if !model then some (.badArg, 0x02)
  else if !(h.reservedOk && decide (h.policy < 2) && dirClear) then some (.badArg, 0x03)
  else none

/-! ### Failures of a verification -/

/-- A failure of IMAGE_VERIFY (R249): detail, directory index, cluster, lane and entry index. -/
structure VFail where
  detail : Nat
  sect   : Nat
  k      : Nat
  lane   : Nat
  entry  : Nat
  deriving DecidableEq, Repr, Inhabited

/-- The tables of one cluster of an image. -/
structure Vc where
  r     : Rd
  dir   : List Sect
  k     : Nat
  m     : MapRec
  segs  : List SegEntry
  brs   : List BrEntry
  rates : List RateEntry
  chgs  : List (List ChgLane)

/-- The tables of cluster `k`. -/
def vcOf (r : Rd) (k : Nat) : Vc :=
  let dir := imgDir r
  let seg := sectRd r (findSect dir secSegments k)
  let br := sectRd r (findSect dir secBranches k)
  let (nSeg, nRate, nChg) := segCounts seg
  { r, dir, k
    m := ((imgMap r).find? fun m => m.k == k).getD (mapRec (fun _ => 0) 0)
    segs := (List.range nSeg).map (segEntry seg)
    brs := (List.range (brCounts br).1).map (brEntry br)
    rates := (List.range nRate).map (rateEntry seg)
    chgs := (List.range nChg).map fun c => changeRec seg (c + 1) }

/-- The section of a type of the cluster. -/
def Vc.sect (c : Vc) (typ : Nat) : Option Sect := findSect c.dir typ c.k

/-- The reader of a section of the cluster. -/
def Vc.table (c : Vc) (typ : Nat) : Rd := sectRd c.r (c.sect typ)

/-- COUNT of a section of the cluster, 0 where it has none. -/
def Vc.count (c : Vc) (typ : Nat) : Nat := ((c.sect typ).map (·.count)).getD 0

/-- SRAM_SIZE of a section of the cluster. -/
def Vc.sram (c : Vc) (typ : Nat) : Nat := ((c.sect typ).map (·.sramSize)).getD 0

/-- FIXED_SIZE in bytes (R115, R230). -/
def Vc.fixed (c : Vc) : Nat := c.m.fixedUnits * 16384

/-- A failure in a section of the cluster. -/
def Vc.bad (c : Vc) (typ detail : Nat) (lane : Nat := 0xFF) (entry : Nat := 0) : VFail :=
  { detail, sect := ((c.sect typ).map (·.idx)).getD 0, k := c.k, lane, entry }

/-- A failure in an image-wide section. -/
def wideBad (dir : List Sect) (typ detail : Nat) (k : Nat := 0xFF) (lane : Nat := 0xFF) (entry : Nat := 0) : VFail :=
  { detail, sect := ((findSect dir typ 0xFF).map (·.idx)).getD 0, k, lane, entry }

/-- Nothing where a condition holds, else the failure. -/
def need (b : Bool) (f : VFail) : List VFail := if b then [] else [f]

/-- The failures of every entry of a list. -/
def eachOf {α : Type} (xs : List α) (f : Nat → α → List VFail) : List VFail := xs.zipIdx.flatMap fun x => f x.2 x.1

/-! ### Channel map, placement, change records -/

/-- CHANNEL_MAP (R76, R230). -/
def mapFails (r : Rd) : List VFail :=
  let dir := imgDir r
  let h := imgHdr r
  let map := imgMap r
  let bad (detail i : Nat) (m : MapRec) (lane : Nat := 0xFF) : VFail := wideBad dir secChannelMap detail m.k lane i
  need (map.map (·.k) == bitsOf h.clusterMask) (wideBad dir secChannelMap 0x10)
    ++ eachOf map fun i m =>
      let spans := m.gangs.map fun g => (List.range g.2.1).map (· + g.1)
      need m.reservedOk (bad 0x03 i m)
        ++ need (m.lanes != 0 && decide (1 ≤ m.fixedUnits) && decide (m.fixedUnits ≤ 63) && decide (m.nGang ≤ 4)
            && m.spareOk) (bad 0x10 i m)
        ++ need (m.gangs.all fun g => decide (2 ≤ g.2.1) && decide (g.1 + g.2.1 ≤ 8) && decide (3 ≤ g.2.2)
            && decide (g.2.2 ≤ 5)) (bad 0x10 i m)
        ++ need (decide (spans.flatten.eraseDups.length = spans.flatten.length)
            && spans.flatten.all fun l => hasBit m.lanes l) (bad 0x10 i m)
        ++ eachOf m.lane fun l x =>
          need x.reservedOk (bad 0x03 i m l) ++ need (decide (x.measSel < 3)) (bad 0x10 i m l)
            ++ need (!m.isMember l || x.zero) (bad 0x10 i m l)

/-- A span lies in one of the two fixed areas (R115, R228). -/
def inFixed (fixed lo n : Nat) : Bool :=
  (decide (0x4000 ≤ lo) && decide (lo + n ≤ fixed))
    || (decide (0x100000 ≤ lo) && decide (lo + n ≤ 0x100000 + fixed))

/-- The sections of a cluster that are placed. -/
def Vc.placed (c : Vc) : List Sect := c.dir.filter fun s => s.cluster == c.k && s.sramOff != notPlaced

/-- Two placed sections do not overlap in vector SRAM (R228). -/
def sramApart (a b : Sect) : Bool :=
  decide (a.sramOff + a.sramSize ≤ b.sramOff) || decide (b.sramOff + b.sramSize ≤ a.sramOff)
    || a.sramSize == 0 || b.sramSize == 0

/-- Placement (R115, R228, R229, R236). -/
def Vc.sramFails (c : Vc) : List VFail :=
  let fit (s : Sect) (b : Bool) : List VFail := need b { detail := 0x11, sect := s.idx, k := c.k, lane := 0xFF, entry := 0 }
  let mine := c.dir.filter fun s => s.cluster == c.k && placeable s.typ
  mine.flatMap (fun s =>
    let whole := s.typ != secStream && s.typ != secWaveforms
    let is_ := s.sramOff != notPlaced
    fit s (!whole || is_) ++ fit s (!whole || s.sramSize == contentSize c.r s) ++ fit s (decide (s.sramSize ≤ s.size))
      ++ fit s (is_ || s.sramSize == 0)
      ++ fit s (!is_ || (if s.typ = secDictionary then s.sramOff == 0 else inFixed c.fixed s.sramOff s.sramSize))
      ++ fit s (s.typ != secWaveforms || decide (waveTables (c.r.from s.off) ≤ s.sramSize)))
    ++ need (allPairs sramApart c.placed) (c.bad secSegments 0x11)

/-- Change records (R76, R233). -/
def Vc.changeFails (c : Vc) : List VFail :=
  eachOf c.chgs fun i ls => eachOf ls fun l x =>
    let bad (detail : Nat) : VFail := c.bad secSegments detail l i
    need x.reservedOk (bad 0x03)
      ++ (if x.apply then
          need (hasBit c.m.lanes l && !c.m.isMember l) (bad 0x1B)
            ++ need (decide (1 ≤ x.mode) && decide (x.mode ≤ 4) && decide (x.range ≤ 5)) (bad 0x1B)
            ++ need (!(c.m.gangs.any fun g => g.1 == l) || decide (3 ≤ x.range)) (bad 0x1B)
        else need x.zero (bad 0x1B))

/-! ### Rates, segments, branches -/

/-- The OWN settings of the owner of a die in an image (R117). -/
def ownSettings (r : Rd) (d : Nat) : List PllArg :=
  match imgClustersOn r d with
  | k :: _ =>
    let tab := imgSegs r k
    ((List.range (segCounts tab).2.1).map (rateEntry tab)).filterMap fun e => if e.own then some e.pll else none
  | [] => []

/-- The nominal vector periods that a rate entry can have (R97, R116, R117). -/
def Vc.periods (c : Vc) (i : Nat) : List Rat :=
  match c.rates[i]? with
  | none => []
  | some e =>
    let t4s := if e.own then [(pllSettingOf e.pll).t4]
      else (ownSettings c.r (dieOfCluster c.k)).map fun x => (pllSettingOf x).t4
    t4s.map fun t => t * (e.vdiv : Nat)

/-- The largest and the smallest of a list, 0 for none. -/
def maxOfRat (xs : List Rat) : Rat := xs.foldl max 0
def minOfRat (xs : List Rat) : Rat := match xs with | [] => 0 | x :: xs => xs.foldl min x

/-- Length of a segment at a vector period (R119). -/
def SegEntry.lenAt (e : SegEntry) (p : Rat) : Rat := (e.periods p : Nat) * p

/-- Rate entries (R85, R116, R117, R232). -/
def Vc.rateFails (c : Vc) : List VFail :=
  let owner := (imgClustersOn c.r (dieOfCluster c.k)).head? == some c.k
  need (decide (1 ≤ c.rates.length) && decide (c.rates.length ≤ 16)) (c.bad secSegments 0x15)
    ++ need (rdZero (c.table secSegments) 4 12) (c.bad secSegments 0x03)
    ++ eachOf c.rates fun i e =>
      let bad (detail : Nat) : VFail := c.bad secSegments detail 0xFF i
      need e.reservedOk (bad 0x03)
        ++ need (decide (1 ≤ e.vdiv) && decide (e.vdiv ≤ 4096) && decide (50 ≤ e.dacDiv)) (bad 0x15)
        ++ need (e.own == owner) (bad 0x14)
        ++ (match if e.own then pllArgBad e.pll else none with
          | some 0x03 => [bad 0x03]
          | some _ => [bad 0x14]
          | none => [])

/-- A target index of a branch: an entry, done, or the loop check (R120, R125). -/
def Vc.targetOk (c : Vc) (t : Nat) : Bool := decide (t < c.segs.length) || t == targetDone || t == targetLoop

/-- Branch entries (R120, R125, R126, R235). -/
def Vc.branchFails (c : Vc) : List VFail :=
  let x := c.table secBranches
  let streamed (t : Nat) : Bool := (c.segs[t]?).any (·.streamed)
  need (rdZero x 3 13 && decide ((brCounts x).2 ≤ 64)) (c.bad secBranches 0x03)
    ++ ((List.range (brCounts x).2).flatMap fun i =>
        need (decide (timerConst x i < 2 ^ 48)) (c.bad secBranches 0x03 0xFF (c.brs.length + i)))
    ++ eachOf c.brs fun i b =>
      let bad (detail : Nat) : VFail := c.bad secBranches detail 0xFF i
      need b.reservedOk (bad 0x03)
        ++ need (c.targetOk b.targetT && c.targetOk b.targetF) (bad 0x15)
        ++ need (!streamed b.targetT && !streamed b.targetF) (bad 0x15)
        ++ need (match b.source with
          | 9 => decide (b.select.toNat < 256)
          | 10 => decide (b.select.toNat < 256)
          | 11 => true
          | 12 => true
          | 13 => decide (b.select.toNat < 4)
          | _ => b.select == 0) (bad 0x17)

/-- Segment entries (R118 to R120, R234). -/
def Vc.segFails (c : Vc) : List VFail :=
  let nSeg := c.segs.length
  need (c.brs.isEmpty || (c.sect secBranches).isSome) (c.bad secSegments 0x17)
    ++ eachOf c.segs fun i e =>
      let bad (typ detail : Nat) : VFail := c.bad typ detail 0xFF i
      let ps := c.periods e.rate
      need (e.reservedOk && decide (e.endAction < 3)) (bad secSegments 0x03)
        ++ need (decide (1 ≤ e.len) && decide (e.rate < c.rates.length) && decide (e.tset < c.count secTiming)
            && decide (e.lset < c.count secLevels) && decide (e.depth ≤ 4)) (bad secSegments 0x15)
        ++ need (if e.duration then !e.streamed && e.tokenPtr == 0 else e.tokenPtr % 2 == 0) (bad secSegments 0x15)
        ++ need (if e.loopOp = 2 then decide (e.loopBegin < nSeg) else e.loopBegin == 0) (bad secSegments 0x15)
        ++ need (if e.endAction = 1 then decide (e.next < nSeg) else e.next == 0) (bad secSegments 0x15)
        ++ need (if e.begins then decide (1 ≤ e.loopCount) else e.loopCount == 0) (bad secSegments 0x15)
        ++ need (if e.brEn then e.endAction == 0 else e.branch == 0) (bad secSegments 0x15)
        ++ need (e.springCount != 0 || e.springFirst == 0) (bad secSegments 0x15)
        ++ need (!e.brEn || decide (e.branch < c.brs.length)) (bad secSegments 0x17)
        ++ need (!e.brEn || e.ends || (c.brs[e.branch]?).all fun b => b.targetT != targetLoop && b.targetF != targetLoop)
            (bad secSegments 0x16)
        ++ need (decide (e.chg ≤ c.chgs.length)) (bad secSegments 0x1B)
        ++ need (decide (e.wset ≤ (waveCounts (c.table secWaveforms)).2.1)) (bad secSegments 0x1C)
        ++ need ((bitsOf e.recipes).all fun j => decide (j < c.count secRecipes)) (bad secSegments 0x20)
        ++ need (ps.all fun p => decide (256 ≤ e.lenAt p) && decide (128 ≤ e.periods p)) (bad secSegments 0x15)
        ++ need (e.duration || e.streamed ||
            (match c.sect secStream with
             | some s => s.sramOff != notPlaced && decide (s.sramOff ≤ e.tokenPtr) && decide (e.tokenPtr < s.sramOff + s.sramSize)
             | none => false)) (bad secSegments 0x11)
        ++ need (!e.streamed || (decide (c.fixed ≤ e.tokenPtr % 0x100000) && decide (e.tokenPtr < 0x200000)))
            (bad secSegments 0x11)

/-! ### Level sets and timing sets -/

/-- Reserved bytes of level and timing sets (R231), and what R48 asks of every level set whatever the mode: in the segments of
the table that name it at their swing limits, and by itself. -/
def Vc.setFails (c : Vc) : List VFail :=
  let ls := c.table secLevels
  let ts := c.table secTiming
  ((List.range (c.count secLevels)).flatMap fun i =>
      let swings := (6 : Rat) :: (c.segs.filter fun e => e.lset == i).map fun e => swingLimit (minOfRat (c.periods e.rate))
      need (rdZero ls (16 * i + 14) 2) (c.bad secLevels 0x03 0xFF i)
        ++ need (swings.all fun x => levelsOk none x (fun _ => true) (levelSet ls i)) (c.bad secLevels 0x12 0xFF i))
    ++ (List.range (c.count secTiming)).flatMap fun i => (List.range 8).flatMap fun l =>
      let b := 96 * i + 12 * l
      need (decide (rd ts (b + 9) 1 < 4) && rdZero ts (b + 10) 2) (c.bad secTiming 0x03 l i)

/-- Timing sets in every segment that uses them (R96); fine units are 1/2048 ns. -/
def Vc.timingFails (c : Vc) : List VFail :=
  let ts := c.table secTiming
  eachOf c.segs fun _ e =>
    let pf := minOfRat (c.periods e.rate) * 2048
    (List.range 8).flatMap fun l =>
      let x := timingPin ts e.tset l
      need (decide ((x.d1 : Rat) < pf)
          && (x.d2 == noEvent || (decide (x.d1 + 287 ≤ x.d2) && decide ((x.d2 : Rat) < pf)))
          && (x.strobe == noEvent || decide ((x.strobe : Rat) < pf)))
        (c.bad secTiming 0x13 l e.tset)

/-! ### Recipes -/

/-- What an operator takes (R181): whether A must be INT; B: 0 none, 1 a value, 2 a boolean or none, 3 a prior bin or
none; the number of constants from C on. -/
def opShape (st : Step) : Bool × Nat × Nat :=
  let cmp := if st.cmp ≥ 6 then (0, 2) else (1, 0)
  match st.op with
  | 0x00 => (false, 0, 1)
  | 0x01 => (true, 0, 0)
  | 0x02 => (true, 0, 0)
  | 0x03 => (true, 0, 0)
  | 0x04 => (true, 0, 0)
  | 0x05 => (true, 0, 0)
  | 0x06 => (false, cmp.1, cmp.2)
  | 0x07 => (true, 0, 2)
  | 0x08 => (true, 0, 0)
  | 0x09 => (false, 0, 2)
  | 0x0A => (false, 1, 0)
  | 0x0B => (true, 0, 0)
  | 0x0C => (false, cmp.1, cmp.2)
  | 0x0D => (true, 0, 1)
  | 0x0E => (false, 3, st.m)
  | 0x0F => (false, 0, 2)
  | 0x10 => (false, 0, 2)
  | 0x11 => (false, 0, 0)
  | 0x12 => (false, 1, 0)
  | 0x13 => (false, 1, 0)
  | 0x14 => (false, 2, 0)
  | 0x15 => (false, 2, 0)
  | 0x16 => (true, if st.cmp = 3 then 0 else 1, 0)
  | _ => (false, 0, 0)

/-- The types of the constants that a step names from C on: INT, or as its operand A where the table says so (R181). -/
def constTypes (st : Step) (aF : Bool) : List Bool :=
  match st.op with
  | 0x06 => [aF, aF]
  | 0x0C => [aF, aF]
  | 0x0E => List.replicate st.m aF
  | 0x0F => [true, false]
  | 0x10 => [aF, aF]
  | _ => [false, false]

/-- An operand's source and index are in range (R179, R182). -/
def operandOk (x : Recipe) (j from_ idx : Nat) : Bool :=
  match from_ with
  | 0 => idx == 0
  | 1 => decide (idx < j)
  | 2 => decide (idx < x.nConst)
  | _ => decide (idx < 9)

/-- Ascending values (R181). -/
def ascending {α : Type} (lt : α → α → Bool) : List α → Bool
  | a :: b :: rest => lt a b && ascending lt (b :: rest)
  | _ => true

/-- One step of a recipe (R179, R181, R182, R239): its failure details. -/
def stepFails (x : Recipe) (types : List Bool) (j : Nat) (st : Step) : List Nat :=
  let (aInt, bForm, nC) := opShape st
  let aF := st.aIsF types
  let bF := st.bIsF types
  let range (b : Bool) : List Nat := if b then [] else [0x20]
  let zero (b : Bool) : List Nat := if b then [] else [0x03]
  let noB := st.bFrom == 0 && st.bIdx == 0
  let cs := (constTypes st aF).take nC
  let up := ascending (cmpVals 0) (cs.zipIdx.map fun t => x.constVal (st.c + t.2) t.1)
  zero st.reservedOk
    ++ zero (decide (st.op < 0x18))
    ++ range (operandOk x j st.aFrom st.aIdx) ++ range (!aInt || !aF)
    ++ range (match bForm with
      | 0 => noB
      | 1 => !st.bNone && operandOk x j st.bFrom st.bIdx && (st.op != opLogic || !bF)
      | 2 => if st.bNone then noB else operandOk x j st.bFrom st.bIdx && !bF
      | _ => if st.bNone then noB else st.bFrom == 1 && operandOk x j 1 st.bIdx && !bF)
    ++ range (if nC = 0 then st.c == 0 else decide (st.c + nC ≤ x.nConst))
    ++ range (if st.op = opBin then decide (1 ≤ st.m) && up else st.m == 0)
    ++ range (st.op != opHist || up)
    ++ range (match st.op with
      | 0x06 => true
      | 0x0C => true
      | 0x16 => decide (st.cmp < 4)
      | _ => st.cmp == 0)
    ++ range (if st.op = opCompare then st.flagEn || (st.flag == 0 && !st.all)
        else !st.flagEn && st.flag == 0 && !st.all)
    ++ range (if st.op = opStore then decide (st.dest < 9) else st.dest == 0)
    ++ zero (cs.zipIdx.all fun t => !t.1 || decide (x.consts.getD (st.c + t.2) 0 < 2 ^ 32))
    ++ zero ((st.aFrom != 2 || !aF || decide (x.consts.getD st.aIdx 0 < 2 ^ 32))
      && (st.bNone || st.bFrom != 2 || !bF || decide (x.consts.getD st.bIdx 0 < 2 ^ 32)))

/-- The flags that a recipe's COMPARE steps write. -/
def Recipe.flags (x : Recipe) : List Nat := (x.live.filter fun st => st.op == opCompare && st.flagEn).map (·.flag)

/-- HIST steps of a recipe. -/
def Recipe.hists (x : Recipe) : Nat := (x.live.filter fun st => st.op == opHist).length

/-- REDUCTION_RECIPES of a cluster (R173, R174, R182, R239). -/
def Vc.recipeFails (c : Vc) : List VFail :=
  let xs := (List.range (c.count secRecipes)).map (recipeAt (c.table secRecipes))
  let flags := xs.flatMap Recipe.flags
  need (decide (flags.eraseDups.length = flags.length) && decide ((xs.map Recipe.hists).sum ≤ 4)) (c.bad secRecipes 0x20)
    ++ eachOf xs fun i x =>
      let bad (detail : Nat) : VFail := c.bad secRecipes detail 0xFF i
      need x.reservedOk (bad 0x03)
        ++ need (x.laneMask != 0 && decide (1 ≤ x.nSteps) && decide (x.nSteps ≤ 32) && decide (x.nConst ≤ 16)
            && decide (x.hists ≤ 2)) (bad 0x20)
        ++ need ((bitsOf x.laneMask).all fun l => hasBit c.m.lanes l && !c.m.isMember l) (bad 0x20)
        ++ need (if x.endMode = 1 then decide (x.endSeg < c.segs.length) else x.endSeg == 0) (bad 0x20)
        ++ need (if x.endMode = 2 then decide (1 ≤ x.count) else x.count == 0) (bad 0x20)
        ++ need ((x.consts.drop x.nConst).all (· == 0) && (x.steps.drop x.nSteps).all (·.zero)) (bad 0x20)
        ++ x.live.zipIdx.flatMap fun st => (stepFails x x.types st.2 st.1).map bad

/-! ### Waveforms and springs -/

/-- WAVEFORMS of a cluster, apart from paths (R130, R237); what lies beyond SRAM_SIZE are streamed samples. -/
def Vc.waveFails (c : Vc) : List VFail :=
  match c.sect secWaveforms with
  | none => []
  | some s =>
    let x := c.r.from s.off
    let (nWave, nSet, nRing) := waveCounts x
    let bad (detail i : Nat) (lane : Nat := 0xFF) : VFail := c.bad secWaveforms detail lane i
    need (rdZero x 5 11) (bad 0x03 0)
      ++ need (decide (nRing ≤ 16) && decide (nSet ≤ 4095)) (bad 0x1C 0)
      ++ ((List.range nRing).flatMap fun i =>
          let (off, size) := ringEntry x i
          need (rdZero x (16 + 16 * i + 8) 8) (bad 0x03 i)
            ++ need (off % 64 == 0 && size % 64 == 0 && decide (128 ≤ size)) (bad 0x1C i)
            ++ need (inFixed c.fixed off size) (bad 0x11 i))
      ++ ((List.range nWave).flatMap fun i =>
          let w := waveDesc x (i + 1)
          need w.reservedOk (bad 0x03 i) ++ need (decide (50 ≤ w.sinDiv)) (bad 0x1C i)
            ++ (if w.streamed then need (decide (w.location < nRing)) (bad 0x11 i)
              else
                let at_ := w.location - s.sramOff
                need (s.sramOff != notPlaced && decide (s.sramOff ≤ w.location)
                    && decide (at_ + 4 * w.length ≤ s.sramSize)) (bad 0x11 i)
                  ++ need ((List.range w.length).all fun j => decide (rd x (at_ + 4 * j) 4 < 2 ^ 18)) (bad 0x03 i)))
      ++ need ((List.range ((s.size - s.sramSize) / 4)).all fun j => decide (rd x (s.sramSize + 4 * j) 4 < 2 ^ 18)) (bad 0x03 0)
      ++ (List.range nSet).flatMap fun i => eachOf (waveSet x (i + 1)) fun l v =>
          need (v == 0xFFFF || decide (v ≤ nWave)) (bad 0x1C i l)
            ++ need (v == 0 || (hasBit c.m.lanes l && !c.m.isMember l)) (bad 0x1C i l)

/-- The spring plan of a cluster with its indexes. -/
def Vc.plan (c : Vc) : List SpringEntry := (List.range (c.count secSpring)).map (springEntry (c.table secSpring))

/-- The blocks of one half in plan order: the entries up to each LAST, and those after the last of them (R135). -/
def halfBlocks (xs : List SpringEntry) : List (List SpringEntry) × List SpringEntry :=
  xs.foldl (fun b e => if e.last then (b.1 ++ [b.2 ++ [e]], []) else (b.1, b.2 ++ [e])) ([], [])

/-- The entries of a block do not overlap (R137). -/
def blockApart : List SpringEntry → Bool
  | [] => true
  | a :: rest =>
    rest.all (fun b => decide (a.destOff + a.len ≤ b.destOff) || decide (b.destOff + b.len ≤ a.destOff)) && blockApart rest

/-- SPRING_PLAN of a cluster (R135 to R137, R238). -/
def Vc.springFails (c : Vc) : List VFail :=
  let plan := c.plan
  let buf := 0x100000 - c.fixed
  let wr := c.table secWaveforms
  let nRing := (waveCounts wr).2.2
  let half (h : Nat) : List (List SpringEntry) × List SpringEntry := halfBlocks (plan.filter fun e => e.dest == h)
  (eachOf plan fun i e =>
    let bad (detail : Nat) : VFail := c.bad secSpring detail 0xFF i
    let pre := e.bind == bindPrefill
    let src := if e.waves then c.sect secWaveforms else c.sect secStream
    need e.reservedOk (bad 0x03) ++ need (decide (e.dest < 3)) (bad 0x03)
      ++ need (if pre then e.issue == 0 && e.deadline == 0 && e.firstUse == 0
          else (match c.segs[e.bind]? with
            | some g => decide (g.springFirst ≤ i) && decide (i < g.springFirst + g.springCount)
            | none => false)
            && decide (e.issue + 4000 ≤ e.deadline) && decide (e.deadline + 20000 ≤ e.firstUse)) (bad 0x1D)
      ++ need (decide (1 ≤ e.len) && e.len % 64 == 0 && e.src % 64 == 0 && decide (e.len ≤ buf)) (bad 0x1D)
      ++ need (match src with
          | some s => decide (s.sramSize ≤ e.src) && decide (e.src + e.len ≤ s.size)
          | none => false) (bad 0x1D)
      ++ need (if e.dest = 2 then
            e.waves && e.destOff == 0 && decide (e.ring < nRing) && decide (e.len ≤ (ringEntry wr e.ring).2)
          else !e.waves && e.ring == 0 && e.destOff % 64 == 0 && decide (e.destOff + e.len ≤ buf)) (bad 0x1D))
    ++ (eachOf c.segs fun i g =>
        need ((List.range g.springCount).all fun j =>
          (plan[g.springFirst + j]?).any fun e => e.bind == i) (c.bad secSegments 0x1D 0xFF i))
    ++ [0, 1].flatMap fun h =>
        need ((half h).2.isEmpty && (half h).1.all blockApart) (c.bad secSpring 0x1D)

/-! ### Image-wide sections -/

/-- STILL_OVERRIDES (R68, R242). -/
def stillFails (r : Rd) : List VFail :=
  let dir := imgDir r
  match findSect dir secOverrides 0xFF with
  | none => []
  | some s =>
    let os := imgOverrides r
    let ns := os.map (·.1)
    need (decide (ns.eraseDups.length = ns.length)) (wideBad dir secOverrides 0x23)
      ++ eachOf os fun i o =>
        let bad (detail : Nat) : VFail := wideBad dir secOverrides detail (clusterOf o.1) (laneOf o.1) i
        need (rdZero r (s.off + 48 * i + 2) 14 && decide (o.1 < 512)) (bad 0x03)
          ++ need (o.2.valid && o.2.codes.clampsOk) (bad 0x23)
          ++ need ((imgMap r).any fun m => m.k == clusterOf o.1 && hasBit m.lanes (laneOf o.1) && !m.isMember (laneOf o.1))
              (bad 0x23)

/-- POWER_PROFILE (R240). -/
def powerFails (r : Rd) : List VFail :=
  let dir := imgDir r
  let h := imgHdr r
  let x := sectRd r (findSect dir secPower 0xFF)
  let bs := imgPower r
  need (bs.map (·.die) == bitsOf h.dieMask) (wideBad dir secPower 0x24)
    ++ eachOf bs fun i b =>
      let bad (detail : Nat) : VFail := wideBad dir secPower detail 0xFF 0xFF i
      let ps := (List.range b.nPoints).map fun j => (rd x (b.off + 16 * j) 8, rd x (b.off + 16 * j + 8) 4)
      need (b.reservedOk && (List.range b.nPoints).all fun j => rdZero x (b.off + 16 * j + 12) 4) (bad 0x03)
        ++ need (decide (1 ≤ b.nPoints) && decide (b.nPoints ≤ 4096) && (ps.map (·.1)).head? == some 0
            && ascending (fun a b => decide (a < b)) (ps.map (·.1))
            && (ps.map (·.2)).foldl max 0 == b.loadPeak && decide (b.loadPeak ≤ 16000)) (bad 0x24)

/-- ARM_BYTES of a die by R241. -/
def armBytes (cs : List Vc) : Nat :=
  (cs.map fun c => 2 * c.fixed + 416 * c.count secRecipes
    + ((c.plan.filter fun e => e.bind == bindPrefill).map (·.len)).sum).sum

/-- DRAM_BYTES of a die by R241. -/
def dramBytes (r : Rd) (d : Nat) : Nat :=
  let dir := imgDir r
  let h := imgHdr r
  let wide := 0x100 + 32 * h.sectionCount + ((dir.filter fun s => imageWide s.typ).map (·.size)).sum
  roundUp wide 4096
    + ((dir.filter fun s => !imageWide s.typ && dieOfCluster s.cluster == d).map fun s => roundUp s.size 4096).sum

/-- The bound of R206 on the spring traffic of a die, in MB/s: exact. -/
def springNeed (cs : List Vc) : Rat :=
  (cs.map fun c => maxOfRat ((c.plan.filter fun e => e.bind != bindPrefill).map fun e =>
    if e.issue < e.deadline then (e.len : Rat) * 1000 / ((e.deadline - e.issue : Nat) : Rat) else 0)).sum

/-- BUDGET and the budget block (R206, R227, R241). -/
def budgetFails (r : Rd) (cs : List Vc) : List VFail :=
  let dir := imgDir r
  let h := imgHdr r
  let bs := imgBudget r
  let ds := diesOfClusters h.clusterMask
  need (bs.map (·.die) == bitsOf h.dieMask) (wideBad dir secBudget 0x1F)
    ++ (eachOf bs fun i b =>
      let mine := cs.filter fun c => dieOfCluster c.k == b.die
      let bad (detail : Nat) : VFail := wideBad dir secBudget detail 0xFF 0xFF i
      need b.reservedOk (bad 0x03)
        ++ need (decide (springNeed mine ≤ (b.springPeak : Rat))) (bad 0x1E)
        ++ need (b.armBytes == armBytes mine && b.dramBytes == dramBytes r b.die) (bad 0x1F))
    ++ need (h.armTotal == (bs.map (·.armBytes)).sum && h.dramTotal == (bs.map (·.dramBytes)).sum
        && h.springMax == (bs.map (·.springPeak)).foldl max 0 && h.loadMax == ((imgPower r).map (·.loadPeak)).foldl max 0
        && bitsOf h.dieMask == ds) (wideBad dir secBudget 0x25)

/-- The margin of R191 (R227). -/
def marginFails (r : Rd) : List VFail :=
  let m := (imgHdr r).segWdMargin
  need (m == 0 || (decide (1000 ≤ m) && decide (m ≤ 14400000000000)))
    { detail := 0x15, sect := 0, k := 0xFF, lane := 0xFF, entry := 0 }

end Sys2Proof.Machine
end

