-- ==== Sys2Proof/Machine/VerifyPaths.lean ====
section
/-! DEFINITION. The checks of IMAGE_VERIFY that follow paths through a cluster's segment and branch tables (R49, R64, R88,
R110 to R114, R120, R122, R123, R130, R135, R183, R249, R250), and the whole verification. -/

namespace Sys2Proof.Machine

/-! ### The graph of segments with their loops -/

/-- A way on from a segment (R123): done, back along a loop's edge, or on to a segment with its loops. -/
inductive Hop where
  | done
  | back (n : Nat)
  | go (n : Nat) (st : List Nat)
  deriving DecidableEq, Repr

/-- Segment `i` of a cluster. -/
def Vc.seg (c : Vc) (i : Nat) : SegEntry := c.segs.getD i default

/-- The loops in force, outermost first, when segment `n` is entered from a segment with loops `cur`: the levels above
DEPTH are popped and a BEGIN pushes its own (R122). None where DEPTH does not fit. -/
def Vc.enter (c : Vc) (cur : List Nat) (n : Nat) : Option (List Nat) :=
  let e := c.seg n
  let st := if e.begins then
      (match cur.idxOf? n with
       | some j => cur.take (j + 1)
       | none => cur.take (e.depth - 1) ++ [n])
    else cur.take e.depth
  if st.length = e.depth ∧ e.depth ≤ 4 then some st else none

/-- A way on to segment `n`, or the failure that stands there (R120, R122). -/
def Vc.goto (c : Vc) (i : Nat) (cur : List Nat) (n : Nat) : List Hop × List VFail :=
  if n < c.segs.length then
    match c.enter cur n with
    | some st => ([.go n st], [])
    | none => ([], [c.bad secSegments 0x16 0xFF n])
  else ([], [c.bad secSegments 0x15 0xFF i])

/-- The ways on from segment `i` with loops `st` through its loop check and END_ACTION (R123). `left` is the counter of the top
level where a path knows it. -/
def Vc.loopCheck (c : Vc) (i : Nat) (st : List Nat) (left : Option Nat) : List Hop × List VFail :=
  let e := c.seg i
  let fall (st : List Nat) : List Hop × List VFail :=
    match e.endAction with
    | 0 => c.goto i st (i + 1)
    | 1 => c.goto i st e.next
    | _ => ([.done], [])
  if e.ends then
    let b := if e.loopOp = 3 then i else e.loopBegin
    if st.getLast? = some b then
      let f := fall st.dropLast
      ((if 1 < left.getD (c.seg b).loopCount then [.back b] else []) ++ (if left.all (· ≤ 1) then f.1 else []), f.2)
    else ([], [c.bad secSegments 0x16 0xFF i])
  else fall st

/-- The ways on from segment `i` with loops `st` (R123). -/
def Vc.hops (c : Vc) (i : Nat) (st : List Nat) (left : Option Nat := none) : List Hop × List VFail :=
  let e := c.seg i
  if e.brEn then
    match c.brs[e.branch]? with
    | none => ([], [])
    | some b =>
      let one (t : Nat) : List Hop × List VFail :=
        if t = targetDone then ([.done], [])
        else if t = targetLoop then
          (if e.ends then c.loopCheck i st left else ([], [c.bad secSegments 0x16 0xFF i]))
        else c.goto i st t
      ((one b.targetT).1 ++ (one b.targetF).1, (one b.targetT).2 ++ (one b.targetF).2)
  else c.loopCheck i st left

/-- The reachable segments with their loops, and what fails on the way: a segment that two paths reach with different
loops breaks R122. `n` bounds the passes. -/
def Vc.explore (c : Vc) : Nat → List (Nat × List Nat) → List (Nat × List Nat) → List VFail →
    List (Nat × List Nat) × List VFail
  | 0, _, seen, fs => (seen, fs)
  | _ + 1, [], seen, fs => (seen, fs)
  | n + 1, (i, st) :: todo, seen, fs =>
    match seen.lookup i with
    | some st' => Vc.explore c n todo seen (if st' = st then fs else fs ++ [c.bad secSegments 0x16 0xFF i])
    | none =>
      let h := c.hops i st
      let next := h.1.filterMap fun x => match x with
        | .go n st => some (n, st)
        | _ => none
      Vc.explore c n (next ++ todo) ((i, st) :: seen) (fs ++ h.2)

/-- The graph of a cluster: its reachable segments with their loops, and its LOOP and SEGMENT failures. -/
def Vc.graph (c : Vc) : List (Nat × List Nat) × List VFail :=
  match c.enter [] 0 with
  | some st => c.explore (4 * c.segs.length + 4) [(0, st)] [] []
  | none => ([], [c.bad secSegments 0x16])

/-- The reachable segments, ascending. -/
def Vc.reached (c : Vc) (g : List (Nat × List Nat)) : List Nat :=
  (List.range c.segs.length).filter fun i => (g.lookup i).isSome

/-- The segments that can follow segment `i` (R123). -/
def Vc.succs (c : Vc) (g : List (Nat × List Nat)) (i : Nat) : List Nat :=
  match g.lookup i with
  | none => []
  | some st => ((c.hops i st).1.filterMap fun x => match x with
      | .go n _ => some n
      | .back n => some n
      | .done => none).eraseDups

/-! ### Modes, ranges and waveforms of the lanes along paths -/

/-- The values that a setting can have in segment `i`: what `sets` gives on the last segment of a path that sets it, none
where no segment has set it yet. -/
def Vc.reaching {α : Type} [BEq α] (c : Vc) (g : List (Nat × List Nat)) (sets : Nat → Option α) (i : Nat) :
    List (Option α) :=
  let n := 8 * c.segs.length + 8
  let from_ (todo : List Nat) : Bool := (reach (c.succs g) (fun j => (sets j).isSome) n todo []).contains i
  let starts : List (Option α) := if from_ [0] then [none] else []
  let others := (c.reached g).filterMap fun j =>
    match sets j with
    | some v => if from_ (c.succs g j) then some (some v) else none
    | none => none
  (starts ++ others).eraseDups

/-- The change of lane `l` that segment `i` makes: mode and range (R233). -/
def Vc.changeOf (c : Vc) (l i : Nat) : Option (Nat × Nat) :=
  let e := c.seg i
  if e.chg = 0 then none
  else ((c.chgs.getD (e.chg - 1) [])[l]?).bind fun x => if x.apply then some (x.mode, x.range) else none

/-- The mode and range with which lane `l` can enter segment `i`; none for those it was connected with. -/
def Vc.before (c : Vc) (g : List (Nat × List Nat)) (l i : Nat) : List (Option (Nat × Nat)) := c.reaching g (c.changeOf l) i

/-- The modes that lane `l` can have in segment `i` (R65). -/
def Vc.modes (c : Vc) (g : List (Nat × List Nat)) (l i : Nat) : List (Option Nat) :=
  match c.changeOf l i with
  | some x => [some x.1]
  | none => (c.before g l i).map fun x => x.map (·.1)

/-- Level sets in each segment that uses them, for the modes each lane can have there (R48, R65). -/
def Vc.levelFails (c : Vc) (g : List (Nat × List Nat)) : List VFail :=
  (c.reached g).flatMap fun i =>
    let e := c.seg i
    let swing := swingLimit (minOfRat (c.periods e.rate))
    let set := levelSet (c.table secLevels) e.lset
    c.m.ownLanes.flatMap fun l =>
      need ((c.modes g l i).all fun m => levelsOk (m.bind Mode.ofCode) swing (fun _ => true) set)
        (c.bad secLevels 0x12 l e.lset)

/-- A change record changes both function and range of some lane, on some path, or is the first to name it (R64). -/
def Vc.changesBoth (c : Vc) (g : List (Nat × List Nat)) (i : Nat) : Bool :=
  (List.range 8).any fun l =>
    match c.changeOf l i with
    | none => false
    | some x => (c.before g l i).any fun p => match p with
      | none => true
      | some y => x.1 != y.1 && x.2 != y.2

/-! ### Paths that count their loops -/

/-- For each loop in force on a path, outermost first: its BEGIN, the iterations that may remain, and whether that number is
exact. -/
abbrev Loops : Type := List (Nat × Nat × Bool)

/-- The loops of a path on its way to segment `n` with loops `st`. -/
def Vc.rollLoops (c : Vc) (ls : Loops) (st : List Nat) : Loops :=
  st.zipIdx.map fun x =>
    match ls[x.2]? with
    | some y => if y.1 = x.1 then y else (x.1, (c.seg x.1).loopCount, true)
    | none => (x.1, (c.seg x.1).loopCount, true)

/-- The ways on of a path from segment `i`: loops run as often as LOOP_COUNT lets them (R122, R123). -/
def Vc.waysOn (c : Vc) (g : List (Nat × List Nat)) (i : Nat) (ls : Loops) : List (Nat × Loops) :=
  let last := ls.getLast?
  (c.hops i ((g.lookup i).getD []) (last.bind fun l => if l.2.2 then some l.2.1 else none)).1.filterMap fun h => match h with
    | .done => none
    | .back n => match last with
      | some (b, r, x) => if 1 < r then some (n, ls.dropLast ++ [(b, r - 1, x)]) else none
      | none => none
    | .go n dest => some (n, c.rollLoops ls dest)

/-- A path at the first segment. -/
def Vc.pathStart (c : Vc) (g : List (Nat × List Nat)) : Nat × Loops := (0, c.rollLoops [] ((g.lookup 0).getD []))

/-- A bound on the steps of a search through paths that is never met: a cluster has fewer segments with loop counters. A cycle
outside a loop, which R250 refuses, meets it. -/
abbrev pathFuel : Nat := 2 ^ 256

/-! ### Spacing of change records -/

/-- Where a path stands: the segment about to start, its distance, and its loops. -/
structure Walk where
  i     : Nat
  dist  : Rat
  loops : Loops
  deriving DecidableEq

/-- One step of a path. -/
def Vc.walkOn (c : Vc) (g : List (Nat × List Nat)) (w : Walk) : List Walk :=
  let dist := w.dist + (c.seg w.i).lenAt (minOfRat (c.periods (c.seg w.i).rate))
  (c.waysOn g w.i w.loops).map fun x => { i := x.1, dist, loops := x.2 }

/-- Keep the nearest of the walks that stand at one place. -/
def nearest (ws : List Walk) : List Walk :=
  ws.foldl (fun acc w =>
    if acc.any fun a => a.i == w.i && a.loops == w.loops && decide (a.dist ≤ w.dist) then acc
    else w :: acc.filter fun a => !(a.i == w.i && a.loops == w.loops)) []

/-- A segment with a change record starts less than `bound` after the walks' origin; `n` bounds their steps. -/
def Vc.tooSoon (c : Vc) (g : List (Nat × List Nat)) (bound : Rat) : Nat → List Walk → Option Nat
  | 0, _ => none
  | n + 1, ws =>
    let ws := (nearest ws).filter fun w => decide (w.dist < bound)
    match ws.find? fun w => (c.seg w.i).chg != 0 with
    | some w => some w.i
    | none => if ws.isEmpty then none else Vc.tooSoon c g bound n (ws.flatMap (c.walkOn g))

/-- The spacing of R64 after every segment with a change record: its bound and 120 ns, between start TBs. -/
def Vc.spacingFails (c : Vc) (g : List (Nat × List Nat)) : List VFail :=
  (c.reached g).flatMap fun i =>
    if (c.seg i).chg = 0 then []
    else
      let bound : Rat := if c.changesBoth g i then 120120 else 60120
      let st := (g.lookup i).getD []
      let first : Walk := { i, dist := 0, loops := st.map fun b => (b, (c.seg b).loopCount, false) }
      match c.tooSoon g bound 512 (c.walkOn g first) with
      | some j => [c.bad secSegments 0x1B 0xFF j]
      | none => []

/-! ### PLL and waveforms along paths -/

/-- A relock on some path of a die's owner (R88, R117). -/
def Vc.pllFails (c : Vc) (g : List (Nat × List Nat)) : List VFail :=
  if (imgClustersOn c.r (dieOfCluster c.k)).head? ≠ some c.k then []
  else
    let of_ (i : Nat) : Option PllSetting := (c.rates[(c.seg i).rate]?).map fun e => pllSettingOf e.pll
    (c.reached g).flatMap fun i => (c.succs g i).flatMap fun j =>
      need (match of_ i, of_ j with
        | some a, some b => a == b || ({ Pll.reset with set := a } : Pll).tracks b
        | _, _ => true) (c.bad secSegments 0x14 0xFF j)

/-- The waveform that segment `i` starts or stops on a lane: its entry (R130). -/
def Vc.waveOf (c : Vc) (l i : Nat) : Option Nat :=
  let w := (c.seg i).wset
  if w = 0 then none
  else ((waveSet (c.table secWaveforms) w)[l]?).bind fun v => if v = 0 then none else some v

/-- Waveforms along paths: the mode of a lane that a set names, and SIN_DIV against the DAC_DIV in force (R130). A lane whose
mode the image does not give passes the check of the mode (DESIGN CHOICE, unsafe, log entries 56 and 77). -/
def Vc.wavePathFails (c : Vc) (g : List (Nat × List Nat)) : List VFail :=
  (c.reached g).flatMap fun i =>
    let div := ((c.rates[(c.seg i).rate]?).map (·.dacDiv)).getD 0
    c.m.ownLanes.flatMap fun l =>
      let on := match c.waveOf l i with
        | some v => [some v]
        | none => c.reaching g (c.waveOf l) i
      need (c.waveOf l i == none || (c.modes g l i).all fun m => m == none || m == some 2 || m == some 3)
          (c.bad secWaveforms 0x1C l ((c.seg i).wset - 1))
        ++ need (on.all fun v => match v with
          | some v => v == 0xFFFF || decide (div ≤ (waveDesc (c.table secWaveforms) v).sinDiv)
          | none => true) (c.bad secWaveforms 0x1C l)

/-! ### Tokens -/

/-- What a token gives: the first vector it acts at, its word and copies (none for CONTROL), and what it counts (R114). -/
structure Span where
  first  : Nat
  word   : Nat
  copies : Nat
  cost   : Nat
  deriving DecidableEq, Repr

/-- Where the decoder stands while a token range is checked: the block, the offset in it, the vectors so far, the
CONTROL tokens that wait for a vector, the last word, whether a DICT and a TIMER_START have stood there, and what it has
found. -/
structure Cursor where
  block : Nat
  pos   : Nat
  n     : Nat
  wait  : Nat
  word  : Option Nat
  dict  : Bool := false
  timer : Bool := false
  spans : List Span
  deriving Repr

/-- What reading a token range needs: the token at an offset of a block, the size of a block (none for resident data),
the dictionary and the number of timer constants. -/
structure Source where
  tok   : Nat → Nat → Option Nat
  size  : Option Nat
  dict  : List Nat
  timers : Nat

/-- One token past the cursor: the next block from its first byte after the last byte of a buffer (R135). -/
def Cursor.skip (x : Cursor) (src : Source) (tokens : Nat) : Cursor :=
  let pos := x.pos + 2 * tokens
  match src.size with
  | some n => if pos ≥ n then { x with block := x.block + 1, pos := 0 } else { x with pos }
  | none => { x with pos }

/-- A token produces vectors: the CONTROL tokens before it act at its first vector (R113). -/
def Cursor.emit (x : Cursor) (word copies cost : Nat) : Cursor :=
  { x with
    n := x.n + copies, wait := 0, word := some word
    spans := x.spans ++ List.replicate x.wait { first := x.n, word := 0, copies := 0, cost := 1 }
      ++ [{ first := x.n, word, copies, cost }] }

/-- A token's vectors, with what follows by `go`: none may stand beyond the segment's last (R112). -/
def Source.grow (src : Source) (total : Nat) (x : Cursor) (word copies cost tokens : Nat) (go : Cursor → Nat ⊕ Cursor) :
    Nat ⊕ Cursor :=
  if x.n + copies > total then .inl 0x18 else go ((x.emit word copies cost).skip src tokens)

/-- Read tokens until `total` vectors are produced (R110 to R113); a failure's detail. `fuel` bounds the tokens. -/
def Source.walk (src : Source) (total : Nat) : Nat → Cursor → Nat ⊕ Cursor
  | 0, _ => .inl 0x18
  | fuel + 1, x =>
    if x.n = total then .inr x
    else
      match src.tok x.block x.pos with
      | none => .inl 0x18
      | some v =>
        match Token.decode v with
        | .dict copies index =>
          (match src.dict[index]? with
           | some w => Source.grow src total ({ x with dict := true }) w copies 1 1 (Source.walk src total fuel)
           | none => .inl 0x18)
        | .repeat_ copies =>
          (match x.word with
           | some w => Source.grow src total x w copies 1 1 (Source.walk src total fuel)
           | none => .inl 0x18)
        | .literal =>
          if v % 2 ^ 14 ≠ 0 then .inl 0x03
          else if src.size.any fun n => decide (x.pos + 6 > n) then .inl 0x18
          else
            match src.tok x.block (x.pos + 2), src.tok x.block (x.pos + 4) with
            | some lo, some hi => Source.grow src total x (lo + hi * 2 ^ 16) 1 3 3 (Source.walk src total fuel)
            | _, _ => .inl 0x18
        | .control op arg =>
          let x' := { x with wait := x.wait + 1, timer := x.timer || op == 2 }
          if op ≥ 7 ∨ ((op = 0 ∨ op = 1) ∧ arg ≠ 0) ∨ ((op = 3 ∨ op = 6) ∧ arg ≥ 4) then .inl 0x03
          else if op = 2 ∧ arg / 4 ≥ src.timers then .inl 0x17
          else if op = 1 then
            (if src.size.isSome then Source.walk src total fuel { x' with block := x.block + 1, pos := 0 } else .inl 0x18)
          else Source.walk src total fuel (x'.skip src 1)

/-- The dictionary of a cluster. -/
def Vc.dict (c : Vc) : List Nat := (List.range (c.count secDictionary)).map fun i => rd (c.table secDictionary) (4 * i) 4

/-- The token ranges that the resident prefix holds: offsets within the section (R236). -/
def Vc.resident (c : Vc) : Source :=
  let x := c.table secStream
  { tok := fun _ p => if p + 2 ≤ c.sram secStream then some (rd x p 2) else none
    size := none, dict := c.dict, timers := (brCounts (c.table secBranches)).2 }

/-- The token range of a RESIDENT segment. -/
def Vc.residentWalk (c : Vc) (e : SegEntry) : Nat ⊕ Cursor :=
  let base := ((c.sect secStream).map (·.sramOff)).getD 0
  c.resident.walk e.len (c.sram secStream / 2 + 2)
    { block := 0, pos := e.tokenPtr - base, n := 0, wait := 0, word := none, spans := [] }

/-- The byte at an offset of a stream buffer that holds a block. -/
def Vc.blockByte (c : Vc) (b : List SpringEntry) (p : Nat) : Option Byte :=
  (b.find? fun e => decide (e.destOff ≤ p) && decide (p < e.destOff + e.len)).map fun e =>
    c.table secStream (e.src + p - e.destOff)

/-- The blocks that a streamed range reads, as a source; `free` takes every dictionary index and timer constant for one that the
image has. -/
def Vc.streamed (c : Vc) (free : Bool) (bs : List (List SpringEntry)) : Source :=
  { tok := fun j p => (bs[j]?).bind fun b => match c.blockByte b p, c.blockByte b (p + 1) with
      | some x, some y => some (x.toNat + 256 * y.toNat)
      | _, _ => none
    size := some (0x100000 - c.fixed), dict := if free then List.replicate 4096 0 else c.dict
    timers := if free then 64 else (brCounts (c.table secBranches)).2 }

/-- Blocks taken by turns from two halves. -/
def byTurns : List (List SpringEntry) → List (List SpringEntry) → List (List SpringEntry)
  | [], _ => []
  | a :: as, bs => a :: match bs with
    | [] => []
    | b :: bs => b :: byTurns as bs

/-- The blocks that wait for the decoder on a path, by half, and the entries of the block being filled. -/
structure Blocks where
  a     : List (List SpringEntry)
  b     : List (List SpringEntry)
  fillA : List SpringEntry
  fillB : List SpringEntry
  deriving DecidableEq

/-- Plan entries queued in order (R135, R136). -/
def Blocks.queue (x : Blocks) (es : List SpringEntry) : Blocks :=
  es.foldl (fun x e =>
    match e.dest with
    | 0 => if e.last then { x with a := x.a ++ [x.fillA ++ [e]], fillA := [] } else { x with fillA := x.fillA ++ [e] }
    | 1 => if e.last then { x with b := x.b ++ [x.fillB ++ [e]], fillB := [] } else { x with fillB := x.fillB ++ [e] }
    | _ => x) x

/-- A streamed segment's range in the blocks that wait (R135): the cursor at its end, or a failure's detail. -/
def Vc.streamedWalk (c : Vc) (free : Bool) (e : SegEntry) (x : Blocks) : Nat ⊕ Cursor :=
  let inB := decide (0x100000 ≤ e.tokenPtr)
  let bs := if inB then byTurns x.b x.a else byTurns x.a x.b
  (c.streamed free bs).walk e.len (bs.length * 0x80000 + 2)
    { block := 0, pos := e.tokenPtr % 0x100000 - c.fixed, n := 0, wait := 0, word := none, spans := [] }

/-- The blocks left after a streamed range that has left `n` of them. -/
def Blocks.leave (x : Blocks) (inB : Bool) (n : Nat) : Blocks :=
  let first := (n + 1) / 2
  if inB then { x with b := x.b.drop first, a := x.a.drop (n - first) }
  else { x with a := x.a.drop first, b := x.b.drop (n - first) }

/-- The streamed ranges along every path, loops run by their counts: segment and what its walk finds. A path's state is its
segment, its loops and the blocks that wait; `n` bounds the states visited. -/
def Vc.streams (c : Vc) (free : Bool) (g : List (Nat × List Nat)) : Nat → List ((Nat × Loops) × Blocks) →
    List ((Nat × Loops) × Blocks) → List (Nat × (Nat ⊕ Cursor)) → List (Nat × (Nat ⊕ Cursor))
  | 0, _, _, out => out
  | _ + 1, [], _, out => out
  | n + 1, (p, x) :: todo, seen, out =>
    if seen.contains (p, x) then Vc.streams c free g n todo seen out
    else
      let e := c.seg p.1
      let y := x.queue ((c.plan.drop e.springFirst).take e.springCount)
      let seen := (p, x) :: seen
      let on := c.waysOn g p.1 p.2
      if e.streamed then
        let w := c.streamedWalk free e y
        let next := match w with
          | .inr z => on.map fun q => (q, y.leave (decide (0x100000 ≤ e.tokenPtr)) z.block)
          | .inl _ => []
        Vc.streams c free g n (next ++ todo) seen ((p.1, w) :: out)
      else Vc.streams c free g n (on.map (fun q => (q, y)) ++ todo) seen out

/-- The streamed ranges of a cluster, from the blocks that its prefill brings. -/
def Vc.ranges (c : Vc) (free : Bool) (g : List (Nat × List Nat)) : List (Nat × (Nat ⊕ Cursor)) :=
  let empty : Blocks := { a := [], b := [], fillA := [], fillB := [] }
  c.streams free g pathFuel [(c.pathStart g, empty.queue (c.plan.filter fun e => e.bind == bindPrefill))] [] []

/-- The token budget of R114 for what a range's tokens count. -/
def tokenBudgetOk (spans : List Span) (total vdiv : Nat) : Bool :=
  let w := min 256 total
  let top := ceilDiv (w * vdiv) 2
  (0 :: spans.map (·.first)).all fun f =>
    let a := min f (total - w)
    decide (((spans.filter fun x => decide (a ≤ x.first) && decide (x.first < a + w)).map (·.cost)).sum ≤ top)

/-- Segment `i` changes the level set on some path; the first segment sets it (R49). -/
def Vc.setsLevels (c : Vc) (g : List (Nat × List Nat)) (i : Nat) : Bool :=
  i == 0 || (c.reached g).any fun p => (c.succs g p).contains i && (c.seg p).lset != (c.seg i).lset

/-- A compare code on a strobe in the first 1.5 µs after a level-set change (R49). A lane whose mode is not known yet
counts. -/
def Vc.strobeFails (c : Vc) (g : List (Nat × List Nat)) (i : Nat) (spans : List Span) : List VFail :=
  let e := c.seg i
  let p := minOfRat (c.periods e.rate)
  if !c.setsLevels g i then []
  else c.m.ownLanes.flatMap fun l =>
    let x := timingPin (c.table secTiming) e.tset l
    let counts := x.strobe != noEvent && (c.modes g l i).any fun m => m == none || m == some 1
    need (!counts || spans.all fun s =>
      s.copies == 0 || field s.word (4 * l + 3) (4 * l + 2) == 0
        || decide (1500 ≤ (s.first : Rat) * p + (x.strobe : Rat) / 2048)) (c.bad secSegments 0x1A l i)

/-- The token checks of one segment from what reading its range has found (R49, R110 to R114). -/
def Vc.rangeFails (c : Vc) (g : List (Nat × List Nat)) (i : Nat) (w : Nat ⊕ Cursor) : List VFail :=
  match w with
  | .inl detail => [c.bad secStream detail 0xFF i]
  | .inr x =>
    let e := c.seg i
    need (tokenBudgetOk x.spans e.len (((c.rates[e.rate]?).map (·.vdiv)).getD 0)) (c.bad secStream 0x19 0xFF i)
      ++ c.strobeFails g i x.spans

/-- The end of the resident token ranges: SRAM_SIZE is this, rounded up to 64 (R236). -/
def Vc.prefixFails (c : Vc) (ws : List (Nat × (Nat ⊕ Cursor))) : List VFail :=
  let end_ := (ws.map fun w => match w.2 with
    | .inr x => x.pos
    | .inl _ => 0).foldl max 0
  let broken := ws.any fun w => match w.2 with
    | .inl _ => true
    | .inr _ => false
  need (broken || (c.sect secStream).isNone || c.sram secStream == roundUp end_ 64) (c.bad secStream 0x11)

/-- Every token range of a cluster: the resident ones of its table, the streamed ones along its paths. -/
def Vc.tokenFails (c : Vc) (g : List (Nat × List Nat)) : List VFail :=
  let res := c.segs.zipIdx.filterMap fun x =>
    if x.1.duration || x.1.streamed then none else some (x.2, c.residentWalk x.1)
  (res ++ c.ranges false g).flatMap (fun w => c.rangeFails g w.1 w.2) ++ c.prefixFails res

/-! ### Recipe load -/

/-- Samples per second that feed a recipe on lane `l` (R183). -/
def Vc.sampleRate (c : Vc) (charge : Bool) (l : Nat) : Rat :=
  if charge then 10000 else 1000000 / ((((c.m.lane[l]?).map (·.avgM1)).getD 0 + 1 : Nat) : Rat)

/-- The load of a set of open recipes, in steps per second (R183). -/
def Vc.loadOf (c : Vc) (xs : List Recipe) (open_ : List Nat) : Rat :=
  (open_.map fun i =>
    let x := xs.getD i default
    ((bitsOf x.laneMask).map fun l => ((x.nSteps + 1 : Nat) : Rat) * c.sampleRate x.charge l).sum).sum

/-- The longest time that segment `i` lasts. -/
def Vc.longTime (c : Vc) (i : Nat) : Rat := (c.seg i).lenAt (maxOfRat (c.periods (c.seg i).rate))

/-- The recipes that run in segment `i`, each with the time from the segment's start until its window opens, when `before` ran in
its predecessor (R175, R176, R183). -/
def Vc.runIn (c : Vc) (xs : List Recipe) (i : Nat) (before : List (Nat × Nat)) : List (Nat × Nat) :=
  (List.range xs.length).filterMap fun j =>
    let x := xs.getD j default
    if hasBit (c.seg i).recipes j then some (j, x.skip)
    else if x.endMode = 0 ∨ (x.endMode = 1 ∧ x.endSeg = i) then none
    else (before.lookup j).map fun w => (j, w)

/-- The recipes whose windows can be open together before segment `i` ends. -/
def Vc.openIn (c : Vc) (i : Nat) (running : List (Nat × Nat)) : List Nat :=
  (running.filter fun p => decide ((p.2 : Rat) < c.longTime i + 1)).map (·.1)

/-- What runs in the segments after segment `i`, with the time that is left then. -/
def Vc.runAfter (c : Vc) (i : Nat) (running : List (Nat × Nat)) : List (Nat × Nat) :=
  running.map fun p => (p.1, p.2 - (c.longTime i).ceil.toNat)

/-- The sets of recipes that can be open together along any path; `n` bounds the states visited. -/
def Vc.openSets (c : Vc) (g : List (Nat × List Nat)) (xs : List Recipe) :
    Nat → List ((Nat × Loops) × List (Nat × Nat)) → List ((Nat × Loops) × List (Nat × Nat)) → List (List Nat) → List (List Nat)
  | 0, _, _, out => out
  | _ + 1, [], _, out => out
  | n + 1, (p, before) :: todo, seen, out =>
    if seen.contains (p, before) then Vc.openSets c g xs n todo seen out
    else
      let now := c.runIn xs p.1 before
      let next := (c.waysOn g p.1 p.2).map fun q => (q, c.runAfter p.1 now)
      Vc.openSets c g xs n (next ++ todo) ((p, before) :: seen) (c.openIn p.1 now :: out)

/-- The largest load on any path, in steps per second (R183). -/
def Vc.load (c : Vc) (g : List (Nat × List Nat)) : Rat :=
  let xs := (List.range (c.count secRecipes)).map (recipeAt (c.table secRecipes))
  if xs.isEmpty then 0 else maxOfRat ((c.openSets g xs pathFuel [(c.pathStart g, [])] [] []).map (c.loadOf xs))

/-- The load of R183 on every path. -/
def Vc.recipeLoadFails (c : Vc) (g : List (Nat × List Nat)) : List VFail :=
  need (decide (c.load g ≤ 1000000000)) (c.bad secRecipes 0x21)

/-! ### The longest path -/

/-- Where a path leaves a loop's region to: the end, the loop's back edge, or a segment outside. -/
inductive Exit where
  | done
  | back
  | to (n : Nat)
  deriving DecidableEq, Repr

/-- Keep the longer of two lengths to one exit. -/
def addExit (es : List (Exit × Rat)) (x : Exit) (v : Rat) : List (Exit × Rat) :=
  match es.lookup x with
  | some w => if w < v then (x, v) :: es.filter fun e => e.1 != x else es
  | none => (x, v) :: es

/-- The exits of one node of a region: a segment by its own ways on, an inner loop by those of its table. -/
def Vc.nodeExits (c : Vc) (g : List (Nat × List Nat)) (inner : Nat → Option (List (Exit × Rat))) (i : Nat) :
    List (Exit × Rat) :=
  match inner i with
  | some es => es
  | none =>
    let e := c.seg i
    let len := e.lenAt (maxOfRat (c.periods e.rate))
    (c.hops i ((g.lookup i).getD [])).1.map fun h => match h with
      | .done => (.done, len)
      | .back _ => (.back, len)
      | .go n _ => (.to n, len)

/-- One pass of longest distances over the nodes of a region. -/
def relax (exits : Nat → List (Exit × Rat)) (nodes : List Nat) (ds : List (Nat × Rat)) : List (Nat × Rat) :=
  nodes.foldl (fun ds i =>
    match ds.lookup i with
    | none => ds
    | some d => (exits i).foldl (fun ds x => match x.1 with
      | .to n =>
        if nodes.contains n then
          match ds.lookup n with
          | some w => if w < d + x.2 then (n, d + x.2) :: ds.filter fun y => y.1 != n else ds
          | none => (n, d + x.2) :: ds
        else ds
      | _ => ds) ds) ds

/-- Passes until nothing changes; none where a cycle outside a loop leaves no bound (R250). -/
def relaxAll (exits : Nat → List (Exit × Rat)) (nodes : List Nat) : Nat → List (Nat × Rat) → Option (List (Nat × Rat))
  | 0, _ => none
  | n + 1, ds =>
    let ds' := relax exits nodes ds
    if nodes.all fun i => ds'.lookup i == ds.lookup i then some ds else relaxAll exits nodes n ds'

/-- The exits of a region from its entry with their longest lengths. `nodes` are the segments with just the region's
loops and the BEGINs of its inner loops. -/
def regionExits (exits : Nat → List (Exit × Rat)) (nodes : List Nat) (entry : Nat) : Option (List (Exit × Rat)) :=
  (relaxAll exits nodes (nodes.length + 2) [(entry, 0)]).map fun ds =>
    ds.foldl (fun es d => (exits d.1).foldl (fun es x => match x.1 with
      | .to n => if nodes.contains n then es else addExit es x.1 (d.2 + x.2)
      | _ => addExit es x.1 (d.2 + x.2)) es) []

/-- The table of the region with loops `st` entered at `entry`; `n` bounds the nesting. A loop runs its full LOOP_COUNT
(R250). -/
def Vc.region (c : Vc) (g : List (Nat × List Nat)) : Nat → List Nat → Nat → Option (List (Exit × Rat))
  | 0, _, _ => none
  | n + 1, st, entry =>
    let own := (c.reached g).filter fun i => g.lookup i == some st && !((c.seg i).begins && st.getLast? != some i)
    let begins := (c.reached g).filter fun i => (c.seg i).begins && g.lookup i == some (st ++ [i])
    let tables := begins.map fun b => (b, (Vc.region c g n (st ++ [b]) b).map fun es =>
      let back := (es.lookup .back).getD 0
      let more : Rat := ((c.seg b).loopCount - 1 : Nat) * back
      (es.filter fun e => e.1 != .back).map fun e => (e.1, e.2 + more))
    if tables.any fun t => t.2.isNone then none
    else
      regionExits (c.nodeExits g fun i => (tables.lookup i).bind id) (own ++ begins) entry

/-- The longest path of a cluster, rounded up to a whole ns; none where a path has no bound or no path ends (R250). -/
def Vc.longest (c : Vc) (g : List (Nat × List Nat)) : Option Nat :=
  ((c.region g 6 [] 0).bind fun es => es.lookup .done).map fun v => v.ceil.toNat

/-- DURATION against the longest path (R190, R250). -/
def Vc.durationFails (c : Vc) (g : List (Nat × List Nat)) : List VFail :=
  let d := (imgHdr c.r).duration
  need (match c.longest g with
    | some v => decide (v ≤ d)
    | none => false) (c.bad secSegments 0x22)
    ++ need (decide (d ≤ 259200000000000)) (c.bad secSegments 0x22)

/-! ### The whole verification -/

/-- What one cluster of an image fails. The checks along paths need tables whose indexes hold. -/
def Vc.fails (c : Vc) : List VFail :=
  let flat := c.sramFails ++ c.rateFails ++ c.changeFails ++ c.branchFails ++ c.segFails ++ c.setFails ++ c.recipeFails
    ++ c.waveFails ++ c.springFails
  if flat.isEmpty then
    let (g, fs) := c.graph
    if fs.isEmpty then
      c.levelFails g ++ c.timingFails ++ c.pllFails g ++ c.tokenFails g ++ c.spacingFails g ++ c.wavePathFails g
        ++ c.recipeLoadFails g ++ c.durationFails g
    else fs
  else flat

/-- Every failure of an image that the checks of R249 find. -/
def verifyFails (r : Rd) : List VFail :=
  let map := mapFails r
  if map.isEmpty then
    let cs := (bitsOf (imgHdr r).clusterMask).map (vcOf r)
    marginFails r ++ cs.flatMap Vc.fails ++ stillFails r ++ powerFails r ++ budgetFails r cs
  else map

/-- The verified loads of an image by cluster, in thousands of steps per second (R183, R192), whole ones (log entry 77). -/
def imgRedLoads (r : Rd) : List (Nat × Nat) :=
  (bitsOf (imgHdr r).clusterMask).map fun k =>
    let c := vcOf r k
    (k, (c.load c.graph.1 / 1000).floor.toNat)

/-- The result of a failing verification (R249). -/
def VFail.result (f : VFail) : BitVec 128 :=
  resultOf [(0x10, f.sect), (0x12, f.k), (0x13, f.lane), (0x14, f.entry % 2 ^ 32)]

/-! ### The checks of a load -/

/-- DICTIONARY and BRANCH_TABLE stand where streamed tokens of a cluster need them (R229). -/
def streamNeedsOk (r : Rd) (k : Nat) : Bool :=
  let c := vcOf r k
  let has (typ : Nat) : Bool := (c.sect typ).isSome
  let found (p : Cursor → Bool) : Bool := (c.ranges true c.graph.1).any fun w => match w.2 with
    | .inr x => p x
    | .inl _ => false
  (has secDictionary || !found (·.dict)) && (has secBranches || !found (·.timer))

/-- The directory rules of R228 and R229. -/
def directoryOk (r : Rd) : Bool :=
  let h := imgHdr r
  let dir := imgDir r
  dir.all (sectOk h r) && allPairs sectsApart dir && requiredOk r h dir && (bitsOf h.clusterMask).all (streamNeedsOk r)

/-- The first check of R247 that a load fails, with its answer. -/
def State.loadErr (s : State) (bytes : List Byte) (size : Nat) (units : List (BitVec 32)) : Option (Status × Nat) :=
  let r := rdOf bytes
  let h := imgHdr r
  let head := s.headErr r size ((imgDir r).all (·.reservedOk))
  if head.isSome then head
  else if !directoryOk r then some (.badArg, 0x04)
  else if sha256 (sliceBytes bytes 0x100 h.bodySize) ≠ sliceBytes bytes 0x30 32 then some (.badArg, 0x05)
  else if !dieBytesOk r units then some (.badArg, 0x06)
  else (s.signErr bytes).map fun e => (.authFail, e)

end Sys2Proof.Machine
end

