-- ==== Sys2Proof/Machine/Images.lean ====
section
/-! DEFINITION. The image commands (R246 to R253, R324) and the BULK transfers of every class 2 command (R213, R298, R299,
R313, R328). -/

namespace Sys2Proof.Machine

/-! ### BULK transfers -/

/-- What the weir decides about for BULK transfers (R213): all of them from one start, promised the end of the last
window; where there is nothing to move, that of a window without bytes. -/
def State.bulkAsk (s : State) (h : Hdr) (asks : List BulkAsk) : Ask :=
  { s0 := s.tb + 10000, horizon := some (s.weir.horizonBulk * 1000), deadline := h.deadline.toNat
    fit := fun c => match s.grants c asks s.table [] with
      | .inl x => .inl x
      | .inr gs => .inr (maxOf ((c + 20000) :: gs.map (·.stop)), gs) }

/-- Every DMA channel holds 16 accepted transfers (R209). -/
def State.dmaSlot (s : State) : Option Refuse :=
  if (List.range 8).all fun c => decide (16 ≤ s.queuedOn c) then
    some { status := .refusedSlots, detail := 0x35, required := 17, available := 16 }
  else none

/-- The accepted transfers of a command; `source` is what a load fills or a read copies. -/
def State.addBulks (s : State) (h : Hdr) (start : Tb) (gs : List Grant) (source : Nat) (host : BitVec 64) : State :=
  { s with bulks := s.bulks ++ gs.map fun g =>
      { tag := h.tag, die := g.ask.die, dir := g.ask.dir, bytes := g.ask.bytes, rate := g.rate, start, stop := g.stop
        channel := g.channel, moving := false, moved := 0, late := false, slow := false, source, host, done := false } }

/-- The transfers of a command. -/
def State.bulksOf (s : State) (tag : BitVec 12) : List Bulk := s.bulks.filter fun b => b.tag == tag


/-! ### Image slots -/

/-- The image that an IMAGE_LOAD in progress fills carries this number until its header gives its IMAGE_ID: no IMAGE_ID
reaches 2^64. -/
def loadId (n : Nat) : Nat := 2 ^ 64 + n

/-- DRAM of a die that images hold, in bytes (R209). -/
def State.usedSpace (s : State) (d : Nat) : Nat :=
  ((s.images.filter fun i => hasBit i.dieMask d).map fun i => i.units.getD d 0 * 4096).sum

/-- DRAM below the part area of a die that no image holds (R209). -/
def State.freeSpace (s : State) (d : Nat) : Nat := s.dramBelow d - s.usedSpace d

/-- The dies that an IMAGE_LOAD names. -/
def loadDies (units : List (BitVec 32)) : List Nat := (List.range 8).filter fun d => units.getD d 0 != 0

/-- A slot that an IMAGE_LOAD needs and that is not free (R209). -/
def State.imageSlot (s : State) (units : List (BitVec 32)) : Option Refuse :=
  if s.images.length ≥ 64 then some { status := .refusedSlots, detail := 0x32, required := 65, available := 64 }
  else
    match (loadDies units).find? fun d => decide (s.freeSpace d < (units.getD d 0).toNat * 4096) with
    | some d => some { status := .refusedSlots, detail := 0x33, die := d, required := s.usedSpace d / 4096 + (units.getD d 0).toNat
                       available := s.dramBelow d / 4096 }
    | none => s.dmaSlot

/-- Gaps, each a start and a length, without the part that a range takes. -/
def cutGaps (gs : List (Nat × Nat)) (u : Nat × Nat) : List (Nat × Nat) :=
  (gs.flatMap fun g =>
    let from_ := max g.1 (u.1 + u.2)
    [(g.1, min g.2 (u.1 - g.1)), (from_, g.1 + g.2 - from_)]).filter fun g => g.2 != 0

/-- The first `need` bytes of some gaps behind their first `skip` bytes. -/
def takeGaps : List (Nat × Nat) → Nat → Nat → List (Nat × Nat)
  | [], _, _ => []
  | g :: gs, skip, need =>
    if need = 0 then []
    else if g.2 ≤ skip then takeGaps gs (skip - g.2) need
    else
      let n := min need (g.2 - skip)
      (g.1 + skip, n) :: takeGaps gs 0 (need - n)

/-- The space below the part area of a die that no image holds (R30, R209). -/
def State.imageGaps (s : State) (d : Nat) : List (Nat × Nat) :=
  ((s.images.filter fun i => hasBit i.dieMask d).flatMap fun i => i.places.getD d []).foldl cutGaps [(0, s.dramBelow d)]

/-- Where an image lies on each die is the part's choice: any space below the part area that no other image holds, from a place
on that is a free value (log entries 7 and 26). -/
def State.placeImage (s : State) (units : List (BitVec 32)) : List (List (Nat × Nat)) × State :=
  (List.range 8).foldl (fun p d =>
    let (v, s) := p.2.takeFree
    let need := (units.getD d 0).toNat * 4096
    let gs := s.imageGaps d
    let spare := (gs.map (·.2)).sum - need
    (p.1 ++ [takeGaps gs (v.toNat % (spare / 4096 + 1) * 4096) need], s)) ([], s)

/-- Write bytes into ranges one after the other. -/
def putRanges : List (Nat × Nat) → List Byte → Mem → Mem
  | [], _, m => m
  | g :: gs, bs, m => putRanges gs (bs.drop g.2) (Mem.put ramByte m g.1 (bs.take g.2))

/-- The loader places a die's part of an image in that die's DRAM (R24, R247, R248). -/
def State.storePart (s : State) (i : Image) (bs : List Byte) (d : Nat) : State :=
  s.updDram d fun x => { x with mem := putRanges (i.places.getD d []) (imagePart (rdOf bs) d) x.mem }

/-- IMAGE_LOAD (R209, R213, R247, R324): the slot, the space and one BULK transfer for each die. One that names no die
still fetches the header, on die 0 (log entry 50). -/
def execImageLoad (t : Tb) (h : Hdr) (hostAddr : BitVec 64) (size : BitVec 64) (units : List (BitVec 32)) (s : State) :
    Host.Outcome State Fault Refusal :=
  let ds := loadDies units
  let asks := (if ds.isEmpty then [0] else ds).map fun d => ({ die := d, bytes := (units.getD d 0).toNat * 4096, dir := true } : BulkAsk)
  let plan (s : State) : (Status × Nat) ⊕ Plan :=
    orPlan (s.unavailable ds true <|> s.noDram ds)
      { dies := maskOf 8 ds, kind := .bulk, tab := s.table, refuse := s.imageSlot units, ask := s.bulkAsk h asks }
  .next (s.request t (.imageLoad t h hostAddr size units) plan fun s start _ gs =>
    let id := loadId s.nextImage
    let (places, s) := s.placeImage units
    let s := s.addBulks h start gs id hostAddr
    { s with
      nextImage := s.nextImage + 1
      images := s.images ++ [{ id, state := .loading, dieMask := maskOf 8 ds, bytes := [], units := units.map BitVec.toNat
                               places, duration := size.toNat, lost := 0, loads := [] }] })

/-- A load ends with an answer other than OK: its slot and space are free (R247). -/
def State.loadEnds (s : State) (tag : BitVec 12) (id : Nat) (st : Status) (detail flags cause : Nat) : State :=
  let s := { s with images := s.images.filter fun i => i.id != id }
  (s.dropBulks tag).finish tag st detail (resultOf [(0x10, flags)]) cause

/-- The header of an image is fetched and checked before its body moves (R247): the image takes its IMAGE_ID, or the load
fails. -/
def State.loadHeader (s : State) (tag : BitVec 12) (id : Nat) (header : List Byte) : State :=
  match s.image? id with
  | none => s
  | some i =>
    let r := rdOf (header.take 0x100)
    let new := (imgHdr r).id
    if id < loadId 0 then s
    else match s.headErr r i.duration true with
      | some (st, detail) => s.loadEnds tag id st detail 0 0
      | none =>
        if (s.image? new).isSome then s.loadEnds tag id .badState dImage 0 0
        else
          let s := s.updImage id fun i => { i with id := new, bytes := header.take 0x100 }
          { s with bulks := s.bulks.map fun b => if b.tag == tag then { b with source := new } else b }

/-- A transfer of an IMAGE_LOAD is complete: the checks of R247 decide its final reply, and the image is LOADED when the
last die has its part; the parts lie in the DRAM of their dies from then on. `late` are the flags and the detail of R213 and
R281. -/
def State.loadMoved (s : State) (tag : BitVec 12) (id : Nat) (data : List Byte) (late : Nat × Nat) : State :=
  match s.image? id with
  | none => s
  | some i =>
    let bytes := i.bytes.take 0x100 ++ (data.take i.duration).drop 0x100
    match s.loadErr bytes i.duration (i.units.map (BitVec.ofNat 32)) with
    | some (st, detail) => s.loadEnds tag id st detail late.1 0
    | none =>
      if (s.bulksOf tag).all (·.done) then
        let s := s.updImage id fun i =>
          { i with state := .loaded, bytes, duration := (imgHdr (rdOf bytes)).duration }
        let s := (bitsOf i.dieMask).foldl (fun s d => s.storePart i bytes d) s
        (s.dropBulks tag).finish tag .ok late.2 (resultOf [(0x10, late.1), (0x18, id)]) 0
      else s

/-- The answer of a command that an image's state forbids (R246, R324). -/
def State.imageErr (s : State) (id : Nat) (ok : IState → Bool) : Option (Status × Nat) :=
  match s.image? id with
  | none => some (.badArg, dNoSuch)
  | some i => if ok i.state then none else some (.badState, dImage)

/-- The service bound of IMAGE_VERIFY in ns (R251). -/
def verifyBound (r : Rd) : Nat :=
  1000000 + maxOf ((bitsOf (imgHdr r).dieMask).map fun d =>
    dramBytes r d + 50000 * ((imgClustersOn r d).map fun k => (segCounts (imgSegs r k)).1).sum)

/-- IMAGE_VERIFY (R246, R249, R251): the checks begin; a VERIFIED image needs none. -/
def execImageVerify (t : Tb) (h : Hdr) (id : BitVec 64) (s : State) : Host.Outcome State Fault Refusal :=
  let n := id.toNat
  let plan (s : State) : (Status × Nat) ⊕ Plan :=
    let ds := s.imgDies n
    orPlan (s.imageErr n (fun x => x == .loaded || x == .verified) <|> s.unavailable ds true <|> s.noDram ds)
      { dies := maskOf 8 ds, kind := .verify n, ask := s.timed h (s.tb + verifyBound (s.imgRd n)) }
  .next (s.request t (.imageVerify t h id) plan fun s _ _ _ =>
    if (s.image? n).any fun i => i.state == .verified then s.finish h.tag .ok 0 0 0
    else s.updImage n fun i => { i with state := .verifying })

/-- Which of several failures a verification finds first depends on how the dies search: it is left open (log entry 7). -/
def State.pickFail (s : State) (fs : List VFail) : Option VFail × State :=
  let (v, s) := s.takeFree
  (fs[v.toNat % fs.length]?, s)

/-- VERIFICATION_DONE (R246, R249): the image is VERIFIED, or LOADED again with the first failure found. What the command
answers when the image broke meanwhile is left open; it answers HW_FAULT, DRAM_LOST (log entry 38). -/
def execVerificationDone (t : Tb) (tag : BitVec 12) (s : State) : Host.Outcome State Fault Refusal :=
  let s := s.at t
  .next (match s.work? tag with
    | none => s
    | some w =>
      match w.kind with
      | .verify id =>
        if w.done.isNone ∧ (s.image? id).any (fun i => i.state == .verifying) then
          match s.pickFail (verifyFails (s.imgRd id)) with
          | (some f, s) =>
            (s.updImage id fun i => { i with state := .loaded }).finish tag .badArg f.detail f.result 0
          | (none, s) =>
            (s.updImage id fun i => { i with state := .verified, loads := imgRedLoads (s.imgRd id) }).finish tag .ok 0 0 0
        else if w.done.isNone then s.finish tag .hwFault 0x07 0 0 else s
      | _ => s)

/-- A RESULTS_READ of one of the image's runs is in progress (R324). -/
def State.imageRead (s : State) (id : Nat) : Bool :=
  s.works.any fun w => w.opcode == 0x0045 && w.done.isNone &&
    (match w.group with
     | some g => s.results.any fun x => x.group == g && x.image == id
     | none => false)

/-- IMAGE_UNLOAD (R246, R251, R324). -/
def execImageUnload (t : Tb) (h : Hdr) (id : BitVec 64) (s : State) : Host.Outcome State Fault Refusal :=
  let n := id.toNat
  let plan (s : State) : (Status × Nat) ⊕ Plan :=
    orPlan (s.imageErr n (fun x => x != .loading && x != .verifying) <|> firstErr
        [(!(s.runs.any fun r => r.image == n) && !s.imageRead n, .badState, dImage)])
      { dies := 0, ask := s.timed h (s.tb + 100000) }
  .next (s.requestNow t h (.imageUnload t h id) plan fun s =>
    (0, { s with images := s.images.filter fun i => i.id != n, results := s.results.filter fun x => x.image != n }))

/-- ISTATE (R324). -/
def IState.code : IState → Nat
  | .loading => 0
  | .loaded => 1
  | .verifying => 2
  | .verified => 3
  | .broken => 4

/-- IMAGE_QUERY (R324). What DURATION shows while the image loads is left open, so it is a free value (log entry 7). -/
def execImageQuery (t : Tb) (h : Hdr) (id : BitVec 64) (s : State) : Host.Outcome State Fault Refusal :=
  .next (s.immediate t (.imageQuery t h id) fun s =>
    match s.image? id.toNat with
    | none => ({ status := .badArg, detail := dNoSuch }, s)
    | some i =>
      let (v, s) := s.takeFree
      ({ result := resultOf [(0x10, i.state.code), (0x11, i.dieMask.toNat),
          (0x12, (s.runs.filter fun r => r.image == i.id).length),
          (0x18, if i.state == .loading then v.toNat else i.duration)] }, s))

/-! ### Reads by BULK -/

/-- CAPTURE_READ names a span that lies in written data that is not released (R155, R328). -/
def Cap.spanOk (c : Cap) (off len : Nat) : Bool :=
  decide (off + len ≤ c.ringSize) && decide ((off + c.ringSize - c.rd) % c.ringSize + len ≤ c.used)

/-- CAPTURE_READ (R213, R327, R328). -/
def execCaptureRead (t : Tb) (h : Hdr) (k : BitVec 8) (i : BitVec 8) (length : BitVec 32) (ringOff : BitVec 32)
    (hostAddr : BitVec 64) (s : State) : Host.Outcome State Fault Refusal :=
  let d := dieOfCluster k.toNat
  let plan (s : State) : (Status × Nat) ⊕ Plan :=
    let c := s.cap k.toNat i.toNat
    orPlan (s.unavailable [d] true <|> s.noDram [d] <|> firstErr
        [(c.mode != 0, .badArg, dNoSuch), (c.spanOk ringOff.toNat length.toNat, .badArg, dRange)])
      { group := s.groupOf k.toNat, dies := dieBit d, kind := .bulk, tab := s.table, refuse := s.dmaSlot
        ask := s.bulkAsk h [{ die := d, bytes := length.toNat, dir := false }] }
  .next (s.request t (.captureRead t h k i length ringOff hostAddr) plan fun s start _ gs =>
    s.addBulks h start gs (k.toNat * 2 ^ 40 + i.toNat * 2 ^ 32 + ringOff.toNat) hostAddr)

/-- The records of a run's results from channel `first` on (R328), ascending. -/
def Results.from_ (x : Results) (first count : Nat) : List ResRec :=
  (List.range count).filterMap fun j => x.recs.find? fun e => e.ch == first + j

/-- The histogram blocks of some channels as RESULTS_READ gives them (R328). -/
def HistBlock.bytes (b : HistBlock) : List Byte :=
  leBytes 2 b.ch ++ leBytes 1 b.recipe ++ leBytes 1 b.step ++ leBytes 4 0 ++ leBytes 8 b.closeTb
    ++ b.counts.flatMap fun n => leBytes 4 n

/-- The bytes of a RESULTS_READ from the dies `on` names. -/
def Results.bytes (x : Results) (hist : Bool) (first count : Nat) : List Byte :=
  (x.from_ first count).flatMap ResRec.bytes
    ++ if hist then (x.hists.filter fun b => decide (first ≤ b.ch) && decide (b.ch < first + count)).flatMap HistBlock.bytes
      else []

/-- The transfers of a RESULTS_READ: the share of each die whose DRAM serves requests. The records of a die whose DRAM is
OFFLINE come from its controller's memory (R274). -/
def State.resultAsks (s : State) (x : Results) (hist : Bool) (first count : Nat) : List BulkAsk :=
  s.dieNums.filterMap fun d =>
    let recs := (x.from_ first count).filter fun e => e.ch / 64 == d
    let hs := if hist then x.hists.filter fun b => b.ch / 64 == d && decide (first ≤ b.ch) && decide (b.ch < first + count)
      else []
    let n := 64 * recs.length + 272 * hs.length
    if n = 0 ∨ !s.dramUp d then none else some { die := d, bytes := n, dir := false }

/-- The final reply of a RESULTS_READ: the buffer, RECORDS and BYTES (R328). -/
def State.resultsDone (s : State) (tag : BitVec 12) (g : Nat) (src : Nat) (host : BitVec 64) (late : Nat × Nat) : State :=
  let hist := hasBit (BitVec.ofNat 64 src) 63
  let first := src % 2 ^ 16
  let count := src / 2 ^ 16 % 2 ^ 16
  match s.results.find? fun x => x.group == g with
  | some x =>
    let bs := x.bytes hist first count
    let n := (x.from_ first count).length
    (s.hostWrite host.toNat bs).finish tag .ok late.2 (resultOf [(0x10, late.1), (0x14, n), (0x18, bs.length)]) 0
  | none => s.finish tag .ok late.2 (resultOf [(0x10, late.1)]) 0

/-- RESULTS_READ (R188, R213, R327, R328). -/
def execResultsRead (t : Tb) (h : Hdr) (group : BitVec 8) (hist : BitVec 8) (first : BitVec 16) (count : BitVec 16)
    (runS : BitVec 64) (hostAddr : BitVec 64) (s : State) : Host.Outcome State Fault Refusal :=
  let g := group.toNat
  let on := hasBit hist 0
  let src := first.toNat + count.toNat * 2 ^ 16 + bit on * 2 ^ 63
  let plan (s : State) : (Status × Nat) ⊕ Plan :=
    match s.results.find? fun x => x.group == g && x.s == runS.toNat with
    | none => .inl (.badState, dResultsGone)
    | some x =>
      let asks := s.resultAsks x on first.toNat count.toNat
      orPlan (s.unavailable (asks.map (·.die)) false)
        { group := some g, dies := maskOf 8 (asks.map (·.die)), kind := .bulk, tab := s.table, refuse := s.dmaSlot
          ask := s.bulkAsk h asks }
  .next (s.request t (.resultsRead t h group hist first count runS hostAddr) plan fun s start _ gs =>
    if gs.isEmpty then s.resultsDone h.tag g src hostAddr (0, 0) else s.addBulks h start gs src hostAddr)

/-- FAIL_LOG_READ (R170, R213, R327, R328). -/
def execFailLogRead (t : Tb) (h : Hdr) (k : BitVec 8) (first : BitVec 32) (count : BitVec 32) (hostAddr : BitVec 64)
    (s : State) : Host.Outcome State Fault Refusal :=
  let d := dieOfCluster k.toNat
  let plan (s : State) : (Status × Nat) ⊕ Plan :=
    orPlan (s.unavailable [d] true <|> s.noDram [d])
      { group := s.groupOf k.toNat, dies := dieBit d, kind := .bulk, tab := s.table, refuse := s.dmaSlot
        ask := s.bulkAsk h [{ die := d, bytes := 16 * min count.toNat 65536, dir := false }] }
  .next (s.request t (.failLogRead t h k first count hostAddr) plan fun s start _ gs =>
    s.addBulks h start gs (k.toNat * 2 ^ 64 + first.toNat + count.toNat * 2 ^ 32) hostAddr)

/-- The entries that a fail log still holds from `first` on, at most `count` of them. -/
def FailLog.entries (f : FailLog) (first count : Nat) : List (BitVec 128) :=
  let lo := f.wr - f.kept.length
  if first < lo then (f.kept.take (first + count - lo)) else (f.kept.drop (first - lo)).take count

/-- What a read has to show when its transfers are complete (R328). -/
def State.readMoved (s : State) (w : Work) (b : Bulk) (late : Nat × Nat) : State :=
  if w.opcode = 0x0044 then
    let k := b.source / 2 ^ 40
    let i := b.source / 2 ^ 32 % 256
    let c := s.cap k i
    let bs := s.dramBytes b.die (c.ringBase + b.source % 2 ^ 32) b.bytes
    (s.hostWrite b.host.toNat bs).finish w.tag .ok late.2 (resultOf [(0x10, late.1), (0x14, b.bytes)]) 0
  else if w.opcode = 0x0045 then s.resultsDone w.tag (w.group.getD 32) b.source b.host late
  else
    let f := (s.cluster (b.source / 2 ^ 64)).flog
    let count := b.source / 2 ^ 32 % 2 ^ 32
    let es := f.entries (b.source % 2 ^ 32) (min count 65536)
    let (st, detail) : Status × Nat := if es.length < count then (.short, 0) else (.ok, late.2)
    (s.hostWrite b.host.toNat (es.flatMap fun e => leBytes 16 e.toNat)).finish w.tag st detail
      (resultOf [(0x10, late.1), (0x14, es.length), (0x18, f.wr)]) 0

/-! ### The steps of a transfer -/

/-- Change one transfer of a command. -/
def State.updBulk (s : State) (tag : BitVec 12) (d : Nat) (f : Bulk → Bulk) : State :=
  { s with bulks := s.bulks.map fun b => if b.tag == tag && b.die == d then f b else b }

/-- Where a transfer starts in its die's DRAM: an image's place, a stream's ring, the records or a fail log (R213, R261). -/
def State.bulkAddr (s : State) (w : Work) (b : Bulk) : Nat :=
  if w.opcode = 0x0020 then ((s.image? b.source).map fun i => rangeAddr (i.places.getD b.die []) 0).getD 0
  else if w.opcode = 0x0044 then (s.cap (b.source / 2 ^ 40) (b.source / 2 ^ 32 % 256)).ringBase + b.source % 2 ^ 32
  else if w.opcode = 0x0045 then s.recordAddr (64 * b.die)
  else s.logAddr (b.source / 2 ^ 64) (b.source % 2 ^ 32)

/-- A transfer that begins asks its die's controller for its accesses, metered to the rate granted (R213, R261). -/
def State.bulkRequest (s : State) (tag : BitVec 12) (b : Bulk) : State :=
  match s.work? tag with
  | some w =>
    s.dramAsk b.die { DramReq.new .host (.bulk tag) (s.bulkAddr w b) b.bytes s.tb with stays := true } (b.rate : Rat)
  | none => s

/-- BULK_TRANSFER_START (R213, R247, R298): at its start the transfer begins on its channel; one that still carries a late
transfer sends it to an idle channel, or makes it wait. `header` is what the host serves of an image's header. -/
def execBulkTransferStart (t : Tb) (tag : BitVec 12) (die : Nat) (header : List Byte) (s : State) :
    Host.Outcome State Fault Refusal :=
  let s := s.at t
  .next (match s.bulks.find? fun b => b.tag == tag && b.die == die with
    | none => s
    | some b =>
      if b.moving ∨ b.done ∨ s.tb < b.start then s
      else
        let idle (c : Nat) : Bool := !(s.bulks.any fun x => x.channel == c && x.moving && !x.done)
        let go (c : Nat) : State :=
          let s := s.updBulk tag die fun b => { b with moving := true, channel := c }
          let s := (s.updWork tag fun w => { w with moving := true }).bulkRequest tag b
          if (s.work? tag).any fun w => w.opcode == 0x0020 then s.loadHeader tag b.source header else s
        if idle b.channel then go b.channel
        else match (List.range 8).find? idle with
          | some c => go c
          | none => s.updBulk tag die fun b => { b with late := true })

/-- FINAL_FLAGS and the OK detail of a BULK command that ends now (R213, R221, R281, R313). -/
def State.bulkLate (s : State) (w : Work) : Nat × Nat :=
  let slow := (s.bulksOf w.tag).any (·.slow)
  let late := decide (w.promise < s.tb) || (s.bulksOf w.tag).any (·.late)
  (bit (slow || late), if slow then 0x04 else if late then 0x03 else 0)

/-- BULK_COMPLETE (R213, R247, R298, R328): one transfer of a command is complete; `data` is what the host served of an
image. -/
def execBulkComplete (t : Tb) (tag : BitVec 12) (die : Nat) (data : List Byte) (s : State) :
    Host.Outcome State Fault Refusal :=
  let s := s.at t
  .next (match s.work? tag, s.bulks.find? fun b => b.tag == tag && b.die == die with
    | some w, some b =>
      if !b.moving ∨ b.done then s
      else
        let s := s.updBulk tag die fun b => { b with done := true, moved := b.bytes }
        let s := { s with dma := s.dma.modify b.channel fun _ => { doneKib := b.bytes / 1024 } }
        let late := s.bulkLate w
        if w.opcode = 0x0020 then s.loadMoved tag b.source data late
        else if (s.bulksOf tag).all (·.done) then (s.readMoved w b late).dropBulks tag
        else s
    | _, _ => s)

/-- What a BULK command that ends early reports: FINAL_FLAGS and the bytes moved (R313). -/
def stopResult (opcode : BitVec 16) (flags moved wr : Nat) : BitVec 128 :=
  if opcode = 0x0044 then resultOf [(0x10, flags), (0x14, moved)]
  else if opcode = 0x0045 then resultOf [(0x10, flags), (0x14, moved / 64), (0x18, moved)]
  else if opcode = 0x0046 then resultOf [(0x10, flags), (0x14, moved / 16), (0x18, wr)]
  else resultOf [(0x10, flags)]

/-- A BULK command ends before its transfers are complete; `cause` is the event that says why, 0 for none. -/
def State.bulkStop (s : State) (w : Work) (st : Status) (detail flags moved cause : Nat) : State :=
  match s.bulksOf w.tag with
  | [] => s
  | b :: _ =>
    if w.opcode = 0x0020 then s.loadEnds w.tag b.source st detail flags cause
    else
      let wr := (s.cluster (b.source / 2 ^ 64)).flog.wr
      (s.dropBulks w.tag).finish w.tag st detail (stopResult w.opcode flags moved wr) cause

/-- BULK_DEADLINE_STOP (R313). -/
def execBulkDeadlineStop (t : Tb) (tag : BitVec 12) (moved : Nat) (s : State) : Host.Outcome State Fault Refusal :=
  let s := s.at t
  .next (match s.work? tag with
    | some w =>
      if w.kind = .bulk ∧ w.done.isNone ∧ w.deadline ≠ 0 ∧ w.deadline ≤ s.tb then
        let total := ((s.bulksOf tag).map (·.bytes)).sum
        s.bulkStop w .timeout 0x04 1 (min moved total) 0
      else s
    | none => s)

end Sys2Proof.Machine
end

