-- ==== Sys2Proof/Machine/SeqRows.lean ====
section
/-! DEFINITION. The steps of a cluster's sequencer within a segment: the branch decision (R127 to R129), tokens (R111 to
R113, R135), timers, failing vectors (R168 to R170), DAC update instants (R44, R45, R131 to R134) and the segment
watchdog (R191). -/

namespace Sys2Proof.Machine

/-! ### The branch decision -/

/-- The span H before the last vector's start at which a branch is decided (R127). -/
def decideLead (p : Rat) : Rat := max (64 * p) 48

/-- The events that the decision takes into account, and those that it does not (R127): events with their worst-case time over
by TD are seen, those from after TD are not, and `seen` says for each in between, in their order, whether clock crossing
let it be seen. -/
def splitSeen (sure td : Rat) : List Bool → List SrcEvent → List SrcEvent × List SrcEvent
  | _, [] => ([], [])
  | bs, e :: es =>
    let between := decide (sure < e.origin) && decide (e.origin ≤ td)
    let (seen, hidden) := splitSeen sure td (if between then bs.drop 1 else bs) es
    if e.origin ≤ sure ∨ between ∧ bs.headD false then (e :: seen, hidden) else (seen, e :: hidden)

/-- The first event that the decision did not take into account and that makes a late request (R128): its origin lies at or
before the segment's end, and the condition is true with it. -/
def lateEvent (b : BrEntry) (log hidden : List SrcEvent) (stop : Rat) : Option SrcEvent :=
  hidden.find? fun e => decide (e.origin ≤ stop) && b.cond log e.origin

/-- BRANCH_DECISION (R127 to R129): the result is taken at the decision clock; `seen` says which events of the uncertain span
the sequencer has seen by then. -/
def execBranchDecision (t : Tb) (k : Nat) (seen : List Bool) (s : State) : Host.Outcome State Fault Refusal :=
  let s := s.at t
  .next (match s.atSeg k .running with
    | none => s
    | some a =>
      let b := s.brAt a.r k a.e.branch
      let td := a.endAt - a.q.period - decideLead a.q.period
      let lat := s.latency k b
      if !a.e.brEn || a.q.decided.isSome || a.q.underTb.isSome || decide (s.tb < tick td) then s
      else
        let log := a.q.srcLog.filter b.watches
        let (taken, hidden) := splitSeen (td - lat) td seen log
        let clocks := a.q.since :: (taken.map SrcEvent.origin).filter fun x => decide (a.q.since ≤ x)
        let result := a.q.defer || b.cond taken td || (b.latch && clocks.any fun x => b.cond taken x)
        let unsure := log.any fun e => decide (e.origin ≤ td) && decide (td < e.origin + lat)
        let s := s.updSeq k fun q =>
          { q with
            decided := some result
            br := { branch := a.e.branch, result, uncertain := unsure, deferred := a.q.defer } }
        if a.q.defer then
          (s.updSeq k fun q =>
            { q with defer := false, deferCnt := inc32 q.deferCnt, fl := { q.fl with jumpDeferred := true } }).raise_
            { code := evJumpDeferred, tb := a.q.deferTb, locKind := 2, location := k, run := some a.r.tag,
              detail := a.q.seg + a.q.deferSeg * 2 ^ 16 }
        else if result then s
        else match lateEvent b log hidden a.endAt with
          | some e => (s.updSeq k fun q => { q with lateDone := true }).lateRequest k b a.q.seg e.origin
          | none => s)

/-! ### Vector tokens -/

/-- DICT (R110, R111): 1 to 4 vectors of a dictionary word. -/
def execDict (t : Tb) (k : Nat) (s : State) : Host.Outcome State Fault Refusal :=
  .next (s.tokenStep t k fun s a tok => match tok with
    | .dict copies index =>
      some ((s.produce k copies (BitVec.ofNat 32 (rd (s.vsramRd k) (4 * index) 4)) a).advance k 2 a)
    | _ => none)

/-- REPEAT (R111): further copies of the last vector. -/
def execRepeatTok (t : Tb) (k : Nat) (s : State) : Host.Outcome State Fault Refusal :=
  .next (s.tokenStep t k fun s a tok => match tok with
    | .repeat_ n => some ((s.produce k n a.q.word a).advance k 2 a)
    | _ => none)

/-- LITERAL (R111): one vector of the word in the two tokens that follow. -/
def execLiteral (t : Tb) (k : Nat) (s : State) : Host.Outcome State Fault Refusal :=
  .next (s.tokenStep t k fun s a tok => match tok with
    | .literal =>
      some ((s.produce k 1 (BitVec.ofNat 32 (rd (s.vsramRd k) (a.q.ptr + 2) 4)) a).advance k 6 a)
    | _ => none)

/-! ### Control tokens (R113): each acts at the start of the next vector -/

/-- The step of the control token with this operation. -/
def State.controlStep (s : State) (t : Tb) (k op : Nat) (f : State → At → Nat → State) : State :=
  s.tokenStep t k fun s a tok => match tok with
    | .control o arg => if o = op then some ((f s a arg).advance k 2 a) else none
    | _ => none

/-- NOP: no effect but that the decoder moves on. -/
def execNop (t : Tb) (k : Nat) (s : State) : Host.Outcome State Fault Refusal :=
  .next (s.controlStep t k 0 fun s _ _ => s)

/-- SWAP (R113, R135): the decoder leaves the present stream buffer; it stands in streamed data only. -/
def execSwap (t : Tb) (k : Nat) (s : State) : Host.Outcome State Fault Refusal :=
  .next (s.tokenStep t k fun s a tok => match tok with
    | .control 1 _ => if a.e.streamed then some (s.leaveBuffer k a) else some (s.advance k 2 a)
    | _ => none)

/-- A timer's level reaches the branch and trigger sources that watch it (R126, R160). -/
def State.timerLevel (s : State) (k j : Nat) (v : Bool) (origin : Rat) : State :=
  let s := s.srcEvent k 13 j origin v
  let g := s.trig k
  if g.source = 13 ∧ g.select.toNat % 4 = j then
    let (x, s) := s.crossing (tick origin) 3
    s.trigSee k x (tick origin) (some v)
  else s

/-- Change timer `j` of a cluster; TIMER[j] reads false. -/
def State.setTimer (s : State) (k j : Nat) (origin : Rat) (f : Timer → Timer) : State :=
  let was := ((s.seq k).timers.getD j default).expired
  let s := s.updSeq k fun q => { q with timers := q.timers.modify j fun m => { f m with expired := false } }
  if was then s.timerLevel k j false origin else s

/-- TIMER_START: loads timer j with a constant of the table and starts it. -/
def execTimerStart (t : Tb) (k : Nat) (s : State) : Host.Outcome State Fault Refusal :=
  .next (s.controlStep t k 2 fun s a arg =>
    let count := timerConst (s.placed a.r k secBranches) (arg / 4)
    s.setTimer k (arg % 4) a.q.nextVec fun m => { m with running := true, expiry := tick a.q.nextVec + count })

/-- TIMER_STOP: stops timer j. -/
def execTimerStop (t : Tb) (k : Nat) (s : State) : Host.Outcome State Fault Refusal :=
  .next (s.controlStep t k 3 fun s a arg =>
    s.setTimer k (arg % 4) a.q.nextVec fun m => { m with running := false })

/-- MASK_STROBE: strobes of the masked lanes count as don't care. -/
def execMaskStrobe (t : Tb) (k : Nat) (s : State) : Host.Outcome State Fault Refusal :=
  .next (s.controlStep t k 4 fun s _ arg =>
    s.updSeq k fun q => { q with strobeMask := q.strobeMask ||| BitVec.ofNat 8 arg })

/-- UNMASK_STROBE: ends MASK_STROBE for the masked lanes. -/
def execUnmaskStrobe (t : Tb) (k : Nat) (s : State) : Host.Outcome State Fault Refusal :=
  .next (s.controlStep t k 5 fun s _ arg =>
    s.updSeq k fun q => { q with strobeMask := q.strobeMask &&& ~~~(BitVec.ofNat 8 arg) })

/-- SEQ_EVENT: pulses sequencer event line e for one tick (R113, R160). -/
def execSeqEvent (t : Tb) (k : Nat) (s : State) : Host.Outcome State Fault Refusal :=
  .next (s.controlStep t k 6 fun s _ arg => s.pulseTo k 9 (arg % 4) s.tb s.tb)

/-- CLUSTER_TIMER_EXPIRY (R113): the count of timer j expires; a timer is paused while its cluster holds (R140). -/
def execClusterTimerExpiry (t : Tb) (k : Nat) (j : BitVec 2) (s : State) : Host.Outcome State Fault Refusal :=
  let s := s.at t
  let q := s.seq k
  let m := q.timers.getD j.toNat default
  .next (if q.state = .running ∧ m.running ∧ m.expiry ≤ s.tb then
      (s.updSeq k fun q => { q with timers := q.timers.modify j.toNat fun m =>
        { m with running := false, expired := true, stamp := m.expiry } }).timerLevel k j.toNat true (m.expiry : Rat)
    else s)

/-! ### Fails -/

/-- The lanes of a vector whose judged strobe fails (R54, R96, R109, R168): digital lanes with a strobe, not masked. -/
def State.failing (s : State) (a : At) (k : Nat) (above below : BitVec 8) : List Nat :=
  let pins := s.pinTimings k
  if a.q.allMasked ∨ a.q.underTb.isSome then []
  else (s.digitalLanes a.r k).filter fun l =>
    !hasBit a.q.strobeMask l && (pins.getD l default).strobe != noEvent
      && strobeFails (compareCode a.q.word l) (hasBit above l) (hasBit below l)

/-- The strobe time of lane `l` in fine units for copy `copy` of the last token (R97, R99). -/
def State.strobeTime (s : State) (a : At) (k l copy : Nat) : Rat :=
  let v := (a.q.sigma + ((a.q.vecInSeg - a.q.copies + copy : Nat) : Rat) * a.q.period) * 2048
  let e : Int := (((s.pinTimings k).getD l default).strobe : Int) + ((s.cluster k).deskew.getD l []).getD 2 0
  max ((s.die (dieOfCluster k)).pll.place v e) ((s.chan (chanOf k l)).prevStrobe + 205 * ((copy + 1 : Nat) : Rat))

/-- The die of a cluster has DRAM that takes its fail log: not OFFLINE, and not being re-formed (R273, R274). -/
def State.logKept (s : State) (k : Nat) : Bool :=
  let m := (s.die (dieOfCluster k)).dram
  m.st != .offline && !m.reforming

/-- FAIL_LOG_ENTRY (R168 to R170): copy `copy` of the last token's vectors is judged with the comparators' bits; `full`
says that the PAT to FAB FIFO has no room for its log entry. -/
def execFailLogEntry (t : Tb) (k : Nat) (copy : Nat) (above below : BitVec 8) (full : Bool) (s : State) :
    Host.Outcome State Fault Refusal :=
  let s := s.at t
  .next (match s.atSeg k .running with
    | none => s
    | some a =>
      let ls := s.failing a k above below
      match ls with
      | [] => s
      | l0 :: _ =>
        if a.q.copies ≤ copy then s
        else
          let mask := maskOf 8 ls
          let vec := a.q.vecs - a.q.copies + copy
          let time := s.strobeTime a k l0 copy
          let tb := tick (time / 2048)
          let fine := time.floor.toNat % 2048
          let s := s.updChans (fun n _ => clusterOf n == k && ls.contains (laneOf n)) fun _ c =>
            { c with meas := { c.meas with fails := inc32 c.meas.fails } }
          let s := s.updCluster k fun c =>
            { c with
              ff := if c.ff.valid then c.ff else
                { vec, tb, fine, mask, valid := true, seg := a.q.seg, above, below
                  expect := BitVec.ofNat 16
                    (((List.range 8).map fun l => compareCode a.q.word l * 2 ^ (2 * l)).sum) }
              flog := if full || !s.logKept k then { c.flog with ovf := inc32 c.flog.ovf } else c.flog.add (failEntry tb vec mask)
              seq := { c.seq with
                failSeg := c.seq.failSeg ||| mask, failRun := c.seq.failRun ||| mask, failTb := tb } }
          let s := if !full && s.logKept k then s.houseAsk (dieOfCluster k) (s.logAddr k ((s.cluster k).flog.wr - 1)) 16 else s
          let worst := (4 * (s.die (dieOfCluster k)).pll.pat).ceil.toNat + 3
          let s := ls.foldl (fun s l =>
            let x := s.strobeTime a k l copy / 2048
            let (seen, s) := s.crossing (tick x) worst
            ((s.srcEvent k 9 l x true).srcEvent k 10 l x true).pulseTo k 10 l seen (tick x)) s
          s)

/-! ### DAC update instants -/

/-- An update instant of a channel (R44, R132): the run's grid inside a run, else multiples of DIV × 10 ns. -/
def Chan.isInstant (c : Chan) (t : Tb) : Bool :=
  match c.grid with
  | some g => decide (g ≤ t) && decide ((t - g) % (c.dacDiv * 10) = 0)
  | none => decide (t % (c.dacDiv * 10) = 0)

/-- The resampler of a running channel at an update instant: a waveform that is due starts or stops, and the present one
queues its code; a missing sample is an underrun (R130 to R134, R138). -/
def State.waveInstant (s : State) (r : Run) (k n : Nat) : State :=
  let s := match (s.chan n).waveNext with
    | some (at_, v) =>
      if at_ ≤ s.tb then
        if v = 0xFFFF then s.updChan n fun c => { c with wave := none, waveNext := none }
        else match s.waveStart r k v with
          | some (w, s) => s.updChan n fun c => { c with wave := some w, waveNext := none }
          | none => (s.updChan n fun c => { c with wave := none, waveNext := none }).underrun k (s.tb : Nat) true
      else s
    | none => s
  match (s.chan n).wave with
  | some w =>
    if w.ended || w.stalled then s
    else
      let (code, w, miss, s) := s.waveStep r k w (s.chan n).dacDiv
      let s := s.updChan n fun c =>
        { c with wave := some w
                 queue := c.queue ++ [{ code := BitVec.ofNat 18 code, kind := 0, apply := true }] }
      if miss then s.underrun k (s.tb : Nat) true else s
  | none => s

/-- The first complete update group of a queue and what follows it (R44). -/
def takeGroup : List QEntry → Option (List QEntry × List QEntry)
  | [] => none
  | e :: es => if e.apply then some ([e], es) else (takeGroup es).map fun p => (e :: p.1, p.2)

/-- A channel with an update group applied (R44). -/
def Chan.applyGroup (c : Chan) (g : List QEntry) : Chan :=
  let x := c.shadow.load g
  ((({ c with shadow := x, dac := x } : Chan)).fresh (g.map (·.kind.toNat))).checkOverrange

/-- An update instant finds no complete group (R45). -/
def Chan.countEmpty (c : Chan) : Chan :=
  { c with fl := { c.fl with queueEmpty := true }, qEmpty := inc32 c.qEmpty }

/-- The queue of a channel at an update instant (R44, R45): the first complete group is applied; without one, an empty
queue is counted where a waveform plays or a group is due. -/
def Chan.takeQueue (c : Chan) : Chan :=
  match takeGroup c.queue with
  | some (g, rest) => { c.applyGroup g with queue := rest, levelDue := false }
  | none =>
    if c.levelDue || (c.wave.any fun w => !w.ended) then c.countEmpty else c

/-- A waveform plays and the queue holds no group: a refill underrun (R35, R138). -/
def Chan.starved (c : Chan) : Bool := (takeGroup c.queue).isNone && c.wave.any fun w => !w.ended

/-- Outside runs (R44, R45): a group of CHANNEL_FORCE takes effect, and so does one that a CAL_WRITE queued (R388), which a
channel that has gone still drops; without a group, an instant counts while a force command is `active`. -/
def Chan.takeIdle (c : Chan) (active : Bool) : Chan :=
  match takeGroup c.queue with
  | some (g, rest) =>
    if c.st.still && g.all (fun e => e.owner.isNone) then { c with queue := rest }
    else { c.applyGroup g with queue := rest }
  | none => if active then c.countEmpty else c

/-- An update instant at which a cluster that has underrun keeps its channels' codes: the empty queue counts where a waveform
plays (R45, R132, R139). -/
def Chan.heldInstant (c : Chan) : Chan := if c.wave.any fun w => !w.ended then c.countEmpty else c

/-- Answer the CHANNEL_FORCEs among some tags whose last lane has applied its group (R323). -/
def State.forceReplies (s : State) (tags : List (BitVec 12)) : State :=
  tags.foldl (fun s tag =>
    if s.chans.any fun c => c.forces.any (fun x => x.tag == tag) || c.queue.any (fun e => e.owner == some tag) then s
    else s.finish tag .ok 0 (resultOf [(0x10, s.tb)]) 0) s

/-- The CHANNEL_FORCEs that a channel's instant may complete: the one whose group is taken, and those that name no code. -/
def Chan.forcesTaken (c : Chan) (tb : Tb) : List (BitVec 12) :=
  ((c.forces.filter fun f => decide (f.instant ≤ tb) && f.entries.isEmpty).map HostForce.tag)
    ++ (((takeGroup (c.join tb).queue).bind fun p => p.1.head?).bind QEntry.owner).toList

/-- DAC_UPDATE_INSTANT (R44, R45, R131): channel `n` reaches its next update instant. A cluster that holds, has underrun or
is done keeps its codes (R139, R140, R142). -/
def execDacUpdateInstant (t : Tb) (n : Nat) (s : State) : Host.Outcome State Fault Refusal :=
  let s := s.at t
  let k := clusterOf n
  let c := s.chan n
  let active := !c.forces.isEmpty || c.queue.any fun e => e.owner.isSome
  let idle (s : State) : State := (s.updChan n fun c => (c.join s.tb).takeIdle active).forceReplies (c.forcesTaken s.tb)
  .next (if !s.hasChan n || !c.isInstant s.tb then s
    else match s.runOfCluster k with
      | some r =>
        if r.mapped.contains n then
          if (s.seq k).state = .running then
            if (s.seq k).underTb.isSome then s.updChan n Chan.heldInstant
            else
              let s := (s.updChan n fun c => c.join s.tb).waveInstant r k n
              if (s.seq k).underTb.isSome then s.updChan n Chan.heldInstant
              else
                let starved := (s.chan n).starved
                let s := (s.updChan n Chan.takeQueue).forceReplies (c.forcesTaken s.tb)
                if starved then s.underrun k (s.tb : Nat) true else s
          else s
        else idle s
      | none => idle s)

/-! ### The segment watchdog -/

/-- SEG_WATCHDOG (R191): the present segment has not ended after its length and margin. -/
def execSegWatchdog (t : Tb) (k : Nat) (s : State) : Host.Outcome State Fault Refusal :=
  let s := s.at t
  .next (match s.atSeg k .running with
    | none => s
    | some a =>
      let margin := (imgHdr (s.imgRd a.r.image)).margin
      if a.r.state = .ending ∨ ¬ (a.endAt + (margin : Rat) < (s.tb : Rat)) then s
      else s.fault { sev := .cluster, locKind := 2, location := k }
        { code := evSegWatchdog, tb := s.tb, locKind := 2, location := k, run := some a.r.tag, detail := a.q.seg }
        none none)

end Sys2Proof.Machine
end

