-- ==== Sys2Proof/Machine/RunRows.lean ====
section
/-! DEFINITION. The run commands (R325, R326) and the steps that start, carry on and end a run (R119 to R124, R142, R188 to
R203, R252). -/

namespace Sys2Proof.Machine

/-! ### Conditions of a start -/

/-- The lanes of a map record whose channels the host names: gang members follow their measuring lane (R76). -/
def MapRec.namedChans (m : MapRec) : List Nat := m.ownLanes.map (chanOf m.k)

/-- The gangs of a cluster as configured, on every lane of it, are exactly those of the map record, with their ranges (R76,
R230). -/
def State.gangsMatch (s : State) (m : MapRec) : Bool :=
  (List.range 8).all fun l =>
    let n := chanOf m.k l
    let want := match m.gangs.find? fun g => decide (g.1 ≤ l) && decide (l < g.1 + g.2.1) with
      | some g => ((List.range g.2.1).map (· + g.1), some g.2.2)
      | none => ([l], none)
    s.gangLanes n == want.1 && (match want.2 with
      | some range => (s.chan (chanOf m.k (want.1.headD 0))).st.range.toNat == range
      | none => !(s.chan n).st.gangMember)

/-- The level sets that a lane can use before its first change record (R65). -/
def lsetsBefore (r : Rd) (k l : Nat) : List Nat :=
  let tab := imgSegs r k
  let named (i : Nat) : Bool :=
    let e := segEntry tab i
    e.chg != 0 && ((changeRec tab e.chg).getD l { apply := false, setCode := false, mode := 0, range := 0, force := 0,
                                                   zero := true, reservedOk := true }).apply
  ((imgReach r k named).filter fun i => !named i).map fun i => (segEntry tab i).lset

/-- The level sets of R65 hold for each lane's connected mode. -/
def State.levelsFit (s : State) (r : Rd) (m : MapRec) : Bool :=
  let sets := sectRd r (findSect (imgDir r) secLevels m.k)
  m.ownLanes.all fun l =>
    (lsetsBefore r m.k l).all fun i =>
      levelsOk (some (s.chan (chanOf m.k l)).st.mode) 6 (fun _ => true) (levelSet sets i)

/-- The PLL conditions of R92 on the dies of an image for a lock group. -/
def State.clocksFit (s : State) (r : Rd) (g : Nat) : Bool :=
  let ds := diesOf (imgHdr r).dieMask
  let clustersOn (d : Nat) : Bool := !(imgClustersOn r d).isEmpty
  let used := ds.filter clustersOn
  let members := (s.membersOf g).map dieOfCluster |>.eraseDups
  let syncs := members.map fun d => (s.die d).pll.syncTb
  used.all (fun d =>
      let p := (s.die d).pll
      match imgClustersOn r d with
      | k :: _ => p.locked && p.target.isNone && p.set == pllSettingOf (imgRate r k 0).pll
      | [] => true)
    && (decide (members.length ≤ 1) || (members.all (fun d => (s.die d).pll.synced) && decide (syncs.eraseDups.length ≤ 1)))

/-- An image that makes a tracked step shares no die with another accepted run, and none of its dies is one that such a run
makes tracked steps on (R92). -/
def State.stepsFit (s : State) (r : Rd) (g : Nat) : Bool :=
  let ds := diesOf (imgHdr r).dieMask
  (s.runs.filter fun x => x.group != g).all fun x =>
    let y := s.imgRd x.image
    let both := ds.filter fun d => (diesOf (imgHdr y).dieMask).contains d
    (both.isEmpty || ds.all fun d => !imgTracks r d) && both.all fun d => !imgTracks y d

/-- No accepted run on another lock group routes a TRIG_OUT line of the image (R124). -/
def State.routesFit (s : State) (r : Rd) (g : Nat) : Bool :=
  (s.runs.filter fun x => x.group != g).all fun x =>
    ((imgHdr (s.imgRd x.image)).trigRoute &&& (imgHdr r).trigRoute) == 0

/-- R65, R76, R92, R124 and R393 for an image on a lock group: what fails first. -/
def State.startErr (s : State) (r : Rd) (g : Nat) : Option (Status × Nat) :=
  let ms := imgMap r
  let all := imgChannels r
  firstErr
    [(all.all fun n => s.connected n && !(s.chan n).faulted && !s.calOn n, .badState, dState),
     (all.all fun n => !(s.chan n).st.otDrvLive && !(s.chan n).st.otPmuLive, .badState, dOtActive),
     (ms.all s.gangsMatch, .badState, dState),
     (ms.all (s.levelsFit r), .badState, dState),
     (s.clocksFit r g, .badState, dSync),
     (s.stepsFit r g, .badState, dSync),
     (s.routesFit r g, .badState, dState)]

/-- The dies of an image run different RPS patches (R196). -/
def State.patchesEqual (s : State) (ds : List Nat) : Bool :=
  (ds.map fun d => (s.die d).rps.patchVer).eraseDups.length ≤ 1

/-! ### Commands -/

/-- The window's end of a run that promises P (R203). -/
def windowStop (p : Tb) (stretch : Bool) : Tb := if stretch then p + 100000000 else p

/-- What the weir decides about a run start (R201 to R203, R212). -/
def State.runAsk (s : State) (h : Hdr) (r : Rd) (g : Nat) (at_ : Bool) (start : Tb) : Ask :=
  let loads := imgLoads r
  let ls := startLatency loads
  let dies := diesOf (imgHdr r).dieMask
  let last := ((s.runsOf g).getLast?).map (·.p)
  let s0 := roundUp (max (s.tb + ls) (match last with | some p => p + ls | none => 0)) 1000
  let maps := imgChannels r
  let hd := imgHdr r
  { s0 := if at_ then s0 else roundUp (max s0 start) 1000
    atTb := if at_ then some start else none
    horizon := some (s.weir.horizonRun * 1000000), unit := 1000, ls, deadline := h.deadline.toNat
    fit := fun c =>
      let p := c + hd.duration + endBound r
      let stop := windowStop p hd.stretch
      match s.shortRun (s.table ++ runResv (c - ls) c stop maps loads dies) [] dies (c - ls) (some stop) with
      | some x => .inl x
      | none => .inr (p, []) }

/-- An accepted run (R197, R201). -/
def newRun (h : Hdr) (g id : Nat) (r : Rd) (start promise : Tb) : Run :=
  let hd := imgHdr r
  let loads := imgLoads r
  { tag := h.tag, inlet := h.inlet.toNat, group := g, image := id, s := start, a := start - startLatency loads
    p := promise, d := hd.duration, windowEnd := windowStop promise hd.stretch, stretch := hd.stretch
    state := .accepted, loads, mapped := imgChannels r, firstVec := 0, held := 0, holds := [], holdTb := none
    lateEnd := none, stopTb := none
    outcome := none, cause := 0, broken := false, lateUntaken := false, dramLost := false, stretched := false
    endTb := 0 }

/-- RUN_START (R65, R92, R124, R140, R196, R200 to R203). -/
def execRunStart (t : Tb) (h : Hdr) (id : BitVec 64) (group : BitVec 8) (mode : BitVec 8) (startTb : BitVec 64)
    (s : State) : Host.Outcome State Fault Refusal :=
  let g := group.toNat
  let plan (s : State) : (Status × Nat) ⊕ Plan :=
    match s.image? id.toNat with
    | none => .inl (.badArg, dNoSuch)
    | some i =>
      let r := i.rd
      let hd := imgHdr r
      let dies := diesOf hd.dieMask
      let uncal := ((imgChannels r).mergeSort (· ≤ ·)).find? fun n => !s.calValid n
      match s.unavailable dies true <|> firstErr [(i.state == .verified, .badState, dImage)] <|> s.noDram dies <|> firstErr
        [((s.group g).members != 0 && (s.group g).members == hd.clusterMask, .badState, dState)]
        <|> s.startErr r g <|> firstErr
        [(!(hd.stretch && (s.group g).span), .badState, dState),
         (s.patchesEqual dies, .badState, dPatch)] with
      | some e => .inl e
      | none =>
        let refuse : Option Refuse :=
          match (if hd.allowUncal then none else uncal) with
          | some n => some { status := .refusedUncal, detail := 0x40, required := n }
          | none =>
            if (s.runsOf g).length ≥ 4 then some { status := .refusedSlots, detail := 0x31, required := 5, available := 4 }
            else none
        .inr { group := some g, dies := hd.dieMask, refuse, kind := .run, tab := s.table
               ask := s.runAsk h r g (mode == 1) startTb.toNat
               arm := fun c => c - startLatency (imgLoads r) }
  .next (s.request t (.runStart t h id group mode startTb) plan fun s start promise _ =>
    let x := newRun h g id.toNat (s.imgRd id.toNat) start promise
    let s : State := { s with runs := s.runs ++ [x] }
    s.refreshHolds x.mapped (s.runClusters x))

/-- The accepted run of a group with a tag, or NO_SUCH (R326). -/
def State.namedRun (s : State) (group : BitVec 8) (runTag : BitVec 16) : (Status × Nat) ⊕ Run :=
  match s.runs.find? fun r => r.group == group.toNat && r.tag.toNat == runTag.toNat with
  | some r => .inr r
  | none => .inl (.badArg, dNoSuch)

/-- The plan of a RUN_STOP or RUN_ABORT. -/
def State.runPlan (s : State) (h : Hdr) (group : BitVec 8) (runTag : BitVec 16) (promise : Run → Tb)
    (kind : Run → WorkKind) : (Status × Nat) ⊕ Plan :=
  match s.namedRun group runTag with
  | .inl e => .inl e
  | .inr r => .inr { group := some group.toNat, dies := (imgHdr (s.imgRd r.image)).dieMask, kind := kind r
                     ask := s.timed h (promise r) }

/-- RUN_STOP (R142, R326). A stop of a run that is ENDING has no effect. -/
def execRunStop (t : Tb) (h : Hdr) (group : BitVec 8) (runTag : BitVec 16) (s : State) : Host.Outcome State Fault Refusal :=
  let plan (s : State) : (Status × Nat) ⊕ Plan := s.runPlan h group runTag (·.p) fun r =>
    if s.runEnding r then .endingOf r.tag else .stopOf r.tag
  .next (s.request t (.runStop t h group runTag) plan fun s _ _ _ =>
    match s.namedRun group runTag with
    | .inr r =>
      if s.runEnding r then s
      else s.updRun r.tag fun r => match r.stopTb with
        | some _ => r
        | none => { r with stopTb := some (s.tb + 10000, .ok, 0x02) }
    | .inl _ => s)

/-- RUN_ABORT (R218, R326): one that has not started is revoked, a running one is aborted. -/
def execRunAbort (t : Tb) (h : Hdr) (group : BitVec 8) (runTag : BitVec 16) (s : State) :
    Host.Outcome State Fault Refusal :=
  let plan (s : State) : (Status × Nat) ⊕ Plan := s.runPlan h group runTag (fun _ => s.tb + 400000) fun r =>
    if s.runEnding r then .endingOf r.tag else .abortOf r.tag
  .next (s.request t (.runAbort t h group runTag) plan fun s _ _ _ =>
    match s.namedRun group runTag with
    | .inr r => if s.runEnding r then s else s.hostAbort r 0
    | .inl _ => s)

/-- Code of RSTATE (R325). -/
def RState.code : RState → Nat
  | .accepted => 0
  | .arming => 1
  | .running => 2
  | .hold => 3
  | .ending => 4

/-- RUN_QUERY (R325): the run's state, the master's segment and S. -/
def execRunQuery (t : Tb) (h : Hdr) (group : BitVec 8) (runTag : BitVec 16) (s : State) :
    Host.Outcome State Fault Refusal :=
  .next (s.immediate t (.runQuery t h group runTag) fun s =>
    match s.namedRun group runTag with
    | .inl (st, e) => ({ status := st, detail := e }, s)
    | .inr r =>
      let seg := if r.started then match s.masterOf r.group with
        | some k => (s.seq k).seg
        | none => 0
      else 0
      ({ result := resultOf [(0x10, (s.rstate r).code), (0x12, seg), (0x18, r.s)] }, s))

/-! ### RUN_ARM -/

/-- The bytes of a section. -/
def sectBytes (r : Rd) (x : Sect) (n : Nat) : List Byte := (List.range n).map fun i => r (x.off + i)

/-- Vector SRAM after the loader (R115, R252): the placed sections, and zeros in the rest of both fixed areas. -/
def loadSram (r : Rd) (k fixed : Nat) (m : Mem) : Mem :=
  let m := Mem.clear (Mem.clear m 0x4000 (fixed - 0x4000)) 0x100000 fixed
  (imgDir r).foldl (fun m x =>
    if x.cluster = k ∧ ¬ imageWide x.typ ∧ x.sramOff ≠ notPlaced then
      Mem.setBytes ramByte m x.sramOff (sectBytes r x x.sramSize)
    else m) m

/-- The spring plan of a run's cluster (R136). -/
def State.springAtEntry (s : State) (r : Run) (k i : Nat) : SpringEntry := springEntry (s.placed r k secSpring) i

/-- The DRAM address that a spring entry of a run's cluster reads from (R24, R136, R238). -/
def State.springAddr (s : State) (r : Run) (k : Nat) (e : SpringEntry) : Nat :=
  match s.image? r.image with
  | some i => rangeAddr (i.places.getD (dieOfCluster k) []) (partOffset i.rd (if e.waves then secWaveforms else secStream) k + e.src)
  | none => 0

/-- SPRING_PEAK of a run on a die (R206, R241). -/
def State.springPeak (s : State) (r : Run) (d : Nat) : Nat :=
  (((imgBudget (s.imgRd r.image)).find? fun e => e.die == d).map (·.springPeak)).getD 0

/-- Spring entry `i` of a cluster asks its die's DRAM for its bytes (R136, R261). -/
def State.springAsk (s : State) (r : Run) (k i : Nat) (e : SpringEntry) (deadline : Tb) : State :=
  let d := dieOfCluster k
  s.dramAsk d { DramReq.new .spring (.run r.tag) (s.springAddr r k e) e.len s.tb with key := k * 2 ^ 16 + i, deadline, stays := true }
    (s.springPeak r d : Rat)

/-- The prefill entries of a cluster's plan. -/
def prefills (r : Rd) (k : Nat) : List Nat :=
  match findSect (imgDir r) secSpring k with
  | some x => (List.range x.count).filter fun i => (springEntry (r.from x.off) i).bind == bindPrefill
  | none => []

/-- Spring entry `i` of a cluster's plan. -/
def springOf (r : Rd) (k i : Nat) : SpringEntry :=
  match findSect (imgDir r) secSpring k with
  | some x => springEntry (r.from x.off) i
  | none => springEntry (fun _ => 0) i

/-- The samples that some entries of a plan bring to a waveform ring. -/
def ringAsked (r : Rd) (k ring : Nat) (is : List Nat) : Nat :=
  ((is.map (springOf r k)).map fun e => if e.dest = 2 ∧ e.ring = ring then e.len / 4 else 0).sum

/-- The last entry of a half's block is among some entries of a plan (R135). -/
def blockWhole (r : Rd) (k : Nat) (is : List Nat) (dest : Nat) : Bool :=
  (is.map (springOf r k)).any fun e => e.dest == dest && e.last

/-- Arm a cluster for a run (R252): vector SRAM, recipe store, level and timing sets, guard, and the prefill entries; `load` is the
verified load of its recipes (R192). -/
def armCluster (x : Run) (r : Rd) (k : Nat) (fixed load : Nat) (c : Cluster) : Cluster :=
  let dir := imgDir r
  let sect (typ : Nat) : Option Sect := findSect dir typ k
  let pre := prefills r k
  let levels := match sect secLevels with
    | some y => (List.range y.count).map (levelSet (r.from y.off))
    | none => []
  let tsets := match sect secTiming with
    | some y => (List.range y.count).map (timingSet (r.from y.off))
    | none => []
  let rings := match sect secWaveforms with
    | some y => (waveCounts (r.from y.off)).2.2
    | none => 0
  { c with
    vsram := loadSram r k fixed c.vsram
    rstore := match sect secRecipes with
      | some y => Mem.setBytes ramByte c.rstore 0 (sectBytes r y (y.count * 416))
      | none => c.rstore
    levels, tsets
    red := { c.red with load }
    seq := { c.seq with
      state := if pre.isEmpty then .armed else .idle
      group := x.group, stretch := x.stretch, owner := (imgClustersOn r (dieOfCluster k)).head? == some k
      readyA := false, readyB := false, activeHalf := false
      fillA := !blockWhole r k pre 0, fillB := !blockWhole r k pre 1
      rings := (List.range rings).map fun g => { asked := ringAsked r k g pre, written := 0, read := 0 }
      springs := pre.zipIdx.map fun p =>
        { entry := p.1, sigma := 0, issued := true, late := false
          at_ := ringAsked r k (springOf r k p.1).ring (pre.take p.2) } } }

/-- The settings of a map record (R78, R79, R144, R230): CFG, MEAS and the guard. -/
def State.armSettings (s : State) (m : MapRec) : State :=
  let s := s.updChans (fun n _ => clusterOf n == m.k && hasBit m.lanes (laneOf n)) fun n c =>
    match m.lane[laneOf n]? with
    | some x => if m.isMember (laneOf n) then { c with savedCfg := some c.cfg }
      else { c with savedCfg := some c.cfg, cfg := c.cfg.forRun (ChCfg.ofBits (BitVec.ofNat 8 x.cfg))
                    meas := c.meas.config (BitVec.ofNat 2 x.measSel) (BitVec.ofNat 16 x.avgM1) s.tb }
    | none => c
  if m.setGuard then
    s.updCluster m.k fun x => { x with guardLane := BitVec.ofNat 3 m.guard, guardSrc := hasBit (BitVec.ofNat 8 m.guard) 3 }
  else s

/-- RUN_ARM (R198, R201, R252): at A the conditions of the start are checked again; the loader writes the clusters'
memories and settings. -/
def execRunArm (t : Tb) (tag : BitVec 12) (s : State) : Host.Outcome State Fault Refusal :=
  let s := s.at t
  .next (match s.run? tag with
    | none => s
    | some x =>
      if x.state ≠ .accepted ∨ s.tb < x.a then s
      else
        let r := s.imgRd x.image
        if x.mapped.any fun n => !s.connected n || (s.chan n).faulted then (s.runFinal tag .revoked 0x04 0)
        else if (s.running x.group).isSome || (s.startErr r x.group).isSome then s.runFinal tag .revoked 0x08 0
        else
          let s := s.updClusters (fun k _ => (s.runClusters x).contains k) fun k c =>
            armCluster x r k (s.fixedSize x k) ((((s.image? x.image).map (·.loads)).getD []).lookup k |>.getD 0) c
          let s := (imgMap r).foldl State.armSettings s
          let s := (s.runClusters x).foldl (fun s k =>
            (prefills r k).foldl (fun s i => s.springAsk x k i (springOf r k i) x.s) s) s
          s.updRun tag fun x => { x with state := .arming })

/-! ### The start of a segment -/

/-- The update group of a level set: seven codes that apply together (R49). -/
def levelGroup (ls : List (BitVec 16)) : List QEntry :=
  (List.range 7).map fun i => { code := (ls.getD i 0).setWidth 18, kind := BitVec.ofNat 3 (i + 1), apply := i == 6 }

/-- The rate entry of a segment takes effect (R117, R121, R132, R133): a new setting on the owner starts a tracked step,
and a changed DAC_DIV realigns the DAC grid. -/
def State.startRate (s : State) (r : Run) (k : Nat) (e : SegEntry) (start : Rat) (first : Bool) : State :=
  let d := dieOfCluster k
  let tab := s.placed r k secSegments
  let rate := rateEntry tab e.rate
  let before := rateEntry tab (s.seq k).rate
  let changed := first || (s.seq k).rate != e.rate
  let x := pllSettingOf rate.pll
  let s := if changed && rate.own && (s.seq k).owner && (s.die d).pll.goal != x then
      s.updPll d fun p => p.track x (tick start)
    else s
  let divNew := first || (changed && before.dacDiv != rate.dacDiv)
  let g := roundUp (tick start + 30) 10
  let s := s.updChans (fun n _ => clusterOf n == k) fun n c =>
    let c := if changed then { c with dacDiv := rate.dacDiv } else c
    if divNew && r.mapped.contains n then
      { c with grid := some g, wave := c.wave.map fun w => { w with num := 0 } }
    else c
  s.updSeq k fun q => { q with rate := e.rate, period := (rate.vdiv : Rat) * (s.die d).pll.t4 }

/-- The level set of a segment is queued if it differs from the present one (R49, R121). The queue of R34 has no stated full
case: its entries wait beyond sixteen too, none is lost, and QLEVEL then shows 16 (DESIGN CHOICE, unsafe, log entry 77). -/
def State.startLevels (s : State) (r : Run) (k : Nat) (e : SegEntry) (first : Bool) : State :=
  if first || (s.seq k).lset != e.lset then
    let g := levelGroup ((s.cluster k).levels.getD e.lset [])
    (s.updChans (fun n c => clusterOf n == k && r.mapped.contains n && !c.faulted) fun _ c =>
      { c with queue := c.queue ++ g, levelDue := true }).updSeq k fun q => { q with lset := e.lset }
  else s

/-- A change named on a measuring lane is that of every lane of its gang (R76); the code is the measuring lane's. -/
def State.gangChange (s : State) (k : Nat) (x : Nat × Mode × BitVec 3 × Option (BitVec 18)) :
    List (Nat × Mode × BitVec 3 × Option (BitVec 18)) :=
  x :: ((s.gangLanes (chanOf k x.1)).filter (· != x.1)).map fun l => (l, x.2.1, x.2.2.1, none)

/-- The channel change record of a segment goes to the RPS as one request (R64); a busy context makes it late (R75). -/
def State.startChange (s : State) (r : Run) (k : Nat) (e : SegEntry) : State :=
  if e.chg = 0 then s
  else
    let live := s.liveLanes r k
    let ls := ((changeRec (s.placed r k secSegments) e.chg).zipIdx.filter fun p => p.1.apply && hasBit live p.2).map
      fun p => (p.2, (Mode.ofCode p.1.mode).getD .off, BitVec.ofNat 3 p.1.range,
        if p.1.setCode then some (BitVec.ofNat 18 p.1.force) else none)
    match ls with
    | [] => s
    | l :: _ =>
      let all := ls.flatMap (s.gangChange k)
      let (busy, s) := s.rpsChange (dieOfCluster k) (k % 8) (maskOf 8 (all.map (·.1))) (.change all (s.seq k).seg)
      if busy then s.raise_ { code := evRangeLate, tb := s.tb, locKind := 3, location := chanOf k l.1
                              run := some r.tag, detail := (s.seq k).seg }
      else s

/-- The waveform set of a segment (R130, R132): each named lane starts or stops at its first instant at or after start TB
+ 30 ns. -/
def State.startWaves (s : State) (r : Run) (k : Nat) (e : SegEntry) (start : Rat) : State :=
  if e.wset = 0 then s
  else
    let set := waveSet (s.placed r k secWaveforms) e.wset
    s.updChans (fun n c => clusterOf n == k && r.mapped.contains n && !c.faulted) fun n c =>
      let v := set.getD (laneOf n) 0
      if v = 0 then c else { c with waveNext := some (tick start + 30, v) }

/-- The markers of a segment start (R124, R28): the group's MARK lines from start TB + 3 for 8 ticks, TRIG_OUT where the
image routes them, and the members' trigger engines and sequencers. An assertion that the line merges with the one before it
is no new pulse. -/
def State.startMarks (s : State) (r : Run) (e : SegEntry) (start : Rat) : State :=
  let t := tick start + 3
  let route := (imgHdr (s.imgRd r.image)).trigRoute
  (bitsOf e.marks).foldl (fun s i =>
    let up := (s.ripple.mark.getD (r.group * 4 + i) Line.none).meets t 8
    let s := s.lineUp r.group (lnMark + i) t 8
    let p := s.ripple
    let s := if hasBit route i then
        { s with ripple := { p with trigOut := p.trigOut.modify i fun x => x.assert (t + 8) 8 } }
      else s
    if (s.group r.group).span then s
    else (s.membersOf r.group).foldl (fun s k =>
      let s := s.srcPulse k i (t : Rat) 8
      if up then s else s.pulseTo k (1 + i) 0 (t + 6) t) s) s

/-- The recipes that a segment starts (R175). -/
def State.startRecipes (s : State) (k : Nat) (e : SegEntry) (start : Rat) : State :=
  (bitsOf e.recipes).foldl (fun s i => s.startRecipe k i (tick start)) s

/-- The spring entries bound to a segment are queued (R136). -/
def State.startSprings (s : State) (k : Nat) (e : SegEntry) (start : Rat) : State :=
  s.updSeq k fun q => { q with springs := q.springs ++ (List.range e.springCount).map fun i =>
    { entry := e.springFirst + i, sigma := start, issued := false, late := false, at_ := 0 } }

/-- The loop levels at the entry of segment `n` from outside its loop (R122, R123): the levels above its depth are popped,
and a BEGIN pushes its own. -/
def SegEntry.enterLoops (x : SegEntry) (n : Nat) (ls : List LoopLevel) : List LoopLevel :=
  if x.begins then ls.take (x.depth - 1) ++ [{ begin_ := n, remain := x.loopCount }] else ls.take x.depth

/-- Segment `i` starts at an exact time (R121), in the order of the table. The first segment of a run is entered from
outside every loop. -/
def State.startSegment (s : State) (r : Run) (k i : Nat) (start : Rat) (first : Bool) : State :=
  let e := s.segAt r k i
  let s := s.updSeq k fun q =>
    { q with
      seg := i, loops := if first then e.enterLoops i [] else q.loops, prevSeg := if first then 0 else q.seg, sigma := start, since := start, vecInSeg := 0, copies := 0, ptr := e.tokenPtr
      decided := none, lateDone := false, failSeg := 0, tset := e.tset, srcLog := pruneLog q.srcLog start }
  let s := s.updCluster k fun c => { c with deskew := s.deskewTable k }
  let s := s.startRate r k e start first
  let s := s.startLevels r k e first
  let s := s.startChange r k e
  let s := s.startWaves r k e start
  let s := s.startMarks r e start
  let s := s.startRecipes k e start
  let s := s.startSprings k e start
  if e.streamed then
    let half := decide (e.tokenPtr ≥ 0x100000)
    let s := s.updSeq k fun q => { q with activeHalf := half }
    if (s.seq k).ready half then s else s.underrun k start false
  else s

/-! ### RUN_BEGIN -/

/-- The first ×4 edge at or after S on a die (R119, R469): dies of one lock group share one phase, that of the lowest. -/
def State.firstEdge (s : State) (r : Run) (ds : List Nat) (d : Nat) : Rat :=
  (s.die (if ds.length > 1 then ds.headD d else d)).pll.nextEdge r.s

/-- A cluster begins its run (R109, R113, R132, R168 to R170, R192): counters, timers, masks and logs are cleared. That SEQ_FLAGS,
SEQ_BR_LAST, the gap and the hold and resume TBs show the present run alone is the model's (DESIGN CHOICE, unsafe, log entry
77). -/
def beginCluster (c : Cluster) : Cluster :=
  { c with
    ff := FirstFail.reset
    flog := { c.flog with wr := 0, ovf := 0, full := 0, kept := [] }
    red := ({ c.red with windows := [], closes := 0, latMax := 0 }.clearExc (BitVec.allOnes 32))
    seq := { c.seq with
      state := .running, defer := false, fl := Seq.reset.fl, seg := 0, prevSeg := 0, br := Seq.reset.br, vecs := 0
      loops := [], gap := 0, timers := Seq.reset.timers, rate := 0, strobeMask := 0, allMasked := false, failSeg := 0
      failRun := 0, decided := none, lateDone := false, underTb := none, abortSeen := false, holdAt := none
      resumeAt := none, watch := [], srcLog := [], word := 0, copies := 0
      holdTb := 0, resumeTb := 0 } }

/-- RUN_BEGIN (R119, R186, R188): at S every member starts segment 0 at its die's first ×4 edge. `phase` is the phase of that clock
where its lock has left one that no run has shown yet (R469). -/
def execRunBegin (t : Tb) (tag : BitVec 12) (phase : BitVec 32) (s : State) : Host.Outcome State Fault Refusal :=
  let s := s.at t
  .next (match s.run? tag with
    | none => s
    | some x =>
      let ks := s.runClusters x
      if x.state ≠ .arming ∨ s.tb < x.s ∨ ¬ ks.all (fun k => (s.seq k).state == .armed) then s
      else
        let ds := (ks.map dieOfCluster).eraseDups
        let s := if (s.die (ds.headD 0)).pll.holdover then s
          else s.updPll (ds.headD 0) fun p => p.show_ x.s phase
        let edge (d : Nat) : Rat := s.firstEdge x ds d
        let own := imgChannels (s.imgRd x.image)
        let members := (imgMap (s.imgRd x.image)).flatMap fun m =>
          ((bitsOf m.lanes).filter m.isMember).map (chanOf m.k)
        let recs := (own.filter fun n => !members.contains n).map fun n => ResRec.init n x.s
        let clear := (imgHdr (s.imgRd x.image)).clearCharge
        let s : State := { s with results := (s.results.filter fun y => y.group != x.group) ++
          [{ group := x.group, s := x.s, image := x.image, recs, hists := [] }] }
        let s := s.updRun tag fun x =>
          { x with state := .running, firstVec := maxOf (ds.map fun d => (edge d).ceil.toNat) }
        let s := s.updClusters (fun k _ => ks.contains k) fun _ c => beginCluster c
        let s := s.updChans (fun n _ => x.mapped.contains n) fun n c =>
          let v := edge (n / 64) * 2048
          { c with
            drive := offState c.cfg.termEn, override := none, wave := none, waveNext := none, queue := []
            faulted := false, meas := { c.meas with fails := 0 }
            lastEdge := v - 1000000, lastStrobe := v - 1000000, prevStrobe := v - 1000000 }
        let s := if clear then s.updChans (fun n _ => own.contains n) fun _ c =>
            { c with meas := { c.meas with clearAt := some (roundUp x.s 100000) } } else s
        ks.foldl (fun s k => s.startSegment x k 0 (edge (dieOfCluster k)) true) s)

/-! ### SEGMENT_START -/

/-- The outcome of R123 at the end of a segment: the next segment and the loop levels, or none for DONE. A level is pushed
when a BEGIN is entered from outside its loop; levels above the next segment's depth are popped (R122). -/
def nextSegment (tab br : Rd) (e : SegEntry) (i : Nat) (loops : List LoopLevel) (result : Bool) :
    Option (Nat × List LoopLevel) :=
  let enter (n : Nat) (ls : List LoopLevel) : Option (Nat × List LoopLevel) :=
    some (n, (segEntry tab n).enterLoops n ls)
  let fall (ls : List LoopLevel) : Option (Nat × List LoopLevel) :=
    match e.endAction with
    | 0 => enter (i + 1) ls
    | 1 => enter e.next ls
    | _ => none
  let loop : Option (Nat × List LoopLevel) :=
    if e.ends then
      match loops.getLast? with
      | some l =>
        if l.remain > 1 then
          some (if e.loopOp = 3 then i else e.loopBegin, loops.dropLast ++ [{ l with remain := l.remain - 1 }])
        else fall loops.dropLast
      | none => fall []
    else fall loops
  if e.brEn then
    let b := brEntry br e.branch
    let t := if result then b.targetT else b.targetF
    if t = targetDone then none else if t = targetLoop then loop else enter t loops
  else loop

/-- A cluster is done: a deferred request still pending is lost (R129, R142). -/
def State.pathDone (s : State) (r : Run) (k : Nat) (stop : Rat) : State :=
  let pending := (s.seq k).defer
  let s := if pending then
      (s.updSeq k fun q => { q with defer := false, dropCnt := inc32 q.dropCnt }).updRun r.tag fun r =>
        { r with lateUntaken := true }
    else s
  (s.clusterDone k (tick stop)).updRun r.tag fun r => { r with endTb := max r.endTb (tick stop) }

/-- A stop of the run takes effect at a boundary that the master reaches (R142, R401): every member is done. A deferred
request of R129 that is still pending then is neither counted as dropped nor cleared: SEQ_FLAGS and DEFER_SEG go on showing it
(DESIGN CHOICE, unsafe, log entry 77). -/
def State.stopAll (s : State) (r : Run) (stop : Rat) (st : Status) (detail : BitVec 8) : State :=
  let s := s.updRun r.tag fun r => r.decide st detail r.cause false
  (s.runClusters r).foldl (fun s k =>
    if (s.seq k).state = .done then s
    else (s.clusterDone k (tick stop)).updRun r.tag fun r => { r with endTb := max r.endTb (tick stop) }) s

/-- The end of a segment whose cluster has not underrun (R123, R142, R175): a stop that waits takes effect at the master,
else the next segment starts. -/
def State.endSegment (s : State) (k : Nat) (a : At) : State :=
  let stop := a.endAt
  let due := match a.r.stopTb with
    | some (tb, st, detail) => if s.masterOf a.r.group = some k ∧ (tb : Rat) ≤ stop then some (st, detail) else none
    | none => none
  match due with
  | some (st, detail) => s.stopAll a.r stop st detail
  | none =>
    let next := nextSegment (s.placed a.r k secSegments) (s.placed a.r k secBranches) a.e a.q.seg a.q.loops
      (a.q.decided.getD false)
    let late := a.e.brEn && a.q.decided == some false && !a.q.lateDone
    let open_ (w : Rat × Nat × Nat) : Bool := decide (stop ≤ w.1 + s.latency k (s.brAt a.r k w.2.1))
    let s := s.updSeq k fun q =>
      { q with watch := q.watch.filter open_ ++ if late then [(stop, a.e.branch, a.q.seg)] else [] }
    match next with
    | none => s.pathDone a.r k stop
    | some (i, loops) =>
      let ends (w : RWindow) : Bool :=
        let x := s.recipe k w.recipe
        x.endMode == 0 || (x.endMode == 1 && x.endSeg == i)
      let s := s.closeWindows k ends (tick stop)
      (s.updSeq k fun q => { q with loops }).startSegment a.r k i stop false

/-- SEGMENT_START (R119, R121 to R124, R139): the present segment of cluster `k` ends; a segment with a branch slot needs
its decision. -/
def execSegmentStart (t : Tb) (k : Nat) (s : State) : Host.Outcome State Fault Refusal :=
  let s := s.at t
  .next (match s.atSeg k .running with
    | none => s
    | some a =>
      if s.tb < tick a.endAt then s
      else match a.q.underTb with
        | some _ => if a.r.state = .ending then s else s.abortGroup a.r.group .hwFault 0x05 a.q.underSeq
        | none => if a.e.brEn && a.q.decided.isNone then s else s.endSegment k a)

/-! ### The end of a run -/

/-- RUN_END (R142, R183, R184, R188): every member is done and the last samples have arrived; the last close passes run
and the final reply is formed. -/
def execRunEnd (t : Tb) (tag : BitVec 12) (s : State) : Host.Outcome State Fault Refusal :=
  let s := s.at t
  .next (match s.run? tag with
    | none => s
    | some r =>
      if r.started && (s.runClusters r).all (fun k => (s.seq k).state == .done && s.passesReady k)
          && decide (r.endTb ≤ s.tb) then
        let olds := (s.runClusters r).map fun k => (k, (s.red k).flags)
        let s := s.runClose tag
        (olds.foldl (fun s p => s.flagEvents p.1 p.2) s).endClusterHandlings
      else s)

/-- The ticks that a run has spent in holds by a TB, the hold in progress among them (R190, R203). -/
def Run.heldBy (r : Run) (tb : Tb) : Nat := r.held + (match r.holdTb with | some h => tb - h | none => 0)

/-- RUN_LIMIT (R190): a run is not done at its first vector + duration + holds, or 72 h after its first vector. -/
def execRunLimit (t : Tb) (tag : BitVec 12) (s : State) : Host.Outcome State Fault Refusal :=
  let s := s.at t
  .next (match s.run? tag with
    | none => s
    | some r =>
      let ended := decide (r.firstVec + r.d + r.heldBy s.tb ≤ s.tb) || decide (r.firstVec + 72 * 3600 * 10 ^ 9 ≤ s.tb)
      let done := (s.runClusters r).all fun k => (s.seq k).state == .done
      if r.started && r.state != .ending && ended && !done then s.abortGroup r.group .timeout 0x02 0 else s)

/-- RIPPLE_ABORT (R26, R93, R142): cluster `k` of an aborting run has seen ABORT and stops at its vector boundary. -/
def execRippleAbort (t : Tb) (k : Nat) (s : State) : Host.Outcome State Fault Refusal :=
  let s := s.at t
  .next (match s.runOfCluster k with
    | none => s
    | some r =>
      let line := s.ripple.abort.getD r.group Line.none
      let aborted := r.state = .ending ∧ r.outcome.isSome ∧ line.len > 0 ∧ r.s ≤ line.at_ ∧ line.at_ + 6 ≤ s.tb
      if aborted then
        let s := s.updSeq k fun q => { q with defer := false }
        if (s.die (dieOfCluster k)).pll.holdover then s.clusterStop r k else s.clusterAbort r k 1 (faultEnd r.result)
      else s)

end Sys2Proof.Machine
end

