-- ==== Sys2Proof/Machine/Services.lean ====
section
/-! DEFINITION. The host services: identity and summary (R320, R321, R334, R335), the host watch (R317), events, patches
and registers (R331 to R333), the fetch of descriptors (R215, R299, R308) and the states of the endpoint (R280 to
R282). -/

namespace Sys2Proof.Machine

/-! ### Identity and status -/

/-- Bytes held to a length: cut, or padded with zeros. -/
def fixLen (n : Nat) (bs : List Byte) : List Byte := bs.take n ++ List.replicate (n - bs.length) 0

/-- The number of set bits of a mask. -/
def popCount {w : Nat} (m : BitVec w) : Nat := (bitsOf m).length

/-- Installed DRAM of a die in GiB (R255, R321): 0 until its devices have identified themselves. -/
def Dram.installed (x : Dram) : Nat := if x.st = .init then 0 else dramGib x.ranksM1 x.density

/-- LINK_STATE (R291). -/
def State.linkWord (s : State) : Nat := (wordAt s.partWords 0x101C).toNat

/-- A die's entry of the identity block (R321). -/
def State.dieIdent (s : State) (d : Nat) : List Byte :=
  let x := s.die d
  let m := x.dram
  let known := m.st != .init
  leBytes 1 x.st.code ++ leBytes 1 (m.stateWord.toNat % 256) ++ leBytes 1 m.density.toNat
    ++ leBytes 1 (if known then 1 + bit m.ranksM1 else 0) ++ leBytes 2 m.installed ++ leBytes 2 0
    ++ leBytes 4 x.rps.patchVer.toNat ++ leBytes 2 (popCount (s.calValidMask d)) ++ leBytes 2 0

/-- The identity block (R321). -/
def State.identBlock (s : State) : List Byte :=
  fixLen 256 (leBytes 2 0x1F3C ++ leBytes 2 s.model.device.toNat
    ++ leBytes 1 s.model.mask.toNat ++ leBytes 1 s.dieMask.toNat ++ leBytes 1 0xB0 ++ leBytes 1 s.boot.stage.toNat
    ++ leBytes 4 s.boot.fwVersion.toNat ++ leBytes 2 s.ident.subVendor.toNat ++ leBytes 2 s.ident.subId.toNat
    ++ leBytes 8 s.otp.serial.toNat ++ leBytes 4 s.linkWord ++ leBytes 4 s.serial.sizeMib.toNat
    ++ (List.range 8).flatMap s.dieIdent
    ++ leBytes 1 (bit s.ident.signing + 16 * s.ident.keyMask.toNat))

/-- IDENTIFY (R320, R321): the identity block goes to the host before the reply. -/
def execIdentify (t : Tb) (h : Hdr) (hostAddr : BitVec 64) (s : State) : Host.Outcome State Fault Refusal :=
  .next (s.immediate t (.identify t h hostAddr) fun s =>
    ({ result := resultOf [(0x10, s.model.mask.toNat), (0x11, s.dieMask.toNat), (0x12, 0xB0),
        (0x13, s.boot.stage.toNat), (0x14, s.boot.fwVersion.toNat), (0x18, s.otp.serial.toNat)] },
     if hostAddr = 0 then s else s.hostWrite hostAddr.toNat s.identBlock))

/-- GET_STATUS (R320): FETCH_MAX is read without clearing. -/
def execGetStatus (t : Tb) (h : Hdr) (s : State) : Host.Outcome State Fault Refusal :=
  .next (s.immediate t (.getStatus t h) fun s =>
    ({ result := resultOf [(0x10, s.boot.part.code), (0x11, s.boot.stage.toNat), (0x12, s.heldCount % 2 ^ 16),
        (0x14, s.pci.fetchMax), (0x18, s.tb % 2 ^ 64)] }, s))

/-! ### The summary -/

/-- The header of the summary (R335). -/
def State.sumHeader (s : State) : List Byte :=
  fixLen 64 (leBytes 2 1 ++ leBytes 1 s.boot.part.code ++ leBytes 1 s.boot.resetCause ++ leBytes 2 s.boot.epoch.toNat
    ++ leBytes 2 s.heldCount ++ leBytes 8 s.tb ++ leBytes 8 s.boot.readyTb ++ leBytes 4 s.boot.fwVersion.toNat
    ++ leBytes 1 s.model.mask.toNat ++ leBytes 1 s.dieMask.toNat ++ leBytes 1 s.boot.stage.toNat
    ++ leBytes 1 (bit s.ev.hostLost + 2 * bit s.ev.watch)
    ++ leBytes 2 s.tags.length ++ leBytes 1 (s.images.filter fun i => i.state != .loading).length ++ leBytes 1 (s.runs.filter Run.started).length
    ++ leBytes 4 s.pci.fetchMax)

/-- A die's entry of the summary (R335); its reservations are those at SNAP_TB. -/
def State.sumDie (s : State) (tab : List Resv) (d : Nat) : List Byte :=
  let x := s.die d
  let m := x.dram
  let res (v : Nat) : List Byte := leBytes 2 (satTo 16 v)
  fixLen 32 (leBytes 1 x.st.code ++ leBytes 1 (x.pll.statusWord.toNat % 128)
    ++ leBytes 1 (m.st.code + 4 * bit m.reforming + 8 * bit m.retraining) ++ leBytes 1 m.sizeGib
    ++ leBytes 1 x.thm.st.code ++ leBytes 1 0 ++ leBytes 2 x.thm.tj.toNat
    ++ res x.loadCap ++ res (s.powerAt tab [] d s.tb).ceil.toNat ++ res x.bwCap ++ res x.springCap
    ++ res (bwAt tab d s.tb) ++ res (springAt tab d s.tb)
    ++ leBytes 4 x.rps.patchVer.toNat ++ leBytes 8 x.thm.tjTb)

/-- GFLAGS of a lock group (R335). -/
def State.groupFlags (s : State) (g : Nat) : Nat :=
  let busy (k : Nat) : Bool :=
    let st := (s.trig k).state
    st == .armed || st == .holdoff || st == .rearm
  bit (s.group g).span + 2 * bit ((s.membersOf g).any busy)

/-- A run's entry of the summary (R335). -/
def State.sumRun (s : State) (r : Run) : List Byte :=
  leBytes 2 r.tag.toNat ++ leBytes 1 r.inlet ++ leBytes 1 (s.rstate r).code ++ leBytes 8 r.image ++ leBytes 8 r.s
    ++ leBytes 8 r.p

/-- A lock group's entry of the summary (R335): MASTER as LOCK_GROUP_QUERY gives it. -/
def State.sumGroup (s : State) (g : Nat) : List Byte :=
  let rs := s.runsOf g
  fixLen 128 (leBytes 8 (s.group g).members.toNat ++ leBytes 1 ((s.masterOf g).getD 0xFF)
    ++ leBytes 1 (s.groupFlags g) ++ leBytes 1 (s.group g).slot ++ leBytes 1 rs.length ++ leBytes 4 0
    ++ rs.flatMap s.sumRun)

/-- A ring's entry of the summary (R335). -/
def sumRing (index held : Nat) (enable stopped : Bool) (reserved : Nat) : List Byte :=
  leBytes 2 index ++ leBytes 2 held ++ leBytes 1 (bit enable + 2 * bit stopped) ++ leBytes 1 0 ++ leBytes 2 reserved

/-- The entries of the rings (R335). -/
def State.sumRings (s : State) : List Byte :=
  ((List.range 16).flatMap fun i => sumRing (s.inlet i).index.toNat 0 (s.inlet i).enable (s.inlet i).stopped 0)
    ++ ((List.range 16).flatMap fun o =>
        sumRing (s.outlet o).index.toNat (s.outlet o).held.length (s.outlet o).enable false (s.reservedOn o))
    ++ sumRing s.evRing.index.toNat s.evRing.held.length s.evRing.enable false 0

/-- IMAGE_ID as the summary shows it. What it shows of an image whose header is still being loaded is left open, so it is
a free value (log entry 7). -/
def State.shownId (s : State) (i : Image) : Nat × State :=
  if 2 ^ 64 ≤ i.id then
    let (v, s) := s.takeFree
    (v.toNat, s)
  else (i.id, s)

/-- The entries of the image slots, in load order (R335). -/
def State.sumImages (s : State) : List Byte × State :=
  s.images.foldl (fun (p : List Byte × State) i =>
    let (id, s') := p.2.shownId i
    let n := (s.runs.filter fun r => r.image == i.id).length
    (p.1 ++ leBytes 8 id ++ leBytes 1 i.state.code ++ leBytes 1 i.dieMask.toNat ++ leBytes 1 n ++ leBytes 5 0, s'))
    ([], s)

/-- The tags in flight as 512 bytes (R334). -/
def State.sumTags (s : State) : List Byte :=
  (List.range 512).map fun j =>
    let on := s.tags.filter fun u => u.tag.toNat / 8 == j
    maskOf 8 (on.map fun u => u.tag.toNat % 8)

/-- The summary (R334), and the state in which its free values are used. -/
def State.summary (s : State) : List Byte × State :=
  let tab := s.table
  let (imgs, s') := s.sumImages
  (fixLen 8192 (s.sumHeader ++ (List.range 8).flatMap (s.sumDie tab) ++ (List.range 32).flatMap s.sumGroup ++ s.sumTags
    ++ s.sumRings ++ leBytes 2 s.ev.queue.length ++ leBytes 2 0 ++ leBytes 4 s.ev.ovfCnt ++ leBytes 8 s.ev.posted
    ++ (List.range 8).flatMap (fun d => leBytes 8 (s.calValidMask d).toNat) ++ imgs), s')

/-- RESYNC (R334): the summary goes to the host before the reply. -/
def execResync (t : Tb) (h : Hdr) (hostAddr : BitVec 64) (s : State) : Host.Outcome State Fault Refusal :=
  .next (s.immediate t (.resync t h hostAddr) fun s =>
    let (bs, s) := s.summary
    ({ result := resultOf [(0x10, s.tb % 2 ^ 64), (0x18, 8192)] }, s.hostWrite hostAddr.toNat bs))

/-! ### Events and the host watch -/

/-- EVENT_CONFIG (R317, R318, R331): a watch that is turned on counts from now. -/
def execEventConfig (t : Tb) (h : Hdr) (minSev watch hostLoss : BitVec 8) (s : State) :
    Host.Outcome State Fault Refusal :=
  .next (s.immediate t (.eventConfig t h minSev watch hostLoss) fun s =>
    ({}, s.updEv fun v =>
      { v with
        minSev := hasBit minSev 0, watch := hasBit watch 0, hostLoss := hostLoss.toNat
        lastSign := if v.watch then v.lastSign else s.tb }))

/-- HEARTBEAT (R317): a sign of life. -/
def execHeartbeat (t : Tb) (h : Hdr) (s : State) : Host.Outcome State Fault Refusal :=
  .next (s.immediate t (.heartbeat t h) fun s => ({}, s.hostSign))

/-- EVENT_QUERY (R331). -/
def execEventQuery (t : Tb) (h : Hdr) (s : State) : Host.Outcome State Fault Refusal :=
  .next (s.immediate t (.eventQuery t h) fun s =>
    ({ result := resultOf [(0x10, s.ev.queue.length), (0x14, s.ev.ovfCnt), (0x18, s.ev.posted)] }, s))

/-- HOST_WATCH_TIMEOUT (R317): 100 ms have passed without a sign of life. -/
def execHostWatchTimeout (t : Tb) (s : State) : Host.Outcome State Fault Refusal :=
  let s := s.at t
  .next (if s.ev.watch && !s.ev.hostLost && decide (s.ev.lastSign + 100000000 ≤ s.tb) then
      let (seq, s) := (s.updEv fun v => { v with hostLost := true }).raise
        { code := evHostLost, tb := s.tb, detail := s.ev.hostLoss }
      let s := if s.ev.hostLoss = 0 then s else s.disconnectUnheld
      if s.ev.hostLoss = 2 then s.hostAbortAll seq else s
    else s)

/-! ### Class 3 commands -/

/-- The resource of class 3 commands that use the serial port or the flash (R217); every die is a resource of its own. -/
abbrev flashRes : BitVec 9 := 0x100

/-- The bounds of the accepted class 3 commands ahead on a resource, in ns (R217). -/
def State.ahead3 (s : State) (res : BitVec 9) : Nat :=
  (s.works.map fun w => if w.done.isSome then 0 else match w.kind with
    | .class3 r b _ => if r &&& res = 0 then 0 else b
    | _ => 0).sum

/-- An accepted class 3 command without a final reply uses a resource (R217). -/
def State.busy3 (s : State) (res : BitVec 9) : Bool :=
  s.works.any fun w => w.done.isNone && (match w.kind with
    | .class3 r _ _ => r &&& res != 0
    | _ => false)

/-- The slot limit of class 3 commands (R209). -/
def State.bgSlot (s : State) : Option Refuse :=
  if 16 ≤ (s.works.filter fun w => w.cls == 3 && w.done.isNone).length then
    some { status := .refusedSlots, detail := 0x34, required := 17, available := 16 }
  else none

/-- The plan of a class 3 command (R209, R217): while an earlier one uses its resource it waits. -/
def State.plan3 (s : State) (h : Hdr) (c : Instr) (res : BitVec 9) (bound : Nat) (dies : BitVec 8) : Plan :=
  { dies, refuse := s.bgSlot, ask := s.timed h (s.tb + s.ahead3 res + bound)
    kind := .class3 res bound (if s.busy3 res then some c else none) }

/-! ### Patches and registers -/

/-- A sequence of the RPS is in progress on some die (R332). -/
def State.rpsBusy (s : State) : Bool := s.dieNums.any fun d => (s.die d).rps.ctxs.any fun c => c.cur.isSome

/-- The dies that a patch is loaded into: those that are present and reachable (R332). -/
def State.patchAll (s : State) : Bool × State :=
  (bitsOf s.dieMask).foldl (fun (p : Bool × State) d =>
    let (ok, s) := p.2.patchDie d
    (p.1 && ok, s.rpsPump d)) (true, s)

/-- PATCH_APPLY at its turn (R332, R430, R431). -/
def State.runPatch (s : State) (h : Hdr) : State :=
  let (ok, s) := s.patchAll
  let res := resultOf [(0x10, (s.die 0).rps.patchVer.toNat)]
  if ok then s.finish h.tag .ok 0 res 0 else s.finish h.tag .hwFault 0x08 res 0

/-- PATCH_QUERY (R331). -/
def execPatchQuery (t : Tb) (h : Hdr) (s : State) : Host.Outcome State Fault Refusal :=
  .next (s.immediate t (.patchQuery t h) fun s =>
    ({ result := resultOf [(0x10, (s.die 0).rps.patchVer.toNat), (0x14, s.patchDiffer.toNat)] }, s))

/-- The detail of a register access that ends with a status (R3, R316, R333). -/
def State.regDetail (s : State) (a : Nat) (st : Status) : Nat :=
  match st with
  | .badArg => if a / 2 ^ 37 < 8 ∧ s.hasDie (a / 2 ^ 37) = false then dAbsent else dRange
  | .notAvailable => 0x02
  | _ => 0

/-- REG_READ (R287 to R289, R333): its latches are its own; the words go to the host, or into the reply. -/
def execRegRead (t : Tb) (h : Hdr) (addr : BitVec 64) (count snap : BitVec 8) (hostAddr : BitVec 64) (s : State) :
    Host.Outcome State Fault Refusal :=
  .next (s.immediate t (.regRead t h addr count snap hostAddr) fun s =>
    let (st, ws, n, _, s) := s.burstRead [] addr.toNat count.toNat
    let a : Answer := { status := st, detail := s.regDetail addr.toNat st }
    if st = .ok ∨ st = .short then
      let inline_ := if hostAddr = 0 then (List.range 3).map fun j => (0x14 + 4 * j, (ws.getD j 0).toNat) else []
      ({ a with result := resultOf ((0x10, n) :: inline_) },
       if hostAddr = 0 then s else s.hostWrite hostAddr.toNat (ws.flatMap fun w => leBytes 4 w.toNat))
    else (a, s))

/-- REG_WRITE (R289, R333). -/
def execRegWrite (t : Tb) (h : Hdr) (addr : BitVec 64) (count : BitVec 8) (words : List Word) (s : State) :
    Host.Outcome State Fault Refusal :=
  .next (s.immediate t (.regWrite t h addr count words) fun s =>
    let (st, n, s) := s.burstWrite addr.toNat words
    let a : Answer := { status := st, detail := s.regDetail addr.toNat st }
    (if st = .ok ∨ st = .short then { a with result := resultOf [(0x10, n)] } else a, s))

/-! ### The fetch of descriptors -/

/-- A descriptor that is answered as soon as it is fetched (R308, R311): its reply holds no tag. -/
def State.answerFetched (s : State) (i : Nat) (r : Rd) (dbTb : Tb) (st : Status) (detail : Nat) : State :=
  (s.noteDecision dbTb (rd r 3 1)).post i
    { opcode := BitVec.ofNat 16 (rd r 0 2), status := st, detail := BitVec.ofNat 8 detail
      tag := BitVec.ofNat 12 (rd r 4 2), epoch := s.boot.epoch, tb := s.tb, result := 0 } false 0

/-- What becomes of a fetched descriptor (R308, R309): answered at once where a check of its header or its tag fails,
else it waits in the inlet for its decision, its tag in flight. -/
def State.place (s : State) (i : BitVec 4) (bytes : List Byte) (payload : Option (List Byte)) (dbTb : Tb) : State :=
  let r := rdOf bytes
  let op := rd r 0 2
  if !s.boot.ready && op != 1 && op != 2 then s.answerFetched i.toNat r dbTb .notAvailable 0x01
  else match readDescr i r (payload.map rdOf) with
    | .inl e => s.answerFetched i.toNat r dbTb .badArg e
    | .inr d =>
      if s.tagBusy d.h.tag then
        match s.descErr d d.bare false with
        | some (st, e) => s.answerFetched i.toNat r dbTb st e
        | none => s
      else
        (s.useTag d.h.tag d.cls).updInlet i.toNat fun x =>
          { x with slot := some { cmd := d.bare, dbTb, fence := d.h.fence } }

/-- DESCRIPTOR_FETCH (R31, R215, R308): a fetch that took `ns`. -/
def execDescriptorFetch (t : Tb) (i : BitVec 4) (bytes : List Byte) (payload : Option (List Byte)) (ns : Nat)
    (s : State) : Host.Outcome State Fault Refusal :=
  let s := s.at t
  let n := i.toNat
  .next (if s.turn n then
      ((s.consume n).fetched ns).place i bytes payload ((s.inlet n).announced.headD s.tb)
    else s)

/-! ### Failed reads and the endpoint's states -/

/-- A BULK transfer of a command that is in progress. -/
def State.movingBulk (s : State) (tag : BitVec 12) : Option Bulk :=
  s.bulks.find? fun b => b.tag == tag && b.moving && !b.done

/-- A BULK command whose transfer is in progress ends with HW_FAULT (R280, R282, R299). How much had moved is left open,
so it is a free value up to the command's size (log entry 7). A load whose die loses its DRAM is revoked instead (R247). -/
def State.bulkBreak (s : State) (w : Work) (detail cause : Nat) : State :=
  let total := ((s.bulksOf w.tag).map (·.bytes)).sum
  let (v, s) := s.takeFree
  if w.opcode = 0x0020 ∧ detail = 0x07 then s.bulkStop w .revoked 0x01 (s.bulkLate w).1 0 cause
  else s.bulkStop w .hwFault detail (s.bulkLate w).1 (v.toNat % (total + 1)) cause

/-- Every BULK command with a transfer in progress ends with HW_FAULT, detail HOST_DMA (R280, R282). -/
def State.breakAll (s : State) : State :=
  (s.works.filter fun w => w.done.isNone && (s.movingBulk w.tag).isSome).foldl (fun s w => s.bulkBreak w 0x06 0) s

/-- HOST_DMA_FAIL (R299). For a payload, `bytes` is the descriptor that names it; how long its fetch took is open (log
entry 16). -/
def execHostDmaFail (t : Tb) (what : DmaRead) (bytes : List Byte) (s : State) : Host.Outcome State Fault Refusal :=
  let s := s.at t
  .next (match what with
    | .descriptor i =>
      let n := i.toNat
      if s.turn n then
        let s := s.misc .dmaErr
        if (s.inlet n).retried then s.stopInlet n else s.updInlet n fun x => { x with retried := true }
      else s
    | .payload i =>
      let n := i.toNat
      if s.turn n && (hdrOf i (rdOf bytes)).indirect then
        let dbTb := (s.inlet n).announced.headD s.tb
        let (v, s) := s.takeFree
        ((s.misc .dmaErr).consume n |>.fetched (v.toNat % (s.tb - dbTb + 1))).place i bytes none dbTb
      else s
    | .bulk tag =>
      match s.work? tag, s.movingBulk tag with
      | some w, some b => if b.dir && w.done.isNone then (s.misc .dmaErr).bulkBreak w 0x06 0 else s
      | _, _ => s)

/-- D3HOT_ENTRY (R280): the replies that result are held. -/
def execD3hotEntry (t : Tb) (s : State) : Host.Outcome State Fault Refusal :=
  let s := s.at t
  .next (if s.pci.d3hot then s
    else ((s.updPci fun p => { p with d3hot := true }).hostAbortAll 0).breakAll)

/-- RETURN_TO_D0 (R280, R296): held replies go. -/
def execReturnToD0 (t : Tb) (s : State) : Host.Outcome State Fault Refusal :=
  let s := s.at t
  .next (if s.pci.d3hot then (s.updPci fun p => { p with d3hot := false }).flushAll else s)

/-- INTERFACE_RESET (R282, R303): the configuration space at its defaults, every ring disabled, the aperture at 0, every
vector masked, PTM off, and transfers in progress ended; work goes on. -/
def execInterfaceReset (t : Tb) (s : State) : Host.Outcome State Fault Refusal :=
  let s := s.at t
  let off (r : Ring) : Ring := { r with enable := false }
  let s : State := { s with
    inlets := s.inlets.map fun r => { r with enable := false }
    outlets := s.outlets.map off
    evRing := off s.evRing }
  .next (({ s with ptm := { s.ptm with enable := false } } : State).updPci fun p =>
    { p with
      d3hot := false, l1 := false, aspmL1 := false, apBaseLo := 0, apBaseHi := 0, maskAll := BitVec.allOnes 64 }).breakAll

/-- LINK_CHANGE (R281): the negotiated width or speed changes; the event and the cause bit say so, and what no longer
fits the host link is revoked. -/
def execLinkChange (t : Tb) (width : BitVec 6) (speed : BitVec 3) (s : State) : Host.Outcome State Fault Refusal :=
  let s := s.at t
  .next (if s.pci.width = width.toNat ∧ s.pci.speed = speed.toNat then s
    else
      let s := s.updPci fun p => { p with width := width.toNat, speed := speed.toNat, l1 := false }
      ((s.misc .link).raise_
        { code := evLinkChange, tb := s.tb, detail := width.toNat + 256 * speed.toNat }).linkFell)

end Sys2Proof.Machine
end

