-- ==== Sys2Proof/Machine/SerialRows.lean ====
section
/-! DEFINITION. The serial port at work (R352 to R373): the flash engine with its pieces, read-back, back-off and timeouts,
the NVM commands (R330, R363), the journal (R366), and the slave with its board-management frames (R368 to R371). -/

namespace Sys2Proof.Machine

/-! ### The flash engine -/

/-- The bus is free for the master: no foreign select and no slave select (R356, R369). -/
def Serial.busFree (x : Serial) : Bool := !x.mmfLive && !x.slvActive

/-- Change the flash operation in hand. -/
def State.updOp (s : State) (f : FlashOp → FlashOp) : State :=
  s.updSerial fun x => { x with ops := x.ops.modify 0 f }

/-- The flash operation in hand ends with a final reply; what it leaves in the flash stays. -/
def State.endOp (s : State) (st : Status) (detail : Nat) (res : BitVec 128) : State :=
  match s.serial.ops with
  | [] => s
  | o :: rest =>
    (s.updSerial fun x => { x with ops := rest, busy := false, attempt := 0 }).finish? o.tag st detail res 0

/-- The operation in hand sends its next program or erase, or reads, once the bus is free and no journal record waits
(R349, R356, R366, R369). -/
def State.goOp (s : State) : State :=
  match s.serial.ops with
  | [] => s
  | o :: _ =>
    if !s.serial.busFree || !s.ev.jobs.isEmpty then s.updSerial fun x => { x with busy := false }
    else if o.kind = 3 then
      (s.hostWrite o.host.toNat (s.flashBytes o.addr o.total)).endOp .ok 0 (resultOf [(0x14, o.total)])
    else (s.updSerial fun x => { x with busy := true }).updOp fun o => { o with begun := true, started := s.tb }

/-- Give the flash an operation of a class 3 command (R217). -/
def State.startOp (s : State) (o : FlashOp) : State := (s.updSerial fun x => { x with ops := x.ops ++ [o] }).goOp

/-- The first byte of a span that differs from what was to be written (R363). -/
def State.mismatch (s : State) (addr : Nat) (whole : List Byte) : Option Nat :=
  ((s.flashBytes addr whole.length).zip whole).findIdx? fun p => p.1 != p.2

/-- An NVM_WRITE has programmed its last piece: read back and compared (R363). -/
def State.writeDone (s : State) (o : FlashOp) : State :=
  let start := o.addr + o.data.length - o.whole.length
  match s.mismatch start o.whole with
  | none => s.endOp .ok 0 (resultOf [(0x14, o.whole.length)])
  | some i => (s.updSerial fun x => { x with verifyFail := true }).endOp .hwFault 0x0A (resultOf [(0x14, i)])

/-- Sub-operations of a commit: the erases, the pages and the header (R391). -/
def FlashOp.steps (o : FlashOp) (pg : Nat) : Nat :=
  let body := o.data.length - 64
  16 * (body / 65536) + 1 + ceilDiv body pg + 1

/-- A commit ends without its header (R392): a header that was written is erased again. -/
def State.commitFails (s : State) (o : FlashOp) (header : Bool) : State :=
  let s := if header then s.flashErase o.addr 4096 else s
  s.endOp .hwFault 0x0A 0

/-- The header of a commit is in the flash: its slot is valid and in force (R391). -/
def State.commitDone (s : State) (o : FlashOp) : State :=
  let slot := if o.addr = calBase 0 then 0 else 1
  let seq := fieldAt o.data (o.data.length - 64 + 8) 4
  let s : State := { s with cal :=
    { inForce := slot, aOk := s.cal.aOk || slot == 0, bOk := s.cal.bOk || slot == 1, sequence := BitVec.ofNat 32 seq } }
  s.endOp .ok 0 (resultOf [(0x10, slot), (0x14, seq)])

/-- One program or erase of a commit is complete (R391, R392): a page is read back, and one that differs ends the commit.
A commit that is to stop ends here. -/
def State.commitStep (s : State) (o : FlashOp) (erase : Bool) (a : Nat) (bs : List Byte) : State :=
  let header := o.total + 1 == o.steps s.serial.page
  let s := if o.total = 0 then { s with cal :=
      { s.cal with aOk := s.cal.aOk && a != calBase 0, bOk := s.cal.bOk && a != calBase 1 } } else s
  if !erase && (s.mismatch a bs).isSome then
    (s.updSerial fun x => { x with verifyFail := true }).commitFails o header
  else if o.stop then s.commitFails o header
  else if header then s.commitDone o
  else (s.updOp fun o => { o with total := o.total + 1 }).goOp

/-- The program or erase in hand is complete: its effect on the flash, and what follows (R361, R363, R391). -/
def State.opStep (s : State) : State :=
  match s.serial.ops with
  | [] => s
  | o :: _ =>
    let (erase, a, bs) := o.cur s.serial.page
    let s := if erase then s.flashErase a 4096 else s.flashProgram a bs
    let s := (s.updSerial fun x => { x with attempt := 0 }).updOp fun o => { o with begun := false }
    match o.kind with
    | 0 =>
      let o' := { o with addr := o.addr + bs.length, data := o.data.drop bs.length }
      if o'.data.isEmpty then s.writeDone o' else (s.updOp fun o => { o with addr := o'.addr, data := o'.data }).goOp
    | 1 =>
      if o.total ≤ 4096 then s.endOp .ok 0 0
      else (s.updOp fun o => { o with addr := o.addr + 4096, total := o.total - 4096 }).goOp
    | _ => s.commitStep o erase a bs

/-- FLASH_OP_DONE (R361): a poll finds the flash idle. -/
def State.flashDone (s : State) : State := if s.serial.busy && s.serial.busFree then s.opStep else s

/-- The operation in hand fails (R356, R361, R372): what a program or erase in progress leaves is undefined; a commit
whose header may stand in the flash erases it again (R392). -/
def State.opFails (s : State) : State :=
  match s.serial.ops with
  | [] => s
  | o :: _ =>
    let s := s.tear
    if o.kind = 2 then s.commitFails o (o.total + 1 == o.steps s.serial.page && o.begun)
    else if o.kind = 0 then
      let start := o.addr + o.data.length - o.whole.length
      s.endOp .hwFault 0x0A (resultOf [(0x14, (s.mismatch start o.whole).getD o.whole.length)])
    else s.endOp .hwFault 0x0A 0

/-- MMF (R356): a select line that the part does not drive reads low; the transaction in progress is released, and after the
eighth attempt the operation fails. -/
def State.foreign (s : State) : State :=
  let was := s.serial
  let s := s.updSerial fun x =>
    { x with mmf := true, mmfLive := true, mmfCnt := inc32 x.mmfCnt, mmfTb := s.tb, busy := false }
  match was.ops with
  | [] => s
  | o :: _ =>
    if !was.busy then s
    else
      let s := if o.mmf then s else s.raise_ { code := evFlashMmf, tb := s.tb }
      if was.attempt ≥ 8 then s.opFails
      else (s.updOp fun o => { o with mmf := true }).updSerial fun x => { x with attempt := x.attempt + 1 }

/-- Back-off before attempt `a` in ns (R356). -/
def backoffNs (a : Nat) : Nat := 100000 * 2 ^ (a - 1)

/-- MMF_BACKOFF_EXPIRY (R356): every select has read high for the back-off; an interrupted program or erase is retried only
when a status read shows the flash idle. -/
def State.backoff (s : State) (idle : Bool) : State :=
  let x := s.serial
  if !x.mmfLive then s
  else if x.attempt = 0 then (s.updSerial fun x => { x with mmfLive := false }).goOp
  else if s.tb < x.mmfTb + backoffNs x.attempt ∨ ¬ idle then s
  else (s.updSerial fun x => { x with mmfLive := false }).goOp

/-- XIP_TIMEOUT (R361, R372): a program is still busy 5 ms after its command, an erase after SP_ERASE_MAX; or an operation is
kept waiting past its promise by the slave. -/
def State.xipLate (s : State) : State :=
  match s.serial.ops with
  | [] => s
  | o :: _ =>
    let (erase, _, _) := o.cur s.serial.page
    let limit := if erase then s.serial.eraseMax * 1000 else 5000000
    if s.serial.busy && decide (o.started + limit ≤ s.tb) then
      (s.updSerial fun x => { x with xipTo := true }).opFails
    else
      let past := (o.tag.bind s.work?).any fun w => decide (w.promise < s.tb)
      if s.serial.slvActive && past then s.opFails else s

/-- SP_SLV_SEL_N_FALL (R368, R369): the slave is selected; a master transaction is preempted, unless the opcode of its program
or erase has been sent. -/
def State.slaveFall (s : State) (opcodeSent : Bool) : State :=
  let x := s.serial
  if x.slvActive then s
  else s.updSerial fun x =>
    { x with
      slvActive := true, slvRdy := true, busy := false
      slvPreempt := if x.busy && !opcodeSent then inc32 x.slvPreempt else x.slvPreempt }

/-- SP_SLV_SEL_N_RISE (R368, R369): the period ends, an incomplete word is discarded, and the master goes on. -/
def State.slaveRise (s : State) (partialWord : Bool) : State :=
  if s.serial.slvActive then
    let s := s.updSerial fun x =>
      { x with slvActive := false, slvRdy := false, slvFraming := x.slvFraming || partialWord }
    s.goOp
  else s

/-- SP_SLV_SEL_N_FALL (R368, R369). -/
def execSpSlvSelNFall (t : Tb) (opcodeSent : Bool) (s : State) : Host.Outcome State Fault Refusal :=
  .next ((s.at t).slaveFall opcodeSent)

/-- JOURNAL_APPEND (R349, R366, R372): the oldest J event is appended; it waits for a page program in progress and for the
bus, and suspends an erase. -/
def State.appendJob (s : State) : State :=
  let program := match s.serial.ops with
    | [] => false
    | o :: _ => s.serial.busy && !(o.cur s.serial.page).1
  match s.ev.jobs with
  | [] => s
  | e :: rest =>
    if program || !s.serial.busFree then s
    else
      let s := (s.updEv fun v => { v with jobs := rest }).journalPut e
      if s.serial.busy then s.updOp fun o => { o with started := s.tb } else s.goOp

/-! ### NVM commands -/

/-- Bytes per ns of the present mode (R363). -/
def Serial.rate (x : Serial) : Rat :=
  (4 : Rat) / (max 1 x.div.toNat : Nat) * ((2 ^ x.dataW.toNat : Nat) : Rat) / 8 * (if x.ddr then 2 else 1)

/-- Time to move `n` bytes twice, in ns (R363). -/
def Serial.twice (x : Serial) (n : Nat) : Rat := 2 * (n : Rat) / x.rate

/-- Bound of an NVM_READ in ns (R363). -/
def Serial.readBound (x : Serial) (len : Nat) : Nat := 100000 + (x.twice len).ceil.toNat

/-- Pieces of a write (R361, R363). -/
def Serial.pieces (x : Serial) (off len : Nat) : Nat := (off + len - 1) / x.page - off / x.page + 1

/-- Bound of an NVM_WRITE in ns (R363). -/
def Serial.writeBound (x : Serial) (off len : Nat) : Nat :=
  let n : Rat := ((x.pieces off len : Nat) : Rat)
  100000 + (n * (5010000 + x.twice x.page) + x.twice len).ceil.toNat

/-- Bound of an NVM_ERASE in ns (R363). -/
def Serial.eraseBound (x : Serial) (len : Nat) : Nat := 100000 + len / 4096 * (x.eraseMax * 1000 + 10000)

/-- The firmware slot in use and, while signing is on, the identity area are not written (R362). -/
def State.regionLocked (s : State) (off len : Nat) : Bool :=
  let base := fwBase s.boot.fwSlot
  touches off len base (base + 0x800000) || (s.ident.signing && touches off len 0x1000000 0x1010000)

/-- A flash operation without data. -/
def FlashOp.plain (kind addr total : Nat) (tag : BitVec 12) : FlashOp :=
  { tag := some tag, kind, addr, data := [], total, started := 0, whole := [], host := 0, begun := false, mmf := false
    stop := false }

/-- NVM_READ at its turn (R363). -/
def State.runNvmRead (s : State) (h : Hdr) (off len : BitVec 32) (hostAddr : BitVec 64) : State :=
  s.startOp { FlashOp.plain 3 off.toNat len.toNat h.tag with host := hostAddr }

/-- NVM_WRITE at its turn (R361, R363): the data that the host serves. -/
def State.runNvmWrite (s : State) (h : Hdr) (off len : BitVec 32) (data : List Byte) : State :=
  let bs := fixLen len.toNat data
  s.startOp { FlashOp.plain 0 off.toNat 0 h.tag with data := bs, whole := bs }

/-- NVM_ERASE at its turn (R363). -/
def State.runNvmErase (s : State) (h : Hdr) (off len : BitVec 32) : State :=
  s.startOp (FlashOp.plain 1 off.toNat len.toNat h.tag)

/-- NVM_STATUS (R330). -/
def execNvmStatus (t : Tb) (h : Hdr) (s : State) : Host.Outcome State Fault Refusal :=
  .next (s.immediate t (.nvmStatus t h) fun s =>
    ({ result := resultOf [(0x10, bit s.serial.busy + 2 * bit s.serial.mmf), (0x14, s.serial.sizeMib.toNat),
        (0x18, s.serial.jWritten)] }, s))

/-! ### Board-management frames -/

/-- The bytes of a word, the most significant first (R368, R370). -/
def wordBytes (w : Word) : List Nat := (List.range 4).map fun i => w.toNat / 256 ^ (3 - i) % 256

/-- The CRC-8 of a frame (R370): the header without its lowest byte, then the arguments. -/
def frameCrc (h : Word) (args : List Word) : Nat := crc8 ((wordBytes h).take 3 ++ args.flatMap wordBytes)

/-- A reply frame (R370): its header, the status word with its count, and what follows. -/
def replyFrame (h : Word) (st : Status) (sdetail count : Nat) (ws : List Word) : List Word :=
  let args := packWord [(0, st.code), (8, sdetail), (16, count)] :: ws
  let hd := packWord [(8, args.length), (16, h.toNat / 2 ^ 16 % 256), (24, h.toNat / 2 ^ 24 % 16), (28, 0xD)]
  (hd ||| BitVec.ofNat 32 (frameCrc hd args)) :: args

/-- SDETAIL codes (R370). -/
abbrev sdCrc : Nat := 1
abbrev sdOverflow : Nat := 2
abbrev sdFraming : Nat := 3
abbrev sdOp : Nat := 4

/-- A die's word of the STATUS and THERMAL replies (R371). -/
def State.slaveDie (s : State) (d : Nat) : Word :=
  let x := s.die d
  packWord [(0, x.st.code), (8, x.thm.st.code), (16, x.thm.tj.toNat)]

/-- What an OP answers (R371): status, count, words and the state afterwards. -/
def State.slaveOp (s : State) (op : Nat) (args : List Word) : Status × Nat × List Word × State :=
  let bad : Status × Nat × List Word × State := (Status.badArg, 0, [], s)
  let ok (ws : List Word) : Status × Nat × List Word × State := (Status.ok, ws.length, ws, s)
  if !s.boot.ready && 2 ≤ op then (Status.notAvailable, 0, [], s)
  else match op, args with
    | 0, _ => if args.length ≤ 61 then ok args else bad
    | 1, [] =>
      ok ([s.boot.statusWord, wordAt s.partWords 0x1000, s.boot.fwVersion] ++ (List.range 8).map s.slaveDie)
    | 2, [a, b] =>
      let count := b.toNat / 256 % 256
      if count = 0 ∨ 60 < count then bad
      else
        let (st, ws, n, _, s) := s.burstRead [] (a.toNat + 2 ^ 32 * (b.toNat % 256)) count
        (st, n, ws, s)
    | 3, [m] => if (bitsOf (m.setWidth 8 : BitVec 8)).all s.hasDie then ok ((bitsOf (m.setWidth 8)).map s.slaveDie) else bad
    | 4, [m] =>
      let s := s.disconnectUnheld
      (Status.ok, 0, [], if hasBit m 0 then s.hostAbortAll 0 else s)
    | _, _ => bad

/-- The reply goes into the CTL to SER FIFO (R370, R371): the board controller has read the one before. -/
def State.slaveReply (s : State) (ws : List Word) : State := s.updSerial fun x => { x with slvOut := ws }

/-- A frame of OP `op` reaches the firmware (R368, R370, R371): words past the 64 of the FIFO are dropped, idle words are
discarded, and a frame that fails a check is answered with the check's SDETAIL. A frame with a reserved OP has no row of its
own, so any of the five stands for it (log entry 44). -/
def State.slaveFrame (s : State) (op : Nat) (words : List Word) : State :=
  let x := s.serial
  match words.dropWhile fun w => w.toNat / 2 ^ 28 == 0 with
  | [] => s
  | h :: args =>
    let opOf := h.toNat / 2 ^ 24 % 16
    let count := h.toNat / 256 % 256
    let fail (e : Nat) : List Word := replyFrame h .badArg e 0 []
    if !x.slvActive || decide (s.boot.stage.toNat < 0x10) || h.toNat / 2 ^ 28 != 0xB || (opOf != op && decide (opOf < 5)) then
      s
    else if 64 < words.length then
      (s.updSerial fun x => { x with slvOvf := add32 x.slvOvf (words.length - 64) }).slaveReply (fail sdOverflow)
    else if args.length ≠ count ∨ 62 < count then s.slaveReply (fail sdFraming)
    else if frameCrc h args ≠ h.toNat % 256 then s.slaveReply (fail sdCrc)
    else if 5 ≤ opOf then s.slaveReply (fail sdOp)
    else
      let (st, n, ws, s) := s.slaveOp opOf args
      s.slaveReply (replyFrame h st 0 n ws)

/-- SLV_ECHO (R371). -/
def execSlvEcho (t : Tb) (words : List Word) (s : State) : Host.Outcome State Fault Refusal :=
  .next ((s.at t).slaveFrame 0 words)

/-- SLV_STATUS (R371). -/
def execSlvStatus (t : Tb) (words : List Word) (s : State) : Host.Outcome State Fault Refusal :=
  .next ((s.at t).slaveFrame 1 words)

/-- SLV_REG_READ (R289, R333, R371). -/
def execSlvRegRead (t : Tb) (words : List Word) (s : State) : Host.Outcome State Fault Refusal :=
  .next ((s.at t).slaveFrame 2 words)

/-- SLV_THERMAL (R371). -/
def execSlvThermal (t : Tb) (words : List Word) (s : State) : Host.Outcome State Fault Refusal :=
  .next ((s.at t).slaveFrame 3 words)

/-- SLV_STILL (R371). -/
def execSlvStill (t : Tb) (words : List Word) (s : State) : Host.Outcome State Fault Refusal :=
  .next ((s.at t).slaveFrame 4 words)

end Sys2Proof.Machine
end

