-- ==== Sys2Proof/Machine/CalRows.lean ====
section
/-! DEFINITION. Calibration commands (R330, R381 to R393): reading and writing calibration RAM, the steps that measure its
coefficients, and the commit of a slot. -/

namespace Sys2Proof.Machine

/-- CAL_STATUS (R330, R390). -/
def execCalStatus (t : Tb) (h : Hdr) (s : State) : Host.Outcome State Fault Refusal :=
  .next (s.immediate t (.calStatus t h) fun s =>
    let slot := if s.cal.inForce = 3 then 0xFF else s.cal.inForce
    let count := ((List.range 8).map fun d => popCount (s.calValidMask d)).sum
    ({ result := resultOf [(0x10, slot), (0x14, s.cal.sequence.toNat), (0x18, count)] }, s))

/-! ### Save and restore -/

/-- The channel blocks of a die that a span of its calibration RAM touches (R377). -/
def blocksOf (off len : Nat) : List Nat :=
  (List.range 64).filter fun i => decide (off < calBlock i + 0x200) && decide (calBlock i < off + len)

/-- The bound of a CAL_READ or CAL_WRITE in ns (R387). -/
def calBound (off len : Nat) : Nat := 100000 + len + 5000 * (blocksOf off len).length

/-- An accepted run holds a channel or a cluster of a die (R197). -/
def State.dieHeld (s : State) (d : Nat) : Bool :=
  ((List.range 64).any fun i => s.held (64 * d + i)) || (List.range 8).any fun i => s.clusterHeld (8 * d + i)

/-- What keeps a CAL_WRITE from a span (R387). -/
def State.calWriteErr (s : State) (d off len : Nat) : Option (Status × Nat) :=
  let ns := (blocksOf off len).map (64 * d + ·)
  firstErr
    [((ns.all fun n => !s.held n) && (decide (0x100 ≤ off) || !s.dieHeld d), .badState, dHeld),
     (ns.all fun n => !(s.chan n).st.rpsBusy, .badState, dState)]

/-- CAL_READ at its turn (R387). -/
def State.runCalRead (s : State) (h : Hdr) (d off len : Nat) (hostAddr : BitVec 64) : State :=
  (s.hostWrite hostAddr.toNat (Mem.bytes ramByte (s.die d).cal off len)).finish h.tag .ok 0 (resultOf [(0x14, len)]) 0

/-- A channel's present force and level codes as one update group (R388). -/
def Chan.presentGroup (c : Chan) : List QEntry := forceGroup 0xFF (c.dac.force.setWidth 32) c.dac.levels

/-- CAL_WRITE at its turn (R381, R387, R388): the touched channels that are connected and not held apply their codes again
under the new coefficients. -/
def State.runCalWrite (s : State) (h : Hdr) (d off len : Nat) (data : List Byte) : State :=
  let s := (s.holdAna d).updDie d fun x => { x with cal := Mem.setBytes ramByte x.cal off (fixLen len data) }
  let ns := ((blocksOf off len).map (64 * d + ·)).filter fun n => s.connected n && !s.held n
  let s := s.updChans (fun n _ => ns.contains n) fun _ c => { c with queue := c.queue ++ c.presentGroup }
  s.finish h.tag .ok 0 (resultOf [(0x14, len)]) 0

/-! ### What a step needs -/

/-- STEPS of a channel's block (R379). -/
def State.calSteps (s : State) (n : Nat) : BitVec 16 := BitVec.ofNat 16 (rd (s.calRd (n / 64)) (calBlock n + 6) 2)

/-- The die of a CAL_STEP (R384). -/
def calDie (step : BitVec 16) (arg : List Byte) : Nat := if 0x10 ≤ step.toNat then calArg arg 0 2 / 64 else calArg arg 0 2

/-- The clusters of a die that a reference DAC serves (R50). -/
def refServes (j : Nat) : List Nat :=
  if j < 4 then [2 * j, 2 * j + 1] else if j < 6 then [0, 1, 2, 3] else [4, 5, 6, 7]

/-- What a step on channel `n` needs (R384). That BUS_DELAY has run on the die is read from a nonzero TBUS_DLY (log
entry 45). -/
def State.calNeeds (s : State) (step n : Nat) : Bool :=
  let on (i : Nat) : Bool := hasBit (s.calSteps n) i
  match step with
  | 0x0011 => on 0
  | 0x0012 => on 0
  | 0x0013 => on 0 && on 1 && !s.dieNums.any s.holdsCalr
  | 0x0020 => on 2 && rd (s.calRd (n / 64)) 0x54 4 != 0 && (s.die (n / 64)).pll.locked
  | _ => true

/-- What keeps a CAL_STEP from being accepted (R384, R385, R420). -/
def State.calStepErr (s : State) (step : BitVec 16) (arg : List Byte) : Option (Status × Nat) :=
  let st := step.toNat
  if 0x10 ≤ st then
    let n := calArg arg 0 2
    let c := (s.chan n).st
    s.unavailable [n / 64] true <|> firstErr
      [(!s.held n, .badState, dHeld),
       (st == 0x30 || (s.groupOf (clusterOf n)).all fun g => (s.runsOf g).isEmpty, .badState, dHeld),
       (!s.connected n && !c.gangMember && !c.gangMeas && !c.rpsBusy, .badState, dState),
       (s.calNeeds st n, .badState, dState)]
  else
    let d := calArg arg 0 2
    let served := (refServes (calArg arg 2 1)).any fun c => hasBit (s.calSteps (64 * d + 8 * c)) 0
    s.unavailable [d] (st == 3) <|> firstErr [(st != 3 || served, .badState, dState)]

/-- The execution bound of a step in ns (R384). -/
def calStepBound (step x : Nat) : Nat :=
  match step with
  | 0x0001 => 1000000
  | 0x0002 => 10000000
  | 0x0003 => 200000000
  | 0x0010 => 150000000
  | 0x0011 => 800000000
  | 0x0012 => 400000000
  | 0x0013 => if x = 0 then 4000000000 else 1500000000
  | 0x0020 => 50000000
  | _ => 1000000

/-! ### What a step stores -/

/-- A value that a step has computed: its offset, its bytes, and whether it lies within R380. -/
abbrev CalVal := Nat × List Byte × Bool

/-- A correction pair at an offset. -/
def pairVal (off : Nat) (gain offset : Int) : CalVal :=
  (off, leBytes 4 (twos 32 gain) ++ leBytes 4 (twos 32 offset), decide (0 ≤ gain) && pairOk (gain.toNat, offset))

/-- A signed 16-bit value at an offset, within ± `lim`. -/
def smallVal (off lim : Nat) (v : Int) : CalVal := (off, leBytes 2 (twos 16 v), decide (v.natAbs ≤ lim))

/-- A certified reference value of die 0: zero stands for the nominal one; none outside the limits (R382). -/
def State.certified (s : State) (off : Nat) (nominal lo hi : Rat) : Option Rat :=
  let b : BitVec 32 := BitVec.ofNat 32 (rd (s.calRd 0) off 4)
  match f32Val b with
  | some v => let v := if v = 0 then nominal else v
              if lo ≤ v ∧ v ≤ hi then some v else none
  | none => none

/-- VREF_CERT as the steps use it (R382). -/
def State.vref (s : State) : Option Rat := s.certified 0x58 5 (4990 / 1000) (5010 / 1000)

/-- RREF_CERT as the steps use it (R382). -/
def State.rref (s : State) : Option Rat := s.certified 0x5C 10000 9990 10010

/-- SAR_V from the sums of 65,536 raw codes at CAL_VREF_N and at CAL_VREF_P (R146, R384; the worked example of R394). -/
def sarPair (vref : Rat) (sum0 sum1 : Int) : Int × Int :=
  let r0 : Rat := (sum0 : Rat) / 65536
  let r1 : Rat := (sum1 : Rat) / 65536
  let i1 : Rat := (vref + 3) * 262144 / 12
  let g : Rat := (i1 - 65536) / (r1 - r0)
  (roundAway (g * 2 ^ 30), roundAway ((65536 - g * r0) * 64))

/-- What a channel step stores in its block (R384): offsets are within the block, `m` are the values measured after the
residual (log entry 45). -/
def State.calValues (s : State) (step x : Nat) (tj : BitVec 16) (meas : List Int) : List CalVal :=
  let m (i : Nat) : Int := meas.getD i 0
  match step with
  | 0x0010 =>
    match s.vref with
    | some v => let p := sarPair v (m 1) (m 2)
                [pairVal 0x0A8 p.1 p.2]
    | none => [(0x0A8, [], false)]
  | 0x0011 =>
    (0x004, leBytes 2 tj.toNat, true) :: pairVal 0x008 (m 1) (m 2) :: smallVal 0x140 0 0
      :: (List.range 63).map fun i => smallVal (0x142 + 2 * i) 2048 (m (3 + i))
  | 0x0012 =>
    (List.range 7).map (fun i => pairVal (0x040 + 8 * i) (m (1 + 2 * i)) (m (2 + 2 * i)))
      ++ [smallVal 0x110 512 (m 15), smallVal 0x112 512 (m 16)]
  | 0x0013 =>
    if s.rref.isSome then
      [pairVal (0x0B0 + 8 * x) (m 1) (m 2), pairVal (0x010 + 8 * x) (m 3) (m 4), pairVal (0x078 + 8 * x) (m 5) (m 6),
       pairVal (0x0E0 + 8 * x) (m 7) (m 8)]
    else [(0x0B0 + 8 * x, [], false)]
  | 0x0020 => (List.range 3).map fun i => smallVal (0x120 + 6 * i + 2 * x) 1310 (m (1 + i))
  | _ => []

/-- The STEPS bit of a channel step (R379). -/
def stepBit (step x : Nat) : Nat :=
  match step with
  | 0x0010 => 0
  | 0x0011 => 1
  | 0x0012 => 2
  | 0x0013 => 3 + x
  | _ => 9 + x

/-- Store the values that lie within R380 (R386). -/
def putVals (m : Mem) (base : Nat) (vs : List CalVal) : Mem :=
  vs.foldl (fun m v => if v.2.2 then Mem.setBytes ramByte m (base + v.1) v.2.1 else m) m

/-- A block after a step (R384, R386): it names its channel, VALID is clear, and the step's bit of STEPS says that every
value lay within R380. -/
def calMark (m : Mem) (n bitNo : Nat) (ok : Bool) : Mem :=
  let b := calBlock n
  let steps : BitVec 16 := BitVec.ofNat 16 (Mem.le ramByte m (b + 6) 2)
  let m := Mem.setBytes ramByte m b (leBytes 2 n)
  let m := Mem.set ramByte m (b + 2) (clearBit (Mem.get ramByte m (b + 2)) 0)
  Mem.setBytes ramByte m (b + 6) (leBytes 2 (if ok then setBit steps bitNo else clearBit steps bitNo).toNat)

/-- Write the CRC of a span into its last four bytes (R367, R378, R379). -/
def putCrc (m : Mem) (off n : Nat) : Mem :=
  Mem.setBytes ramByte m (off + n - 4) (leBytes 4 (crc32 (Mem.bytes ramByte m off (n - 4))))

/-- The final reply of a step (R384). -/
def State.calReply (s : State) (tag : BitVec 12) (d : Nat) (steps : BitVec 16) (limit : Bool) (meas : List Int) : State :=
  s.finish tag .ok 0 (resultOf [(0x10, steps.toNat), (0x12, bit limit), (0x14, twos 32 (meas.getD 0 0)),
    (0x18, (s.die d).thm.formed.toNat)]) 0

/-- A channel step has measured (R384 to R386): what it stores, its channel left in still, and its reply. -/
def State.calStore (s : State) (tag : BitVec 12) (step n x : Nat) (meas : List Int) : State :=
  let d := n / 64
  let vs := s.calValues step x (s.die d).thm.formed meas
  let ok := vs.all fun v => v.2.2
  let s := (s.holdAna d).updDie d fun y =>
    { y with cal := calMark (putVals y.cal (calBlock n) vs) n (stepBit step x) ok, calRun := none, calNet := 0 }
  let s := s.updChan n fun c => c.applyStill c.still
  s.calReply tag d (s.calSteps n) (!ok) meas

/-- FINISH (R384, R385): VALID and CRC, when every step has been completed. -/
def State.calFinish (s : State) (tag : BitVec 12) (n : Nat) (meas : List Int) : State :=
  let d := n / 64
  if s.calSteps n &&& 0xFFF = 0xFFF then
    let b := calBlock n
    let s := (s.holdAna d).updDie d fun y =>
      let m := Mem.setBytes ramByte y.cal b (leBytes 2 n)
      { y with cal := putCrc (Mem.set ramByte m (b + 2) (setBit (Mem.get ramByte m (b + 2)) 0)) b 0x200 }
    s.calReply tag d (s.calSteps n) false meas
  else s.finish tag .badState dState 0 0

/-- A step on a die area (R384): which way half of an odd round trip is rounded is open (log entry 7). -/
def State.calDieStep (s : State) (tag : BitVec 12) (step d x : Nat) (value : Int) (meas : List Int) : State :=
  let m (i : Nat) : Int := meas.getD i 0
  let (v, s) := s.takeFree
  let val : CalVal := match step with
    | 0x0001 => (0x54, leBytes 4 (twos 32 ((m 1 + bit (hasBit v 0)) / 2)), true)
    | 0x0002 => smallVal (0x50 + 2 * x) 160 (value - m 1)
    | _ => pairVal (0x10 + 8 * x) (m 1) (m 2)
  let s := (s.holdAna d).updDie d fun y => { y with cal := putCrc (putVals y.cal 0 [val]) 0 0x100 }
  s.calReply tag d 0 (!val.2.2) meas

/-! ### Steps at work -/

/-- The net that a step's channel is routed to (R383). -/
def stepNet (step : Nat) : Nat :=
  match step with
  | 0x0010 => 1
  | 0x0013 => 2
  | 0x0020 => 3
  | _ => 0

/-- The junction temperature is that of the die area's T_A, T_B or T_C to within 2 °C (R385). -/
def State.nearTemp (s : State) (d x : Nat) : Bool :=
  decide (((s.die d).thm.formed.toInt - rdS (s.calRd d) (0x08 + 2 * x) 2).natAbs ≤ 32)

/-- CAL_STEP at its turn (R217, R383 to R385). A channel step asks the RPS for its route; a channel connected meanwhile
ends it (log entry 45). -/
def State.runCalStep (s : State) (c : Instr) : State :=
  match c with
  | .calStep _ h step arg meas =>
    let st := step.toNat
    let x := calArg arg 2 1
    let n := calArg arg 0 2
    if st < 0x10 then s.calDieStep h.tag st n x (signed 32 (calArg arg 4 4)) meas
    else if st = 0x30 then s.calFinish h.tag n meas
    else if s.connected n || (st == 0x20 && !s.nearTemp (n / 64) x) then s.finish h.tag .badState dState 0 0
    else
      let s := s.updDie (n / 64) fun y => { y with calRun := some { tag := h.tag, step := c } }
      s.rpsSubmit (n / 64) (clusterOf n % 8) (maskOf 8 [laneOf n]) (some h.tag) (.calRoute (stepNet st) false)
  | _ => s

/-- The RPS has routed a channel for its CAL_STEP, or has released it again (R383, R384). -/
def State.calRouted (s : State) (d : Nat) (q : RpsReq) : State :=
  match q.op, (s.die d).calRun with
  | .calRoute net release, some x =>
    if q.tag = some x.tag ∧ s.stepping d then
      match x.step with
      | .calStep _ h step arg meas =>
        let n := calArg arg 0 2
        if release then s.calStore h.tag step.toNat n (calArg arg 2 1) meas
        else
          let s := s.updDie d fun y => { y with calLane := BitVec.ofNat 6 n, calNet := BitVec.ofNat 2 net }
          s.rpsSubmit d q.c q.lanes q.tag (.calRoute net true)
      | _ => s
    else s
  | _, _ => s

/-! ### The commit of a slot -/

/-- The slot and SEQUENCE of the next commit (R391). -/
def CalUnit.target (x : CalUnit) : Nat × Nat :=
  (if x.inForce = 0 then 1 else 0, if x.inForce = 3 then 1 else x.sequence.toNat + 1)

/-- No commit follows the highest SEQUENCE (R391). -/
def CalUnit.full (x : CalUnit) : Bool := x.inForce != 3 && x.sequence == 0xFFFFFFFE

/-- The header of a slot (R389). -/
def State.calHeader (s : State) (seq : Nat) (body : List Byte) : List Byte :=
  let b := leBytes 4 0x5343584C ++ leBytes 2 1 ++ leBytes 1 s.dieMask.toNat ++ leBytes 1 0 ++ leBytes 4 seq ++ leBytes 4 0
    ++ leBytes 8 s.otp.serial.toNat ++ leBytes 4 (crc32 body) ++ leBytes 32 0
  b ++ leBytes 4 (crc32 b)

/-- The bound of a commit in ns (R391). -/
def State.commitBound (s : State) : Nat :=
  let x := s.serial
  let dies := popCount s.dieMask
  let k := 16 * dies + 1
  let pages : Rat := ((256 * dies / max 1 (x.page / 256) + 1 : Nat) : Rat)
  5000000 + k * (x.eraseMax * 1000 + 10000)
    + (pages * (5010000 + x.twice x.page) + x.twice (65536 * dies + 64)).ceil.toNat

/-- CAL_COMMIT at its turn (R391): the calibration RAMs are staged, and the flash has its work. -/
def State.runCalCommit (s : State) (h : Hdr) : State :=
  if s.cal.full then s.finish h.tag .badState dState 0 0
  else
    let (slot, seq) := s.cal.target
    let body := (bitsOf s.dieMask).flatMap fun d => Mem.bytes ramByte (s.die d).cal 0 65536
    s.startOp { FlashOp.plain 2 (calBase slot) 0 h.tag with data := body ++ s.calHeader seq body }

end Sys2Proof.Machine
end

