-- ==== Sys2Proof/Machine/Spring.lean ====
section
/-! DEFINITION. The spring (R135 to R138) and the holds of the STRETCH policy (R140, R203). -/

namespace Sys2Proof.Machine

/-- The run whose plan a cluster's spring entries belong to: the running one, or the one being armed. -/
def State.springRun (s : State) (k : Nat) : Option Run :=
  s.runs.find? fun r => r.state != .accepted && (s.runClusters r).contains k

/-- A waveform ring of a cluster. -/
def Seq.ring (q : Seq) (g : Nat) : WaveRing := q.rings.getD g { asked := 0, written := 0, read := 0 }

/-- The bytes of ring space that are free: neither unread samples nor ones in flight take them (R136). -/
def State.ringSpace (s : State) (r : Run) (k ring : Nat) : Nat :=
  let x := (s.seq k).ring ring
  (ringEntry (s.placed r k secWaveforms) ring).2 - 4 * (x.asked - x.read)

/-- The destination of an entry can take its bytes: its half has been released and no later block waits for it, or its ring has
room (R135, R136). -/
def State.springRoom (s : State) (r : Run) (k : Nat) (e : SpringEntry) : Bool :=
  match e.dest with
  | 0 => (s.seq k).fillA
  | 1 => (s.seq k).fillB
  | _ => decide (e.len ≤ s.ringSpace r k e.ring)

/-- Change the first queued entry with an index for which `p` holds. -/
def updSpring (p : SpringQ → Bool) (f : SpringQ → SpringQ) : List SpringQ → List SpringQ
  | [] => []
  | x :: xs => if p x then f x :: xs else x :: updSpring p f xs

/-- An entry issues: a block's last entry leaves its half to be read, and a ring entry takes the next space of its ring. -/
def Seq.issue (q : Seq) (e : SpringEntry) (p : SpringQ → Bool) : Seq :=
  if e.dest < 2 then
    let q := { q with springs := updSpring p (fun x => { x with issued := true }) q.springs }
    if e.last then q.setFill (e.dest == 1) false else q
  else
    let at_ := (q.ring e.ring).asked
    { q with springs := updSpring p (fun x => { x with issued := true, at_ }) q.springs
             rings := q.rings.modify e.ring fun x => { x with asked := x.asked + e.len / 4 } }

/-- The die still holds the data of a run's spring entries; after a loss of content every request fails (R272). -/
def State.springFrom (s : State) (r : Run) (k : Nat) : Bool :=
  s.dramUp (dieOfCluster k) && (s.image? r.image).any fun i => !hasBit i.lost (dieOfCluster k)

/-- A stretch fails (R140): the run aborts as an underrun on a cluster. -/
def State.stretchFails (s : State) (r : Run) (k : Nat) : State :=
  s.fault { sev := .cluster, locKind := 2, location := k }
    { code := evSpringUnderrun, tb := s.tb, locKind := 2, location := k, run := some r.tag, detail := (s.seq k).gap }
    none none

/-- SPRING_ISSUE (R135, R136): at σ + ISSUE, once its destination can take it, entry `i` starts its DRAM reads.
After a loss of content it fails at once, which ends a stretch (R272). -/
def execSpringIssue (t : Tb) (k i : Nat) (s : State) : Host.Outcome State Fault Refusal :=
  let s := s.at t
  let waits (x : SpringQ) : Bool := x.entry == i && !x.issued
  .next (match s.runOfCluster k, (s.seq k).springs.find? waits with
    | some r, some x =>
      let e := s.springAtEntry r k i
      if tick x.sigma + e.issue ≤ s.tb ∧ s.springRoom r k e then
        let s := (s.updSeq k fun q => q.issue e waits).springAsk r k i e (tick x.sigma + e.deadline)
        if r.stretch && !s.springFrom r k then s.stretchFails r k else s
      else s
    | _, _ => s)

/-- The bytes that an entry brings from its section in DRAM (R136, R238). -/
def springBytes (r : Rd) (k : Nat) (e : SpringEntry) : List Byte :=
  match findSect (imgDir r) (if e.waves then secWaveforms else secStream) k with
  | some x => (List.range e.len).map fun i => r (x.off + e.src + i)
  | none => []

/-- The bytes of an entry land in their half, or in the space of its ring that it was issued for (R115, R136); a LAST entry
sets its half's READY (R135). -/
def State.springLand (s : State) (r : Run) (k : Nat) (e : SpringEntry) (at_ : Nat) : State :=
  let bs := springBytes (s.imgRd r.image) k e
  if e.dest < 2 then
    let half := e.dest == 1
    let base := bufferBase half (s.fixedSize r k)
    let s := s.updCluster k fun c => { c with vsram := Mem.setBytes ramByte c.vsram (base + e.destOff) bs }
    if e.last then s.updSeq k fun q => q.setReady half true else s
  else
    let (off, size) := ringEntry (s.placed r k secWaveforms) e.ring
    let put (m : Mem) (p : Byte × Nat) : Mem := Mem.set ramByte m (off + (4 * at_ + p.2) % (max size 1)) p.1
    s.updCluster k fun c =>
      { c with
        vsram := bs.zipIdx.foldl put c.vsram
        seq := { c.seq with rings := c.seq.rings.modify e.ring fun x => { x with written := at_ + e.len / 4 } } }

/-- An entry can land: those to a waveform ring land in the order of their space (R136). -/
def Seq.landsNext (q : Seq) (e : SpringEntry) (at_ : Nat) : Bool := decide (e.dest < 2) || (q.ring e.ring).written == at_

/-- The late entries of a run have all completed: the end of its stretch is set by that TB (R140). -/
def State.lateOver (s : State) (r : Run) : State :=
  if (s.runClusters r).all fun k => (s.seq k).springs.all fun x => !x.late then
    s.updRun r.tag fun r => { r with lateEnd := if r.holdTb.isSome then some s.tb else none }
  else s

/-- SPRING_COMPLETE (R135, R136): entry `i` completes, unless its die has lost the content
(R272). A cluster whose prefill is complete is ARMED. -/
def execSpringComplete (t : Tb) (k i : Nat) (s : State) : Host.Outcome State Fault Refusal :=
  let s := s.at t
  let flies (x : SpringQ) : Bool := x.entry == i && x.issued
  .next (match s.springRun k, (s.seq k).springs.find? flies with
    | some r, some x =>
      let e := s.springAtEntry r k i
      if s.springFrom r k && (s.seq k).landsNext e x.at_ then
        let s := (s.springLand r k e x.at_).updSeq k fun q =>
          let springs := q.springs.erase x
          { q with springs, state := if r.state = .arming ∧ springs.isEmpty then .armed else q.state }
        if x.late then s.lateOver r else s
      else s
    | _, _ => s)

/-- The deadline of a queued entry (R136). -/
def State.springDue (s : State) (r : Run) (k : Nat) (x : SpringQ) : Tb :=
  tick x.sigma + (s.springAtEntry r k x.entry).deadline

/-- An entry of a STRETCH run is late (R140): it sets the hold time, or the end of the stretch in hand waits for it as well. -/
def Run.beLate (r : Run) (h : Tb) : Run :=
  if !r.stretch then r
  else if r.holdTb.isSome then { r with lateEnd := none }
  else { r with holdTb := some h, holds := r.holds ++ [h], lateEnd := none }

/-- SPRING_LATE (R138): entry `i` is not complete at its DEADLINE. -/
def execSpringLate (t : Tb) (k i : Nat) (s : State) : Host.Outcome State Fault Refusal :=
  let s := s.at t
  let open_ (x : SpringQ) : Bool := x.entry == i && !x.late
  .next (match s.runOfCluster k, (s.seq k).springs.find? open_ with
    | some r, some x =>
      if s.springDue r k x ≤ s.tb then
        (s.updSeq k fun q =>
          { q with springs := updSpring open_ (fun x => { x with late := true }) q.springs
                   fl := { q.fl with springLate := true }, lateCnt := inc32 q.lateCnt }).updRun r.tag
            (fun r => r.beLate (s.springDue r k x + 10000)) |>.raise_
          { code := evSpringLate, tb := s.tb, locKind := 2, location := k, run := some r.tag, detail := i }
      else s
    | _, _ => s)

/-! ### STRETCH (R140) -/

/-- HOLD (R140): die `d` receives HOLD(g, h), one of the hold times of its run; a member that receives it after h makes the
stretch fail. -/
def execHold (t : Tb) (g : Nat) (h : Tb) (d : Nat) (s : State) : Host.Outcome State Fault Refusal :=
  let s := s.at t
  .next (match s.running g with
    | none => s
    | some r =>
      let new (q : Seq) : Bool := q.state == .running && q.holdAt != some h && q.holdTb < h
      let ks := (s.runClusters r).filter fun k => dieOfCluster k == d && new (s.seq k)
      if !r.stretch || r.state == .ending || !r.holds.contains h then s
      else
        match ks with
        | [] => s
        | k :: _ =>
          if h < s.tb then s.stretchFails r k
          else ks.foldl (fun s k => s.updSeq k fun q => { q with holdAt := some h }) s)

/-- HOLD_ENTRY (R140): at its first vector boundary at or after h a member enters HOLD. A RESUME may have been sent by then: r
is never before h. -/
def execHoldEntry (t : Tb) (k : Nat) (s : State) : Host.Outcome State Fault Refusal :=
  let s := s.at t
  .next (match s.atSeg k .running with
    | none => s
    | some a =>
      match a.q.holdAt with
      | none => s
      | some h =>
        if s.tb < h ∨ a.r.state = .ending ∨ a.q.underTb.isSome then s
        else
          (s.updSeq k fun q => { q with state := .hold, holdTb := h, holdAt := none
                                        resumeAt := q.resumeAt.filter fun r => decide (h ≤ r) }).updRun a.r.tag
            fun r => { r with state := .hold })

/-- RESUME (R140): every late entry of the group had completed at TB c; RESUME(g, r) with r = c + 10 µs goes to the members,
and the run's promise is broken. A hold of more than 100 ms makes the stretch fail. -/
def execResume (t : Tb) (g : Nat) (s : State) : Host.Outcome State Fault Refusal :=
  let s := s.at t
  .next (match s.running g with
    | none => s
    | some x =>
      match x.holdTb, x.lateEnd with
      | some h, some c =>
        if x.state = .ending then s
        else
          let r := c + 10000
          let ks := (s.runClusters x).filter fun k => (s.seq k).state == .running || (s.seq k).state == .hold
          let s := ks.foldl (fun s k => s.updSeq k fun q =>
            { q with resumeAt := some r, resumeTb := r, fl := { q.fl with stretched := true } }) s
          let s := s.raise_ { code := evRunStretch, tb := h, locKind := 4, location := g, run := some x.tag, detail := r }
          let s := s.updRun x.tag fun y =>
            { y with broken := true, stretched := true, held := y.held + (r - h), holdTb := none, lateEnd := none }
          if r - h > 100000000 then s.stretchFails x ((ks.head?).getD 0) else s
      | _, _ => s)

/-- Shift a cluster's timeline (R140): `dv` for the timeline, timers and spring times, `dg` for the DAC grid of each
lane and its resampler. -/
def State.shiftTimeline (s : State) (r : Run) (k : Nat) (dv : Rat) (hold : Nat) : State :=
  let ticks := dv.ceil.toNat
  let s := s.updSeq k fun q =>
    { q with
      state := .running, resumeAt := none, sigma := q.sigma + dv
      timers := q.timers.map fun m => if m.running then { m with expiry := m.expiry + ticks } else m
      springs := q.springs.map fun x => { x with sigma := x.sigma + dv } }
  s.updChans (fun n _ => clusterOf n == k && r.mapped.contains n) fun _ c =>
    let dg := roundUp hold (c.dacDiv * 10)
    { c with grid := c.grid.map (· + dg), waveNext := c.waveNext.map fun w => (w.1 + dg, w.2) }

/-- TIMELINE_RESUME (R140): at r a member resumes with its timeline shifted by whole vector periods and its DAC grid by
whole update periods. -/
def execTimelineResume (t : Tb) (k : Nat) (s : State) : Host.Outcome State Fault Refusal :=
  let s := s.at t
  .next (match s.atSeg k .hold with
    | none => s
    | some a =>
      match a.q.resumeAt with
      | none => s
      | some r =>
        if s.tb < r ∨ a.r.state = .ending then s
        else
          let hold := r - a.q.holdTb
          let p := a.q.period
          let dv : Rat := if p = 0 then 0 else ((((hold : Nat) : Rat) / p).ceil : Rat) * p
          let s := s.shiftTimeline a.r k dv hold
          if (s.runClusters a.r).any fun j => (s.seq j).state == .hold then s
          else s.updRun a.r.tag fun x => { x with state := .running })

/-- STRETCH_LIMIT (R203): the holds of a STRETCH run exceed 100 ms in all. -/
def execStretchLimit (t : Tb) (g : Nat) (s : State) : Host.Outcome State Fault Refusal :=
  let s := s.at t
  .next (match s.running g with
    | none => s
    | some r =>
      if r.stretch && r.state != .ending && decide (r.heldBy s.tb > 100000000) then
        s.stretchFails r (((s.runClusters r).head?).getD 0)
      else s)

end Sys2Proof.Machine
end

