-- ==== Sys2Proof/Machine/DramRows.lean ====
section
/-! DEFINITION. The DRAM of a die at work (R256 to R276): its maintenance windows with refresh, RFM and retraining, loss
of a channel, re-forming, power-down, promotion, and the DRAM commands (R331). -/

namespace Sys2Proof.Machine

/-! ### State and settings -/

/-- DRAM_STATUS (R331). -/
def execDramStatus (t : Tb) (h : Hdr) (die : BitVec 8) (s : State) : Host.Outcome State Fault Refusal :=
  .next (s.immediate t (.dramStatus t h die) fun s =>
    let m := (s.die die.toNat).dram
    ({ result := resultOf [(0x10, m.stateWord.toNat), (0x14, m.mult.toNat), (0x18, m.trainTb % 2 ^ 64)] }, s))

/-- The settings of the groups that APPLY names (R263, R265, R266, R268, R269, R331). -/
def Dram.config (x : Dram) (apply : BitVec 8) (ageNs pdUs rhThr interval : BitVec 16) (eyeMin : BitVec 8) (tb : Tb) : Dram :=
  { x with
    ageNs := if hasBit apply 0 then ageNs else x.ageNs
    pdUs := if hasBit apply 1 then pdUs else x.pdUs
    rhThr := if hasBit apply 2 then rhThr else x.rhThr
    interval := if hasBit apply 3 then interval else x.interval
    eyeMin := if hasBit apply 4 then eyeMin else x.eyeMin
    was := [x.ageNs, x.pdUs, x.interval, x.rhThr]
    cfgTb := tb }

/-- DRAM_CONFIG at its turn (R331). -/
def State.runDramConfig (s : State) (h : Hdr) (mask apply : BitVec 8) (ageNs pdUs rhThr interval : BitVec 16)
    (eyeMin : BitVec 8) : State :=
  let s := (diesOf mask).foldl (fun s d => s.updDram d fun x => x.config apply ageNs pdUs rhThr interval eyeMin s.tb) s
  s.finish h.tag .ok 0 0 0

/-! ### Loss of a channel -/

/-- The records of the runs in progress on a die are created again (R273, R274). -/
def State.recordsAgain (s : State) (d : Nat) : State :=
  { s with results := s.results.map fun x =>
      match s.runs.find? fun r => r.started && r.group == x.group && r.s == x.s with
      | some r =>
        let members := (imgMap (s.imgRd r.image)).flatMap fun m => ((bitsOf m.lanes).filter m.isMember).map (chanOf m.k)
        let own := (imgChannels (s.imgRd r.image)).filter fun n =>
          n / 64 == d && !members.contains n && !(x.recs.any fun e => e.ch == n)
        { x with recs := x.recs ++ own.map fun n => ResRec.init n r.s }
      | none => x }

/-- A BULK command loses what it moves: a transfer to or from the die is in progress, or an image's part has arrived there
(R272). -/
def State.losesBulk (s : State) (d : Nat) (w : Work) : Bool :=
  w.done.isNone && s.bulks.any fun b => b.tag == w.tag && b.die == d && (b.moving || b.done)

/-- A CAPTURE_START or CAPTURE_STOP waits for its tick on a stream of the die (R327). -/
def Work.capOn (w : Work) (d : Nat) : Bool :=
  w.done.isNone && (match w.kind with
    | .capStart k _ _ => dieOfCluster k == d
    | .capStop k _ _ => dieOfCluster k == d
    | _ => false)

/-- The spring requests of STRETCH runs that are in flight to the die fail, which ends the stretch (R272). -/
def State.springsFail (s : State) (d : Nat) : State :=
  s.runs.foldl (fun s r =>
    if r.started && r.stretch then
      match (s.runClusters r).find? fun k => dieOfCluster k == d && (s.seq k).springs.any fun x => x.issued with
      | some k => s.stretchFails r k
      | none => s
    else s) s

/-- The content of a die's DRAM is lost and its caps follow its new state (R205, R221, R272); `seq` is the event that
says so. What a CAPTURE_START or CAPTURE_STOP that waits for its tick answers is left open; it answers HW_FAULT,
DRAM_LOST (log entry 38). -/
def State.dramGone (s : State) (d seq : Nat) : State :=
  let s := s.dieContentLost d 0x01 seq
  let s := (s.works.filter (s.losesBulk d)).foldl (fun s w => s.bulkBreak w 0x07 seq) s
  let s := (s.works.filter fun w => w.capOn d).foldl (fun s w => s.finish w.tag .hwFault 0x07 0 seq) s
  let caps := (s.die d).dram.st.caps
  let s := s.updDie d fun x => if x.st = .active then { x with bwCap := caps.1, springCap := caps.2 } else x
  (s.springsFail d).capFell d 0x01 seq

/-- A DRAM_RETRAIN ends: its final reply shows DRAM_STATE[7:0] (R275, R331). -/
def State.retrainReplies (s : State) (d : Nat) (tags : List (BitVec 12)) : State :=
  let res := resultOf [(0x10, (s.die d).dram.stateWord.toNat % 256)]
  tags.foldl (fun s tag => s.finish tag .ok 0 res 0) s

/-- The die's DRAM goes OFFLINE (R264, R272, R274, R275): re-forming and retraining are abandoned. `detail` is that of
DRAM_OFFLINE. -/
def State.dramOffline (s : State) (d detail : Nat) : State :=
  let tags := (s.die d).dram.waiters
  let s := s.updDram d fun x =>
    { x with
      st := .offline, chOk := 0, sizeGib := 0, reforming := false, retraining := false, wanted := none, waiters := []
      sweeps := List.replicate 2 Sweep.none, failTb := s.tb, lowPower := List.replicate 4 false
      rfmDue := List.replicate 2 0 }
  let (seq, s) := s.raise { code := evDramOffline, tb := s.tb, locKind := 1, location := d, detail }
  ((s.dramGone d seq).recordsAgain d).retrainReplies d tags

/-- The die enters HALF on the channel that is left (R272, R273). -/
def State.dramHalf (s : State) (d ch lane : Nat) : State :=
  let s := s.updDram d fun x =>
    { x with
      st := .half, chOk := maskOf 2 [1 - ch], sizeGib := dramGib x.ranksM1 x.density / 2, reforming := true
      failTb := s.tb, sweeps := x.sweeps.set ch Sweep.none, rfmDue := x.rfmDue.set ch 0 }
  let (seq, s) := s.raise { code := evDramHalf, tb := s.tb, locKind := 8, location := 2 * d + ch, detail := lane }
  s.dramGone d seq

/-! ### Retraining -/

/-- Positions of a sweep (R270). -/
def sweepLen (phase : Nat) : Nat := if phase % 2 = 0 then 97 else 256

/-- A byte lane after one position of its sweep: `keep` says whether a later run as long as the longest one takes its
place. -/
def LaneRun.note (x : LaneRun) (pass keep : Bool) (pos : Nat) : LaneRun :=
  if pass then
    let run := x.run + 1
    if run > x.best ∨ (run = x.best ∧ keep) then { run, best := run, stop := pos + 1 } else { x with run }
  else { x with run := 0 }

/-- A fresh sweep. -/
def Sweep.start (x : Sweep) (phase : Nat) : Sweep :=
  { x with phase, done := 0, lanes := List.replicate 2 { run := 0, best := 0, stop := 0 } }

/-- The centre and width of a lane's passing run in a sweep whose first position is `base`; which of two middle steps is
the centre is open, so `up` decides. -/
def LaneRun.centre (x : LaneRun) (base : Int) (up : Bool) : Nat × Nat :=
  ((base + x.stop - x.best + (((x.best - 1) + bit up) / 2 : Nat)).toNat, x.best)

/-- The first setting of a sweep: the present centre less 48, or 0 (R270). -/
def sweepBase (phase : Nat) (centre : BitVec 8) : Int := if phase % 2 = 0 then centre.toNat - 48 else 0

/-- The byte lanes of a channel's present sweep as centre and width; bits 2 and 3 of `v` decide the middle step. -/
def Dram.laneEyes (x : Dram) (ch : Nat) (w : Sweep) (v : BitVec 64) : List (Nat × Nat) :=
  (List.range 2).map fun l =>
    let e := x.eyes.getD (2 * ch + l) default
    (w.lanes.getD l default).centre (sweepBase w.phase (if w.phase < 2 then e.rdC else e.wrC)) (hasBit v (2 + l))

/-- The lowest byte lane of a sweep whose longest passing run is too short, if each position left were to pass `left`
more steps (R270). -/
def Sweep.short (w : Sweep) (eyeMin left : Nat) : Option Nat :=
  (List.range 2).find? fun l =>
    let x := w.lanes.getD l default
    decide (max x.best (x.run + left) < eyeMin)

/-- What a position of a sweep leaves: the sweep of the channel, and the byte lane that ends its retraining. -/
def Dram.position (x : Dram) (ch : Nat) (pass : BitVec 2) (v : BitVec 64) : Sweep × Option Nat :=
  let w := x.sweeps.getD ch Sweep.none
  let w := { w with
    lanes := w.lanes.mapIdx fun l r => r.note (hasBit pass l) (hasBit v l) w.done
    done := w.done + 1 }
  if w.done < sweepLen w.phase then (w, none)
  else
    let short := (w.lanes.mapIdx fun l r => (l, r)).find? fun p => decide (p.2.best < x.eyeUse.toNat)
    let es := x.laneEyes ch w v
    match short with
    | some p => if w.phase % 2 = 0 then (w.start (w.phase + 1), none) else (w, some p.1)
    | none => if w.phase < 2 then ({ w with rd := es }.start 2, none) else ({ w with wr := es, phase := 4 }, none)

/-- The new centres of a channel take effect (R270, R276): widths and centres are kept within their eight bits. -/
def Dram.newEyes (x : Dram) (ch : Nat) : Dram :=
  let w := x.sweeps.getD ch Sweep.none
  let b (n : Nat) : BitVec 8 := BitVec.ofNat 8 (min 255 n)
  { x with
    sweeps := x.sweeps.set ch Sweep.none
    eyes := x.eyes.mapIdx fun i e =>
      if i / 2 = ch then
        let r := w.rd.getD (i % 2) (0, 0)
        let q := w.wr.getD (i % 2) (0, 0)
        { rdC := b r.1, rdW := b r.2, wrC := b q.1, wrW := b q.2 }
      else e }

/-- The channels in use. -/
def Dram.channels (x : Dram) : List Nat := bitsOf x.chOk

/-- The retraining ends once every channel in use has its new centres (R270). -/
def State.retrainEnds (s : State) (d : Nat) (at_ : Tb) : State :=
  let x := (s.die d).dram
  if x.retraining && x.channels.all fun c => (x.sweeps.getD c Sweep.none).phase == 5 then
    let tj := (s.die d).thm.formed
    let s := s.updDram d fun x =>
      { x with retraining := false, waiters := [], trainTj := tj, trainTb := at_, retrainCnt := inc32 x.retrainCnt }
    s.retrainReplies d x.waiters
  else s

/-- The other channel of a retraining can no longer pass the full sweep it is in (R270). -/
def Dram.doomed (x : Dram) (ch : Nat) : Bool :=
  let w := x.sweeps.getD ch Sweep.none
  (w.phase == 1 || w.phase == 3) && (w.short x.eyeUse.toNat (256 - w.done)).isSome

/-- A channel's retraining fails on a byte lane (R272, R275): with the other one lost, or bound to be lost by the same
retraining, the die goes OFFLINE. -/
def State.channelFails (s : State) (d ch lane : Nat) : State :=
  let s := s.updDram d fun x => { x with failedLane := BitVec.ofNat 3 (2 * ch + lane) }
  let x := (s.die d).dram
  if x.st = .half ∨ x.doomed (1 - ch) then s.dramOffline d (lane + 4 * ch)
  else (s.dramHalf d ch lane).retrainEnds d s.tb

/-- A retraining that is wanted starts with this window, which began at `w0` (R269, R270, R275). -/
def Dram.begin_ (x : Dram) (w0 : Tb) : Dram :=
  if !x.retraining && x.wanted.any fun t => decide (t < w0) then
    { x with
      retraining := true, wanted := none, eyeUse := x.eyeMin
      sweeps := x.sweeps.mapIdx fun c w => if hasBit x.chOk c then w.start 0 else Sweep.none }
  else x

/-- Retraining in a window of a channel that began at `w0` (R270). -/
def State.retrainWindow (s : State) (d ch : Nat) (w0 : Tb) (pass : BitVec 2) : State :=
  let s := s.updDram d fun x => x.begin_ w0
  let x := (s.die d).dram
  let phase := (x.sweeps.getD ch Sweep.none).phase
  if !x.retraining ∨ x.fullRun ∨ phase ≥ 5 then s
  else if phase = 4 then (s.updDram d fun x => x.newEyes ch).retrainEnds d w0
  else
    let (v, s) := s.takeFree
    let (w, bad) := x.position ch pass v
    let wake (i : Nat) (b : Bool) : Bool := b && i / 2 != ch
    let s := s.updDram d fun x => { x with sweeps := x.sweeps.set ch w, lowPower := x.lowPower.mapIdx wake }
    match bad with
    | some lane => s.channelFails d ch lane
    | none => s

/-! ### Maintenance windows -/

/-- A channel is in use and its maintenance window ends now (R256, R258). -/
def State.windowEnds (s : State) (d ch : Nat) : Bool :=
  s.hasDie d && decide (ch < 2) && s.dramUp d && hasBit (s.die d).dram.chOk ch && decide (s.tb % 2000 = 1000 * ch + 400)

/-- The refresh rate that a rank requests (R264), as a power of two; none above ×4 or out of range. -/
def rateOf (mr4 : Option (BitVec 3)) : Option Nat := (mr4.map BitVec.toNat).filter fun r => decide (r ≤ 2)

/-- The refresh rate of a channel (R264): the highest that its ranks request; none where one of them has none. -/
def Dram.rateOf (x : Dram) (mr4 mr4b : Option (BitVec 3)) : Option Nat :=
  match Machine.rateOf mr4, (if x.ranksM1 then Machine.rateOf mr4b else some 0) with
  | some a, some b => some (max a b)
  | _, _ => none

/-- A request of a die still stands: a spring entry that has not completed, or a transfer that moves; every other one until it is
served (R261). -/
def State.dramStands (s : State) (d : Nat) (q : DramReq) : Bool :=
  match q.owner with
  | .run _ => (s.seq (q.key / 2 ^ 16)).springs.any fun x => x.issued && x.entry == q.key % 2 ^ 16
  | .bulk tag => s.bulks.any fun b => b.tag == tag && b.die == d && b.moving && !b.done
  | _ => true

/-- The requests of a die that still stand. -/
def State.dramLive (s : State) (d : Nat) : State :=
  s.updDram d fun x => { x with reqs := x.reqs.filter (s.dramStands d) }

/-- A maintenance window of a channel (R258, R262, R264 to R266, R270), seen at its end: the frame before it has served its data
slots; in every 64th one MR4 of both ranks is read; at most two of the RFMs that are due are issued; `wake` names the ranks woken for refresh. -/
def State.window (s : State) (d ch : Nat) (mr4 mr4b : Option (BitVec 3)) (pass : BitVec 2) (wake : BitVec 2) : State :=
  if s.windowEnds d ch then
    let w0 := s.tb - 400
    let s := (s.dramLive d).updDram d fun x => (x.serveFrame ch w0).refreshed ch w0
    let n := (s.die d).dram.windows.getD ch 0 + 1
    let read := decide (64 ≤ n)
    let due := (s.die d).dram.rfmDue.getD ch 0
    let rate := (s.die d).dram.rateOf mr4 mr4b
    let s := s.updDram d fun x =>
      { x with
        windows := x.windows.set ch (if read then 0 else n)
        rfmDue := x.rfmDue.set ch (due - 2)
        rfmCnt := satTo 32 (x.rfmCnt + min 2 due)
        lowPower := x.lowPower.mapIdx fun i b => b && !(i / 2 == ch && hasBit wake (i % 2)) }
    if read && rate.isNone then
      let (v, s) := s.takeFree
      s.dramOffline d (v.toNat % 4 + 4 * ch)
    else
      let s := if read then s.updDram d fun x =>
          let rates := x.rates.set ch (rate.getD 0)
          { x with rates, mult := BitVec.ofNat 2 (maxOf (x.channels.map fun c => rates.getD c 0)) }
        else s
      s.retrainWindow d ch w0 pass
  else s

/-- A retraining of a die's DRAM is wanted from now on; one in progress takes it in (R269, R275). -/
def State.wantRetrain (s : State) (d : Nat) : State :=
  if s.dramUp d then
    s.updDram d fun x => if x.retraining ∨ x.wanted.isSome then x else { x with wanted := some s.tb }
  else s

/-- RETRAIN_INTERVAL (R269). -/
def execRetrainInterval (t : Tb) (d : Nat) (s : State) : Host.Outcome State Fault Refusal :=
  let s := s.at t
  let x := (s.die d).dram
  .next (if s.hasDie d && decide (x.trainTb + x.inUse 0 s.tb 2 * 1000000 ≤ s.tb) then s.wantRetrain d else s)

/-- REFORM_DONE (R273): the address space stands on the channel that is left; records and fail logs of the runs in
progress are created again. -/
def execReformDone (t : Tb) (d : Nat) (s : State) : Host.Outcome State Fault Refusal :=
  let s := s.at t
  let x := (s.die d).dram
  .next (if s.hasDie d && x.st == .half && x.reforming then
      let s := s.updDram d fun x => { x with reforming := false, mem := [] }
      let s := s.updClusters (fun k _ => dieOfCluster k == d) fun _ c => { c with flog := { c.flog with wr := 0, kept := [] } }
      s.recordsAgain d
    else s)

/-- The ranks of a die are held awake (R266): a run reservation with a spring demand lies in its window, or a capture
stream is active. -/
def State.ranksHeld (s : State) (d : Nat) : Bool :=
  decide (0 < springAt s.table d s.tb)
    || (List.range 8).any fun i => (s.cluster (8 * d + i)).caps.any fun c => c.active

/-- A rank of a die has had no request for PD_TIMER (R266): none waits for it, and none has needed it within that time. -/
def Dram.rankIdle (x : Dram) (ch rank : Nat) (tb : Tb) : Bool :=
  decide (x.lastUse.getD (2 * ch + rank) 0 + x.inUse ch tb 1 * 1000 ≤ tb)
    && x.reqs.all fun q => !(q.waits x.st ch && (x.ranksOf q.addr q.len).contains (2 * ch + rank))

/-- DRAM_POWER_DOWN (R266): a rank has had no request for PD_TIMER. -/
def execDramPowerDown (t : Tb) (d ch rank : Nat) (s : State) : Host.Outcome State Fault Refusal :=
  let s := s.at t
  let x := (s.die d).dram
  .next (if s.hasDie d && s.dramUp d && decide (ch < 2) && hasBit x.chOk ch && decide (rank ≤ bit x.ranksM1)
      && x.inUse ch s.tb 1 != 0 && x.rankIdle ch rank s.tb && !s.ranksHeld d then
      s.updDram d fun x => { x with lowPower := x.lowPower.set (2 * ch + rank) true }
    else s)

/-- AGE_PROMOTION (R263): the oldest request that has waited longer than AGE_LIMIT is promoted. -/
def execAgePromotion (t : Tb) (d : Nat) (s : State) : Host.Outcome State Fault Refusal :=
  let s := s.at t
  .next (if s.hasDie d && s.dramUp d then (s.dramLive d).updDram d fun x => x.promote s.tb else s)

/-! ### DRAM_RETRAIN -/

/-- What keeps a FULL retrain from a die (R271). -/
def State.fullBlocked (s : State) (d : Nat) : Bool :=
  (s.images.any fun i => hasBit i.dieMask d) || (s.table.any fun r => r.die == d)
    || (List.range 8).any fun i => s.clusterHeld (8 * d + i) || (s.cluster (8 * d + i)).caps.any fun c => c.active

/-- A FULL retrain starts (R271): the die is in INIT with caps of 0, and its content is lost. -/
def State.fullStart (s : State) (d : Nat) (tag : BitVec 12) : State :=
  let s := s.dieContentLost d 0x01 0
  (s.updDie d fun x => { x with bwCap := 0, springCap := 0 }).updDram d fun x =>
    { x with
      st := .init, chOk := 0, sizeGib := 0, reforming := false, retraining := true, fullRun := true, wanted := none
      eyeUse := x.eyeMin, sweeps := List.replicate 2 Sweep.none, waiters := x.waiters ++ [tag] }

/-- DRAM_RETRAIN at its turn (R270, R271). The state is checked again: a FULL retrain that the die no longer allows ends
with BAD_STATE, a TRACK on a die whose DRAM has gone OFFLINE with HW_FAULT, DRAM_LOST (log entry 39). -/
def State.runRetrain (s : State) (h : Hdr) (d : Nat) (full : Bool) : State :=
  if full then if s.fullBlocked d then s.finish h.tag .badState dState 0 0 else s.fullStart d h.tag
  else if s.dramUp d then (s.wantRetrain d).updDram d fun x => { x with waiters := x.waiters ++ [h.tag] }
  else s.finish h.tag .hwFault 0x07 0 0

/-- A TRACK command is taken into the retraining that is wanted or in progress (R275). -/
def State.merges (s : State) (d : Nat) : Bool :=
  let x := (s.die d).dram
  s.dramUp d && (x.retraining || x.wanted.isSome)

/-- FULL_RETRAIN_DONE (R268, R271): the address space is formed again, and the caps follow the state. -/
def State.fullDone (s : State) (d : Nat) (env : DramEnv) : State :=
  if s.hasDie d && (s.die d).dram.fullRun then
    let tags := (s.die d).dram.waiters
    let s := s.trainDie d env (s.die d).thm.formed
    let s := s.updDie d fun x => if x.st = .active then x else { x with bwCap := 0, springCap := 0 }
    s.retrainReplies d tags
  else s

end Sys2Proof.Machine
end

