-- ==== Sys2Proof/Machine/ThermalRows.lean ====
section
/-! DEFINITION. The thermal unit of a die at work (R395 to R410): conversions, the watch, the thermal states, load shedding
and THERMAL_OFF, and the thermal commands (R330). -/

namespace Sys2Proof.Machine

/-! ### Conversions -/

/-- Time of a conversion in ns (R396). -/
abbrev convNs : Nat := 1200000

/-- Ask the converter for a conversion (R396): a junction conversion merges with one that waits, else it comes last. -/
def Thermal.ask (x : Thermal) (sensor : Nat) (tags : List (BitVec 12)) (tb : Tb) : Thermal :=
  match x.convs with
  | [] => { x with convs := [{ sensor, tags }], convTb := tb + convNs }
  | c :: cs =>
    match (if sensor = 0 then cs.findIdx? fun e => e.sensor == 0 else none) with
    | some i => { x with convs := c :: cs.modify i fun e => { e with tags := e.tags ++ tags } }
    | none => { x with convs := c :: cs ++ [{ sensor, tags }] }

/-- The conversion in progress is over; the next one starts (R396). -/
def Thermal.next (x : Thermal) : Thermal := { x with convs := x.convs.drop 1, convTb := x.convTb + convNs }

/-- The bound of a THERMAL_READ in ns: the conversions ahead, its own, and 10 µs (R396). -/
def Thermal.readBound (x : Thermal) : Nat := convNs * (1 + x.convs.length) + 10000

/-- A reading with its offset (R395); 0x8000 where it cannot be formed. -/
def State.reading (s : State) (d sensor : Nat) (raw : Option (BitVec 16)) : BitVec 16 :=
  match raw with
  | some v => BitVec.ofInt 16 (max (-32767) (min 32767 (v.toInt + s.thermalOffset d sensor)))
  | none => 0x8000

/-! ### Commands -/

/-- THERMAL_READ (R330, R395, R396). -/
def execThermalRead (t : Tb) (h : Hdr) (die : BitVec 8) (sensor : BitVec 8) (s : State) : Host.Outcome State Fault Refusal :=
  let d := die.toNat
  let plan (s : State) : (Status × Nat) ⊕ Plan :=
    orPlan (s.unavailable [d] false <|> firstErr [(sensor == 0 || (s.die d).thm.extType != 0, .badState, dState)])
      { dies := dieBit d, kind := .thermal d sensor.toNat, ask := s.timed h (s.bound (s.die d).thm.readBound) }
  .next (s.request t (.thermalRead t h die sensor) plan fun s _ _ _ =>
    s.updThm d fun x => x.ask sensor.toNat [h.tag] s.tb)

/-- The settings of the groups that APPLY names (R398). -/
def Thermal.config (x : Thermal) (apply : BitVec 8) (watchMs warn throttle shutdown graceMs : BitVec 16)
    (extType : BitVec 8) (a b c : BitVec 32) : Thermal :=
  let on (i : Nat) : Bool := hasBit apply i
  { x with
    watchMs := if on 0 then watchMs else x.watchMs
    watching := if on 0 then watchMs != 0 else x.watching
    warn := if on 1 then warn else x.warn
    throttle := if on 1 then throttle else x.throttle
    shut := if on 1 then shutdown else x.shut
    graceMs := if on 2 then graceMs else x.graceMs
    extType := if on 3 then extType.setWidth 2 else x.extType
    shA := if on 3 then a else x.shA
    shB := if on 3 then b else x.shB
    shC := if on 3 then c else x.shC }

/-- THERMAL_CONFIG (R330, R397, R398): the watch of a die with a connected channel is not stopped. -/
def execThermalConfig (t : Tb) (h : Hdr) (die : BitVec 8) (apply : BitVec 8) (watchMs : BitVec 16) (warn : BitVec 16)
    (throttle : BitVec 16) (shutdown : BitVec 16) (graceMs : BitVec 16) (extType : BitVec 8) (a : BitVec 32)
    (b : BitVec 32) (c : BitVec 32) (s : State) : Host.Outcome State Fault Refusal :=
  let d := die.toNat
  let stops := hasBit apply 0 && watchMs == 0
  let plan (s : State) : (Status × Nat) ⊕ Plan :=
    orPlan (s.unavailable [d] false <|> firstErr
        [(!stops || (List.range 64).all fun i => !s.connected (64 * d + i), .badState, dState)])
      { dies := dieBit d, ask := s.timed h (s.tb + 15000) }
  .next (s.requestNow t h
    (.thermalConfig t h die apply watchMs warn throttle shutdown graceMs extType a b c) plan fun s =>
      (0, s.updThm d fun x => x.config apply watchMs warn throttle shutdown graceMs extType a b c))

/-- THERMAL_CLEAR (R330, R407). -/
def execThermalClear (t : Tb) (h : Hdr) (die : BitVec 8) (s : State) : Host.Outcome State Fault Refusal :=
  let d := die.toNat
  let plan (s : State) : (Status × Nat) ⊕ Plan :=
    orPlan (s.unavailable [d] false <|> firstErr [((s.die d).st == .thermalOff, .badState, dState)])
      { dies := dieBit d, kind := .thermalClear d
        ask := s.timed h (s.bound ((s.die d).thm.readBound + 1000000)) }
  .next (s.request t (.thermalClear t h die) plan fun s _ _ _ => s.updThm d fun x => x.ask 0 [h.tag] s.tb)

/-- THERMAL_STATUS (R330, R415). -/
def execThermalStatus (t : Tb) (h : Hdr) (die : BitVec 8) (s : State) : Host.Outcome State Fault Refusal :=
  .next (s.immediate t (.thermalStatus t h die) fun s =>
    let x := s.die die.toNat
    ({ result := resultOf [(0x10, x.thm.st.code), (0x12, x.thm.tj.toNat), (0x14, x.loadCap), (0x18, x.thm.tjTb % 2 ^ 64)] },
     s))

/-! ### Thermal states -/

/-- A thermal event of a die (R339). -/
def thermalEv (code d : Nat) (tj : BitVec 16) (tb : Tb) : NewEvent :=
  { code, tb, locKind := 1, location := d, detail := tj.toNat }

/-- What a reading does to the thermal state (R399): the new state and the event. -/
def Thermal.move (x : Thermal) (v : Int) : ThmSt × Option Nat :=
  if x.st = .shutdown then (.shutdown, none)
  else if v ≥ x.shut.toInt then (.shutdown, some evThermalShutdown)
  else match x.st with
    | .throttle =>
      if v < x.throttle.toInt - 32 then
        (if v < x.warn.toInt - 32 then .normal else .warn, some evThermalCleared)
      else (.throttle, none)
    | .warn =>
      if v ≥ x.throttle.toInt then (.throttle, some evThrottle)
      else if v < x.warn.toInt - 32 then (.normal, some evThermalCleared)
      else (.warn, none)
    | _ =>
      if v ≥ x.throttle.toInt then (.throttle, some evThrottle)
      else if v ≥ x.warn.toInt then (.warn, some evThermalWarn)
      else (.normal, none)

/-- Enter THROTTLE, or leave it (R399, R400): the grace timer starts at the reading's TB, or stops. -/
def Thermal.enter (x : Thermal) (st : ThmSt) (tb : Tb) : Thermal :=
  if st = x.st then x
  else { x with
    st, steps := 0, graceTb := if st = .throttle then tb + x.graceMs.toNat * 1000000 else 0 }

/-- A thermal shutdown abandons a commit of calibration after the page in progress (R392, R409). -/
def State.commitStops (s : State) : State :=
  match s.serial.ops with
  | [] => s
  | o :: _ =>
    if o.kind ≠ 2 then s
    else if s.serial.busy then s.updOp fun o => { o with stop := true }
    else s.commitFails o false

/-- A reading moves the die between its thermal states (R392, R399, R404, R405, R409); a die that leaves THROTTLE has its load cap
back, unless it is THERMAL_OFF (R406). -/
def State.thermalMove (s : State) (d : Nat) (tj : BitVec 16) (tb : Tb) (rec : Option RecEnv) (boot : Option BootEnv) :
    State :=
  let x := (s.die d).thm
  let (st, ev) := x.move (tjValue tj)
  let s := s.updThm d fun x => x.enter st tb
  let s := if x.st = .throttle ∧ st ≠ .throttle then
      s.updDie d fun y => if y.st = .active then { y with loadCap := 16000 } else y
    else s
  match ev with
  | some code =>
    if code = evThermalShutdown then s.commitStops.fault (dieScope d) (thermalEv code d tj s.tb) rec boot
    else s.raise_ (thermalEv code d tj s.tb)
  | none => s

/-- A junction reading as a watch reading (R397): registers, deskew, and the check against DRAM_TRAIN_TJ while the watch
is on (R269). DESKEW_TJ follows the reading also while a run still uses the S of the reading before it (R98; DESIGN CHOICE,
unsafe, log entry 77). -/
def State.watchReading (s : State) (d : Nat) (tj : BitVec 16) (tb : Tb) : State :=
  let s := s.updDie d fun x =>
    { x with thm := x.thm.note tj tb, deskewTj := if tj = 0x8000 then x.deskewTj else tj }
  let far := (tj.toInt - (s.die d).dram.trainTj.toInt).natAbs > 160
  if tj ≠ 0x8000 ∧ (s.die d).thm.watching ∧ far then s.wantRetrain d else s

/-- THERMAL_CLEAR at its reading (R407): below WARN the die returns to service with its still codes applied and every
switch open. -/
def State.clearAt (s : State) (d : Nat) (tj : BitVec 16) (tag : BitVec 12) : State :=
  if (s.die d).st = .thermalOff ∧ tjValue tj < (s.die d).thm.warn.toInt then
    let s := s.stillAgain d
    let caps := (s.die d).dram.st.caps
    let s := s.updDie d fun x =>
      { x with
        st := .active, loadCap := 16000, bwCap := caps.1, springCap := caps.2
        thm := { x.thm with st := .normal, steps := 0, graceTb := 0 } }
    (s.raise_ (thermalEv evThermalCleared d tj s.tb)).finish tag .ok 0 0 0
  else s.finish tag .badState dState 0 0

/-- The commands that wait for a conversion are answered (R395, R396, R407). -/
def State.thermalReplies (s : State) (d : Nat) (v : BitVec 16) (tb : Tb) (tags : List (BitVec 12)) : State :=
  let res := resultOf [(0x10, v.toNat), (0x18, tb % 2 ^ 64)]
  tags.foldl (fun s tag =>
    match (s.work? tag).map Work.kind with
    | some (.thermal _ _) => s.finish tag .ok 0 res 0
    | some (.thermalClear _) => s.clearAt d v tag
    | _ => s) s

/-- THERMAL_WATCH (R396, R397): WATCH_MS after its last start the watch asks for a junction conversion. -/
def execThermalWatch (t : Tb) (d : Nat) (s : State) : Host.Outcome State Fault Refusal :=
  let s := s.at t
  let x := (s.die d).thm
  .next (if s.dieWorks d && x.watching && x.watchMs != 0 && decide (x.watchTb + x.watchMs.toNat * 1000000 ≤ s.tb) then
      s.updThm d fun x => { x.ask 0 [] s.tb with watchTb := s.tb }
    else s)

/-- THERMAL_CONVERSION (R395 to R399, R404, R405, R407): the conversion in progress is over; `reading` is what it read
before the offset is added, none where no reading can be formed. -/
def execThermalConversion (t : Tb) (d : Nat) (reading : Option (BitVec 16)) (rec : Option RecEnv) (boot : Option BootEnv)
    (s : State) : Host.Outcome State Fault Refusal :=
  let s := s.at t
  let x := (s.die d).thm
  .next (match x.convs with
    | [] => s
    | c :: _ =>
      if !s.dieWorks d || decide (s.tb < x.convTb) then s
      else
        let v := s.reading d c.sensor reading
        let s := s.updThm d Thermal.next
        if c.sensor = 0 then
          ((s.watchReading d v x.convTb).thermalReplies d v x.convTb c.tags).thermalMove d v x.convTb rec boot
        else if x.extType = 0 then c.tags.foldl (fun s tag => s.finish tag .badState dState 0 0) s
        else
          (s.updThm d fun y => { y with text := v, extTb := x.convTb }).thermalReplies d v x.convTb c.tags)

/-! ### Enforcement -/

/-- A run on a die that is on its way out: it is ending, or a stop waits for it. -/
def Run.leaving (r : Run) : Bool := r.state == .ending || r.stopTb.isSome

/-- The reservation table without the loads of runs that are leaving (R401). -/
def State.remaining (s : State) : List Resv :=
  s.runs.flatMap fun r =>
    (runResv r.a r.s r.windowEnd r.mapped r.loads (s.imgDies r.image)).map fun e =>
      if r.leaving then { e with load := 0 } else e

/-- Stop running runs on a die, the most recently started first, until the load of the rest fits its cap (R220, R401);
`seq` is the THROTTLE event of the step. `n` bounds how many. -/
def State.stopHot (s : State) (d seq : Nat) : Nat → State
  | 0 => s
  | n + 1 =>
    if (s.shortLoad s.remaining [] [d] s.tb none).isSome then
      let on := s.runs.filter fun r => r.started && !r.leaving && (s.imgDies r.image).contains d
      match on.foldl (fun (b : Option Run) r =>
          match b with
          | some x => if x.s ≤ r.s then some r else b
          | none => some r) none with
      | some r =>
        State.stopHot (s.updRun r.tag fun r => { r with stopTb := some (s.tb + 10000, .revoked, 0x02), cause := seq }) d seq n
      | none => s
    else s

/-- Disconnect channels that no accepted run holds until the standing charges fit the cap (R402): the largest first, on a
tie the highest channel. `es` are the channels with their charges; `n` bounds how many. -/
def State.shedCharges (s : State) (d : Nat) (es : List (Nat × Rat)) : Nat → State
  | 0 => s
  | n + 1 =>
    if (es.map (·.2)).sum ≤ (s.die d).loadCap then s
    else
      match es.foldl (fun (b : Option (Nat × Rat)) e =>
          match b with
          | some x => if x.2 ≤ e.2 then some e else b
          | none => some e) none with
      | some x =>
        let s := (s.orderlyDisconnect x.1).updThm d fun t => { t with shedCnt := inc32 t.shedCnt }
        State.shedCharges s d (es.filter fun e => e.1 != x.1) n
      | none => s

/-- The channels of a die that are connected and held by no accepted run, with their standing charges (R402). -/
def State.standing (s : State) (d : Nat) : List (Nat × Rat) :=
  (((List.range 64).map (· + 64 * d)).filter fun n => s.connected n && !s.held n && !(s.chan n).st.gangMember).map
    fun n => (n, s.charge n)

/-- An enforcement step (R400 to R402). -/
def State.enforce (s : State) (d : Nat) : State :=
  let k := (s.die d).thm.steps + 1
  let tj := (s.die d).thm.tj
  let s := s.updDie d fun x =>
    { x with
      loadCap := 16000 - 4000 * k
      thm := { x.thm with steps := k, graceTb := if k < 4 then x.thm.graceTb + x.thm.graceMs.toNat * 1000000 else 0 } }
  let (seq, s) := s.raise (thermalEv evThrottle d tj s.tb)
  let s := (s.capFell d 0x02 seq).stopHot d seq s.runs.length
  s.shedCharges d (s.standing d) 64

/-- GRACE_EXPIRY (R400): at the end of a grace period the die is still in THROTTLE. -/
def execGraceExpiry (t : Tb) (d : Nat) (s : State) : Host.Outcome State Fault Refusal :=
  let s := s.at t
  let x := s.die d
  .next (if s.hasDie d && x.st == .active && x.thm.st == .throttle && x.thm.graceTb != 0 && decide (x.thm.steps < 4)
      && decide (x.thm.graceTb ≤ s.tb) then s.enforce d
    else s)

end Sys2Proof.Machine
end

