-- ==== Sys2Proof/Machine/Background.lean ====
section
/-! DEFINITION. Class 3 commands (R217): their decision, the order in which they execute on the resources they use, and the
steps of the part that complete them: the RPS (R20), the flash (R356, R361, R366) and DRAM retraining (R270, R271). -/

namespace Sys2Proof.Machine

/-! ### Order of execution -/

/-- A class 3 command at its turn (R217). -/
def State.run3 (s : State) (c : Instr) : State :=
  match c with
  | .calRead _ h die off len hostAddr => s.runCalRead h die.toNat off.toNat len.toNat hostAddr
  | .calWrite _ h die off len _ data => s.runCalWrite h die.toNat off.toNat len.toNat data
  | .calCommit _ h => s.runCalCommit h
  | .calStep _ h step arg meas => s.runCalStep (.calStep 0 h step arg meas)
  | .nvmRead _ h off len hostAddr => s.runNvmRead h off len hostAddr
  | .nvmWrite _ h off len _ data => s.runNvmWrite h off len data
  | .nvmErase _ h off len => s.runNvmErase h off len
  | .patchApply _ h => s.runPatch h
  | .dramConfig _ h mask apply ageNs pdUs rhThr interval eyeMin =>
    s.runDramConfig h mask apply ageNs pdUs rhThr interval eyeMin
  | .dramRetrain _ h die mode => s.runRetrain h die.toNat (mode == 1)
  | _ => s

/-- The command is a CAL_COMMIT, which starts only while no CAL_STEP executes (R391). -/
def isCommit : Instr → Bool
  | .calCommit _ _ => true
  | _ => false

/-- The resource of an accepted class 3 command without a final reply; none of any other work. -/
def Work.resource (w : Work) : BitVec 9 :=
  if w.done.isSome then 0 else match w.kind with
    | .class3 r _ _ => r
    | _ => 0

/-- The first command that waits and whose resource no earlier one uses: `used` are the resources of those before (R217,
R391). -/
def State.next3 (s : State) (used : BitVec 9) : List Work → Option (BitVec 12 × Instr)
  | [] => none
  | w :: ws =>
    let go := State.next3 s (used ||| w.resource) ws
    if w.done.isSome then go
    else match w.kind with
      | .class3 r _ (some c) =>
        if r &&& used = 0 ∧ ¬ (isCommit c ∧ s.dieNums.any s.stepping) then some (w.tag, c) else go
      | _ => go

/-- Start the class 3 commands whose turn has come; `n` bounds how many. -/
def State.pump3N (s : State) : Nat → State
  | 0 => s
  | n + 1 =>
    match s.next3 0 s.works with
    | some (tag, c) =>
      let s := s.updWork tag fun w => match w.kind with
        | .class3 r b _ => { w with kind := .class3 r b none }
        | _ => w
      State.pump3N (s.run3 c) n
    | none => s

/-- Start the class 3 commands whose turn has come (R217). -/
def State.pump3 (s : State) : State := s.pump3N s.works.length

/-- What a tick of the time base brings when no command waits (log entry 2): a class 3 command whose turn has come
starts. -/
def State.tick (s : State) : State := (s.at (s.tb + 1)).pump3

/-- The class 3 command accepted last starts now, unless it waits (R217). -/
def State.start3 (s : State) (c : Instr) : State :=
  match s.works.getLast?.map Work.kind with
  | some (.class3 _ _ none) => s.run3 c
  | _ => s

/-- A class 3 command: its checks, its place in the order of its resource, and its start (R209, R217). -/
def State.class3 (s : State) (t : Tb) (h : Hdr) (c : Instr) (err : State → Option (Status × Nat)) (res : BitVec 9)
    (bound : State → Nat) (dies : BitVec 8) : State :=
  s.request t c (fun s => orPlan (err s) (s.plan3 h c res (bound s) dies)) fun s _ _ _ => s.start3 c

/-- The resources of the dies of a mask (R217). -/
def dieRes (mask : BitVec 8) : BitVec 9 := mask.setWidth 9

/-! ### Calibration commands -/

/-- CAL_READ (R330, R387). -/
def execCalRead (t : Tb) (h : Hdr) (die : BitVec 8) (off : BitVec 32) (len : BitVec 32) (hostAddr : BitVec 64) (s : State) :
    Host.Outcome State Fault Refusal :=
  let mask := dieBit die.toNat
  .next (s.class3 t h (.calRead t h die off len hostAddr) (fun s => s.unavailable [die.toNat] false) (dieRes mask)
    (fun _ => calBound off.toNat len.toNat) mask)

/-- CAL_WRITE (R330, R381, R387, R388). -/
def execCalWrite (t : Tb) (h : Hdr) (die : BitVec 8) (off : BitVec 32) (len : BitVec 32) (hostAddr : BitVec 64)
    (data : List Byte) (s : State) : Host.Outcome State Fault Refusal :=
  let d := die.toNat
  .next (s.class3 t h (.calWrite t h die off len hostAddr data)
    (fun s => s.unavailable [d] false <|> s.calWriteErr d off.toNat len.toNat) (dieRes (dieBit d))
    (fun _ => calBound off.toNat len.toNat) (dieBit d))

/-- CAL_STEP (R330, R384 to R386). -/
def execCalStep (t : Tb) (h : Hdr) (step : BitVec 16) (arg : List Byte) (meas : List Int) (s : State) :
    Host.Outcome State Fault Refusal :=
  let mask := dieBit (calDie step arg)
  .next (s.class3 t h (.calStep t h step arg meas) (fun s => s.calStepErr step arg) (dieRes mask)
    (fun _ => calStepBound step.toNat (calArg arg 2 1)) mask)

/-- CAL_COMMIT (R330, R391): it waits for the flash, and for CAL_STEPs that execute. -/
def execCalCommit (t : Tb) (h : Hdr) (s : State) : Host.Outcome State Fault Refusal :=
  let c : Instr := .calCommit t h
  let plan (s : State) : (Status × Nat) ⊕ Plan :=
    let waits := s.busy3 flashRes || s.dieNums.any s.stepping
    orPlan (s.unavailable (bitsOf s.dieMask) false <|> firstErr [(!s.cal.full, .badState, dState)])
      { s.plan3 h c flashRes s.commitBound 0 with
        kind := .class3 flashRes s.commitBound (if waits then some c else none) }
  .next (s.request t c plan fun s _ _ _ => s.start3 c)

/-! ### NVM commands -/

/-- NVM_READ (R330, R362, R363). -/
def execNvmRead (t : Tb) (h : Hdr) (off : BitVec 32) (len : BitVec 32) (hostAddr : BitVec 64) (s : State) :
    Host.Outcome State Fault Refusal :=
  .next (s.class3 t h (.nvmRead t h off len hostAddr) (fun _ => none) flashRes (fun s => s.serial.readBound len.toNat) 0)

/-- NVM_WRITE (R330, R362, R363). -/
def execNvmWrite (t : Tb) (h : Hdr) (off : BitVec 32) (len : BitVec 32) (hostAddr : BitVec 64) (data : List Byte)
    (s : State) : Host.Outcome State Fault Refusal :=
  .next (s.class3 t h (.nvmWrite t h off len hostAddr data)
    (fun s => firstErr [(!s.regionLocked off.toNat len.toNat, .badState, dState)]) flashRes
    (fun s => s.serial.writeBound off.toNat len.toNat) 0)

/-- NVM_ERASE (R330, R362, R363). -/
def execNvmErase (t : Tb) (h : Hdr) (off : BitVec 32) (len : BitVec 32) (s : State) :
    Host.Outcome State Fault Refusal :=
  .next (s.class3 t h (.nvmErase t h off len)
    (fun s => firstErr [(!s.regionLocked off.toNat len.toNat, .badState, dState)]) flashRes
    (fun s => s.serial.eraseBound len.toNat) 0)

/-! ### Patch and DRAM commands -/

/-- PATCH_APPLY (R331, R332). The spec gives no bound of its own; it is that of its loads (R430; log entry 46). -/
def execPatchApply (t : Tb) (h : Hdr) (s : State) : Host.Outcome State Fault Refusal :=
  .next (s.class3 t h (.patchApply t h)
    (fun s => firstErr [(s.runs.isEmpty && !s.rpsBusy, .badState, dState)]) flashRes (fun _ => 50000) 0)

/-- DRAM_CONFIG (R331): its bound is left open, so it is a free value (log entry 7). -/
def execDramConfig (t : Tb) (h : Hdr) (mask : BitVec 8) (apply : BitVec 8) (ageNs : BitVec 16) (pdUs : BitVec 16)
    (rhThr : BitVec 16) (interval : BitVec 16) (eyeMin : BitVec 8) (s : State) : Host.Outcome State Fault Refusal :=
  let (v, s) := s.takeFree
  .next (s.class3 t h (.dramConfig t h mask apply ageNs pdUs rhThr interval eyeMin)
    (fun s => s.unavailable (diesOf mask) false) (dieRes mask) (fun _ => (v.setWidth 32).toNat) mask)

/-- DRAM_RETRAIN (R270, R271, R275, R331): a TRACK that finds a retraining of the die merges with it. -/
def execDramRetrain (t : Tb) (h : Hdr) (die : BitVec 8) (mode : BitVec 8) (s : State) :
    Host.Outcome State Fault Refusal :=
  let d := die.toNat
  let full := mode == 1
  let c : Instr := .dramRetrain t h die mode
  let bound := if full then 150000000 else 1412000
  let plan (s : State) : (Status × Nat) ⊕ Plan :=
    let p := s.plan3 h c (dieRes (dieBit d)) bound (dieBit d)
    orPlan (s.unavailable [d] false <|> (if full then none else s.noDram [d])
        <|> firstErr [(!full || !s.fullBlocked d, .badState, dState)])
      (if !full && s.merges d then { p with kind := .class3 (dieRes (dieBit d)) bound none } else p)
  .next (s.request t c plan fun s _ _ _ => s.start3 c)

/-! ### Steps of the part -/

/-- RPS_DONE (R20, R63, R418): the request on context `c` of die `d` completes. `kelvinFail` are the lanes whose Kelvin check
failed (R60). Nothing completes during a patch load or after an RPS fault (R428, R430). -/
def execRpsDone (t : Tb) (d c : Nat) (kelvinFail : BitVec 8) (s : State) : Host.Outcome State Fault Refusal :=
  let s := s.at t
  .next (match (s.ctx d c).cur with
    | some q =>
      if (s.die d).rps.loading || (s.die d).rps.fault then s else ((s.rpsEnd d c kelvinFail).calRouted d q).pump3
    | none => s)

/-- MAINTENANCE_WINDOW (R258, R264 to R266, R270). -/
def execMaintenanceWindow (t : Tb) (d ch : Nat) (mr4 mr4b : Option (BitVec 3)) (pass : BitVec 2) (wake : BitVec 2) (s : State) :
    Host.Outcome State Fault Refusal :=
  .next ((s.at t).window d ch mr4 mr4b pass wake).pump3

/-- FULL_RETRAIN_DONE (R268, R271). -/
def execFullRetrainDone (t : Tb) (d : Nat) (env : DramEnv) (s : State) : Host.Outcome State Fault Refusal :=
  .next ((s.at t).fullDone d env).pump3

/-- FLASH_OP_DONE (R361). -/
def execFlashOpDone (t : Tb) (s : State) : Host.Outcome State Fault Refusal := .next (s.at t).flashDone.pump3

/-- MMF (R356). -/
def execMmf (t : Tb) (s : State) : Host.Outcome State Fault Refusal := .next (s.at t).foreign.pump3

/-- MMF_BACKOFF_EXPIRY (R356). -/
def execMmfBackoffExpiry (t : Tb) (idle : Bool) (s : State) : Host.Outcome State Fault Refusal :=
  .next ((s.at t).backoff idle).pump3

/-- XIP_TIMEOUT (R361, R372). -/
def execXipTimeout (t : Tb) (s : State) : Host.Outcome State Fault Refusal := .next (s.at t).xipLate.pump3

/-- JOURNAL_APPEND (R349, R366, R372). -/
def execJournalAppend (t : Tb) (s : State) : Host.Outcome State Fault Refusal := .next (s.at t).appendJob.pump3

/-- SP_SLV_SEL_N_RISE (R368, R369). -/
def execSpSlvSelNRise (t : Tb) (partialWord : Bool) (s : State) : Host.Outcome State Fault Refusal :=
  .next ((s.at t).slaveRise partialWord).pump3

end Sys2Proof.Machine
end

