-- ==== Sys2Proof/Machine/Measure.lean ====
section
/-! DEFINITION. Measurement, capture and reduction: SAR samples and charge increments (R144 to R152), the capture commands
and steps (R153 to R159, R327, R328), fail commands (R168 to R170), recipe windows and close passes (R175 to R188). -/

namespace Sys2Proof.Machine

/-! ### SAR samples -/

/-- The SAR measures current (R144). -/
def sarCurrent (mode : Mode) (sel : BitVec 2) : Bool :=
  match mode with
  | .fv => sel != 1
  | .fi => sel == 2
  | .hizMeas => sel == 2
  | _ => false

/-- A conversion is overrange (R146, R376): by its corrected code, or by a raw code at an end of the range. -/
def overrange (current : Bool) (raw code : Nat) : Bool :=
  raw == 0 || raw == 262143
    || (if current then decide (((code : Int) - 131072).natAbs > 110100) else code == 0 || code == 262143)

/-- The stamp of the averaged sample of `n` conversions that has last completed by `t` (R145), a conversion being made 30 ns after
its stamp; none before the first. -/
def sarStamp (n t : Nat) : Option Tb :=
  if (n - 1) * 1000 + 30 ≤ t then some ((t - 30 - (n - 1) * 1000) / (n * 1000) * (n * 1000)) else none

/-- The flags of the reduction unit are written after a batch (R178, R184). -/
def State.endBatch (s : State) (k : Nat) (last : Bool) : State :=
  if last then s.withFlags k fun s => s.batchEnd k else s

/-- A sample's word reaches capture, reduction and the commands that wait for it (R145, R148, R323). -/
def State.deliverSar (s : State) (n stamp last value : Nat) (w : Word) (sm : RedSample) (batchEnd : Bool) : State :=
  let k := clusterOf n
  let l := laneOf n
  let s := s.capSample k l stamp (w.setWidth 64)
  let s := match s.runOfCluster k with
    | some r => s.feedRed k r.group sm
    | none => s
  let s := s.trigSample k l value stamp last
  let s := s.endBatch k batchEnd
  let waiting := s.works.filter fun x => x.done.isNone && (match x.kind with
    | .measure m from_ => m == n && decide (from_ ≤ stamp)
    | _ => false)
  waiting.foldl (fun s x => s.finish x.tag .ok 0 (resultOf [(0x10, w.toNat), (0x18, stamp)]) 0) s

/-- The corrected code of one conversion of channel `n`, and whether it is overrange (R146, R376); `p` is what the channel was when
it was made. -/
def State.conversion (s : State) (n : Nat) (p : PinPast) (raw : BitVec 18) : Nat × Bool :=
  let cur := sarCurrent p.mode (s.chan n).meas.sel
  let code := s.sarCode n cur p.range.toNat raw.toNat
  (code, overrange cur raw.toNat code)

/-- What a channel was at each of the `count` conversions of the sample stamped `stamp` (R145). -/
def Chan.conversions (c : Chan) (stamp : Tb) (count : Nat) : List PinPast :=
  (List.range count).map fun j => c.pastAt (stamp + 1000 * j + 30)

/-- The force stage works, so it can be at a clamp (R55). -/
def PinPast.forces (p : PinPast) : Bool := p.mode == .fv || p.mode == .fi

/-- The averaged sample of channel `n` from the raw codes of its conversions (R146, R147): SETTLE and OPEN are those of the
conversions' own instants. -/
def State.sarRead (s : State) (n : Nat) (stamp : Tb) (codes : List (BitVec 18)) (clamp : Bool) : RedSample :=
  let ps := (s.chan n).conversions stamp codes.length
  let cs := (ps.zip codes).map fun x => s.conversion n x.1 x.2
  { lane := laneOf n, charge := false, stamp
    value := ((cs.map Prod.fst).sum * 64 + codes.length / 2) / codes.length
    ovr := cs.any Prod.snd
    settle := ps.any PinPast.settle
    clamp := clamp && ps.any PinPast.forces
    open_ := ps.any fun p => !p.closed }

/-- The word of a sample (R147): QUANTITY and RANGE are those of its last conversion. -/
def State.sarWord (s : State) (n count : Nat) (x : RedSample) : Word :=
  let p := (s.chan n).pastAt (x.stamp + 1000 * (count - 1) + 30)
  sampleWord x.value.toNat x.ovr x.settle x.clamp x.open_ (sarCurrent p.mode (s.chan n).meas.sel) p.range.toNat

/-- A stage that was at its clamp sets CLAMP_HIT; one that regulates there at `tb` shows CLAMP_LIVE (R55). -/
def Chan.hitClamp (c : Chan) (hit live : Bool) (tb : Tb) : Chan :=
  let live := live && (c.present tb).forces
  { c with fl := { c.fl with clampHit := c.fl.clampHit || hit || live }, st := { c.st with clampLive := live } }

/-- SAR_SAMPLE (R145 to R148, R376): the averaged sample of channel `n` that has just completed. `codes` are its raw
conversions; `clamp` says that the stage was at a clamp at one of them, `hit` that it was between them, `live` that it regulates
there now (R55); `batchEnd` that no further sample arrives in the same FAB clock (R178). -/
def execSarSample (t : Tb) (n : Nat) (codes : List (BitVec 18)) (clamp hit live : Bool) (batchEnd : Bool) (s : State) :
    Host.Outcome State Fault Refusal :=
  let s := s.at t
  let c := s.chan n
  let avg := c.meas.avgM1.toNat + 1
  .next (match sarStamp avg s.tb with
    | none => s
    | some stamp =>
      if !s.hasChan n || codes.length != avg || decide (stamp < c.meas.avgFrom)
          || (c.meas.last != 0 && decide (stamp ≤ c.meas.lastTb)) then s
      else
        let x := s.sarRead n stamp codes clamp
        let w := s.sarWord n avg x
        let touched := (s.sarRead n stamp codes (clamp || hit)).clamp
        let s := s.updChan n fun c =>
          { c.hitClamp touched live s.tb with
            meas := { c.meas with lastTb := stamp, last := w, ovr := c.meas.ovr || x.ovr } }
        s.deliverSar n stamp (stamp + (avg - 1) * 1000) x.value.toNat w x batchEnd)

/-! ### Charge -/

/-- A corrected charge increment and the part of a unit left over, in 2^-36 units (R150, R374). -/
def chargeCorrect (p : Nat × Int) (frac dq : Int) : Int × Int :=
  let unit : Int := 2 ^ 36
  let x : Int := dq * (p.1 : Int) * 64 + p.2 * 1073741824 + frac
  let q : Int := roundAway ((x : Rat) / (unit : Rat))
  let top : Int := 2 ^ 47 - 1
  if q > top then (top, 0) else if q < -top then (-top, 0) else (q, x - q * unit)

/-- The charge register with an increment added (R152): held at its limit, which sets CHG_SAT. -/
def Meas.addCharge (m : Meas) (dq : Int) (stop : Tb) : Meas :=
  let sum := m.chg.toInt + dq
  let top : Int := 2 ^ 63 - 1
  let (v, sat) := if sum > top then (top, true) else if sum < -top then (-top, true) else (sum, false)
  { m with chg := BitVec.ofInt 64 v, chgTb := stop, chgSat := m.chgSat || sat }

/-- A charge register after a clear at TB `b` (R152). -/
def Meas.clearCharge (m : Meas) (b : Tb) : Meas := { m with chg := 0, clearAt := none, cleared := b }

/-- An increment taken into the charge register (R152): one that ends at or before the last clear was counted before it. -/
def Meas.countCharge (m : Meas) (dq : Int) (stop : Tb) : Meas :=
  if stop ≤ m.cleared then { m with chgTb := stop } else m.addCharge dq stop

/-- What a channel has been in the interval of the charge increment stamped `stamp`, 30 ns later than its name (R150). -/
def State.chargeSpans (s : State) (n : Nat) (stamp : Tb) : List PinPast :=
  (s.chan n).spans s.tb (stamp + 30) (stamp + 100030)

/-- The increment of channel `n` stamped `stamp` (R149 to R151): `q` is its corrected charge. -/
def State.chargeRead (s : State) (n : Nat) (stamp : Tb) (q : Int) (ovr clamp : Bool) : RedSample :=
  let ps := s.chargeSpans n stamp
  { lane := laneOf n, charge := true, stamp, value := q, ovr
    settle := ps.any PinPast.settle
    clamp := clamp && ps.any PinPast.forces
    open_ := ps.any fun p => !p.closed }

/-- The word of an increment (R151). -/
def State.chargeOf (s : State) (n : Nat) (x : RedSample) : BitVec 64 :=
  chargeWord x.value x.open_ x.settle x.ovr x.clamp ((s.chargeSpans n x.stamp).any fun p => !p.forces)
    ((s.chan n).pastAt (x.stamp + 100029)).range.toNat

/-- The record of a charge stream closes where its channel's switch has opened in (lo, hi] (R157, R167). -/
def State.capOpened (s : State) (n : Nat) (lo hi : Tb) : State :=
  match (s.chan n).openedIn lo hi with
  | some x => s.capDisconnect (clusterOf n) (8 + laneOf n) x
  | none => s

/-- The increment of a channel is counted, captured and reduced (R150 to R152): a clear that is due comes first. -/
def State.takeCharge (s : State) (n : Nat) (frac : Int) (x : RedSample) (live : Bool) : State :=
  let k := clusterOf n
  let w := s.chargeOf n x
  let s := s.updChan n fun c =>
    let m := if c.meas.clearAt.any fun b => decide (b ≤ x.stamp) then c.meas.clearCharge (c.meas.clearAt.getD 0) else c.meas
    { c.hitClamp x.clamp live s.tb with
      meas := { m.countCharge x.value (x.stamp + 100000) with frac } }
  let s := (s.capSample k (8 + laneOf n) x.stamp w).capOpened n (x.stamp + 30) (x.stamp + 100030)
  match s.runOfCluster k with
  | some r => s.feedRed k r.group x
  | none => s

/-- CHARGE_INCREMENT (R149 to R152): the increment of the interval from TB m × 100,000 closes. `dq` is the charge that the
decimator gives in units of 10 fC; `clamp` says that the stage was at a clamp as the interval began, `hit` that it came to one
in it, `live` that it regulates there now (R55); a channel whose switch was open for the whole interval, and a gang member,
produce none. -/
def execChargeIncrement (t : Tb) (n : Nat) (m : Nat) (dq : Int) (ovr clamp hit live : Bool) (batchEnd : Bool)
    (s : State) : Host.Outcome State Fault Refusal :=
  let s := s.at t
  let c := s.chan n
  let stamp := m * 100000
  .next (if !s.hasChan n || c.st.gangMember || decide (s.tb < stamp + 100030) || decide (stamp + 100000 ≤ c.meas.chgTb) then s
    else
      let s := s.capOpened n 0 (stamp + 30)
      let s := if (s.chargeSpans n stamp).any PinPast.closed then
          let (q, frac) := chargeCorrect (s.pairOf n (0x0E0 + 8 * (c.pastAt (stamp + 100029)).range.toNat)) c.meas.frac dq
          s.takeCharge n frac (s.chargeRead n stamp q ovr (clamp || hit)) live
        else s
      s.endBatch (clusterOf n) batchEnd)

/-- CHARGE_CLEAR (R152): accepted, it waits for its TB; one whose TB has passed is late. -/
def execChargeClear (t : Tb) (h : Hdr) (k : BitVec 8) (lanes : BitVec 8) (b : BitVec 64) (s : State) :
    Host.Outcome State Fault Refusal :=
  let d := dieOfCluster k.toNat
  let plan (s : State) : (Status × Nat) ⊕ Plan :=
    orPlan (s.unavailable [d] true)
      { group := s.groupOf k.toNat, dies := dieBit d, kind := .chargeClear k.toNat lanes b.toNat
        ask := s.timed h (b.toNat + 2000) }
  .next (s.request t (.chargeClear t h k lanes b) plan fun s _ _ _ =>
    if b.toNat < s.tb then s.finish h.tag .timeout 0x01 0 0 else s)

/-- CHARGE_CLEAR_TICK (R152): the clear of a command, or the one that a run asks for, at its TB. -/
def execChargeClearTick (t : Tb) (tag : BitVec 12) (s : State) : Host.Outcome State Fault Refusal :=
  let s := s.at t
  .next (match s.work? tag with
    | none => s
    | some w =>
      if w.done.isSome then s
      else match w.kind with
        | .chargeClear k lanes b =>
          if s.tb < b then s
          else
            let ns := (bitsOf lanes).map (chanOf k)
            (s.updChans (fun n _ => ns.contains n) fun _ c => { c with meas := c.meas.clearCharge b }).finish tag .ok 0 0 0
        | .run =>
          match s.run? tag with
          | some r =>
            let now := s.tb
            s.updChans (fun n c => r.mapped.contains n && c.meas.clearAt.any fun b => decide (b ≤ now)) fun _ c =>
              { c with meas := c.meas.clearCharge (c.meas.clearAt.getD 0) }
          | none => s
        | _ => s)

/-! ### Capture commands -/

/-- CAPTURE_CONFIG (R153, R154, R167, R206). -/
def execCaptureConfig (t : Tb) (h : Hdr) (k : BitVec 8) (i : BitVec 8) (mode : BitVec 8) (sram : BitVec 8)
    (chunk : BitVec 16) (pre : BitVec 16) (post : BitVec 16) (ringBase : BitVec 64) (ringSize : BitVec 32) (s : State) :
    Host.Outcome State Fault Refusal :=
  let kk := k.toNat
  let d := dieOfCluster kk
  let set (s : State) : Cap :=
    if mode = 0 then { Cap.reset with dropped := (s.cap kk i.toNat).dropped }
    else
      { Cap.reset with
        mode := mode.toNat, sramSize := sram.toNat, chunk := chunk.toNat, pre := pre.toNat, post := post.toNat
        ringBase := ringBase.toNat, ringSize := ringSize.toNat, dropped := (s.cap kk i.toNat).dropped
        rate := s.streamRate kk i.toNat }
  let plan (s : State) : (Status × Nat) ⊕ Plan :=
    let st := (s.trig kk).state
    match s.unavailable [d] true <|> (if mode = 0 then none else s.noDram [d]) <|> firstErr
      [(!(s.cap kk i.toNat).active, .badState, dState), (st == .idle || st == .done, .badState, dState)] with
    | some e => .inl e
    | none =>
      let next := s.updCap kk i.toNat fun _ => set s
      .inr { group := s.groupOf kk, dies := dieBit d, tab := s.table
             ask := s.timed h (s.bound 10000) fun c => if mode = 0 then none else next.shortDram next.table [d] c none }
  .next (s.requestNow t h (.captureConfig t h k i mode sram chunk pre post ringBase ringSize) plan fun s =>
    (0, s.updCap kk i.toNat fun _ => set s))

/-- The largest sample interval of some streams of a cluster. -/
def State.maxIval (s : State) (k : Nat) (streams : BitVec 16) : Nat := maxOf ((bitsOf streams).map (s.streamIval k))

/-- The plan of CAPTURE_START and CAPTURE_STOP (R214, R328). -/
def State.capPlan (s : State) (h : Hdr) (k : Nat) (streams : BitVec 16) (tick : Tb) (ok : Cap → Bool)
    (kind : WorkKind) : (Status × Nat) ⊕ Plan :=
  orPlan (s.unavailable [dieOfCluster k] true <|> firstErr
      [((bitsOf streams).all fun i => ok (s.cap k i), .badState, dState),
       (decide (s.tb + 20000 < tick), .timeout, 0x01)])
    { group := s.groupOf k, dies := dieBit (dieOfCluster k), kind
      ask := s.timed h (tick + s.maxIval k streams + 1000) }

/-- CAPTURE_START (R153, R328): CONTINUOUS streams become active at their first sample at or after the tick. -/
def execCaptureStart (t : Tb) (h : Hdr) (k : BitVec 8) (streams : BitVec 16) (tick : BitVec 64) (s : State) :
    Host.Outcome State Fault Refusal :=
  .next (s.request t (.captureStart t h k streams tick)
    (fun s => s.capPlan h k.toNat streams tick.toNat (fun c => c.mode == 1 && !c.active && c.startAt.isNone)
      (.capStart k.toNat streams tick.toNat))
    fun s _ _ _ => (bitsOf streams).foldl (fun s i =>
      s.updCap k.toNat i fun c => { c with startAt := some tick.toNat }) s)

/-- CAPTURE_STOP (R328): the streams close their records at their first sample at or after the tick. -/
def execCaptureStop (t : Tb) (h : Hdr) (k : BitVec 8) (streams : BitVec 16) (tick : BitVec 64) (s : State) :
    Host.Outcome State Fault Refusal :=
  .next (s.request t (.captureStop t h k streams tick)
    (fun s => s.capPlan h k.toNat streams tick.toNat (fun c => (c.active || c.startAt.isSome) && c.stopAt.isNone)
      (.capStop k.toNat streams tick.toNat))
    fun s _ _ _ => (bitsOf streams).foldl (fun s i =>
      s.updCap k.toNat i fun c => { c with stopAt := some tick.toNat }) s)

/-- Answer the CAPTURE_STARTs of a cluster whose streams have all started, or the CAPTURE_STOPs whose streams have all
stopped (R328). -/
def State.capReplies (s : State) (k : Nat) : State :=
  let done (w : Work) : Bool := w.done.isNone && (match w.kind with
    | .capStart j streams _ => j == k && (bitsOf streams).all fun i => (s.cap k i).startAt.isNone
    | .capStop j streams _ => j == k && (bitsOf streams).all fun i => (s.cap k i).stopAt.isNone
    | _ => false)
  (s.works.filter done).foldl (fun s w => s.finish w.tag .ok 0 0 0) s

/-- CAPTURE_START_TICK (R328): stream `i` of cluster `k` becomes active. -/
def execCaptureStartTick (t : Tb) (k i : Nat) (s : State) : Host.Outcome State Fault Refusal :=
  let s := s.at t
  .next (match (s.cap k i).startAt with
    | some tick =>
      if tick ≤ s.tb then (s.updCap k i fun c => { c with active := true, startAt := none }).capReplies k else s
    | none => s)

/-- CAPTURE_STOP_TICK (R328): stream `i` of cluster `k` closes its record and becomes inactive. -/
def execCaptureStopTick (t : Tb) (k i : Nat) (s : State) : Host.Outcome State Fault Refusal :=
  let s := s.at t
  .next (match (s.cap k i).stopAt with
    | some tick =>
      if tick ≤ s.tb then ((s.capStopNow k i).updCap k i fun c => { c with stopAt := none }).capReplies k else s
    | none => s)

/-- CAPTURE_RELEASE (R155): an offset that is no record start in the written span answers BAD_ARG. -/
def execCaptureRelease (t : Tb) (h : Hdr) (k : BitVec 8) (i : BitVec 8) (readOff : BitVec 32) (s : State) :
    Host.Outcome State Fault Refusal :=
  let kk := k.toNat
  let d := dieOfCluster kk
  let plan (s : State) : (Status × Nat) ⊕ Plan :=
    orPlan (s.unavailable [d] true <|> firstErr
      [((s.cap kk i.toNat).mode != 0, .badArg, dNoSuch),
       (((s.cap kk i.toNat).release readOff.toNat).isSome, .badArg, dRange)]) (s.quickPlan h (s.groupOf kk) (dieBit d))
  .next (s.requestNow t h (.captureRelease t h k i readOff) plan fun s =>
    (0, s.updCap kk i.toNat fun c => (c.release readOff.toNat).getD c))

/-- CAPTURE_QUERY (R327). -/
def execCaptureQuery (t : Tb) (h : Hdr) (k : BitVec 8) (i : BitVec 8) (s : State) : Host.Outcome State Fault Refusal :=
  .next (s.immediate t (.captureQuery t h k i) fun s =>
    match s.unavailable [dieOfCluster k.toNat] false with
    | some (st, e) => ({ status := st, detail := e }, s)
    | none =>
      let c := s.cap k.toNat i.toNat
      ({ result := resultOf [(0x10, c.mode), (0x11, min c.gapCount 255), (0x12, bit c.active + 2 * bit c.blocked),
                             (0x14, c.wr), (0x18, c.dropped)] }, s))

/-! ### Steps of capture -/

/-- GAP_RECORD (R159): the stream's share has room again. -/
def execGapRecord (t : Tb) (k i : Nat) (s : State) : Host.Outcome State Fault Refusal := .next ((s.at t).gapNow k i)

/-- RECORD_CLOSE_TIMEOUT (R157): a CONTINUOUS data record closes 100 ms after its first stamp. -/
def execRecordCloseTimeout (t : Tb) (k i : Nat) (s : State) : Host.Outcome State Fault Refusal :=
  let s := s.at t
  let c := s.cap k i
  .next (if c.mode == 1 && c.openRec.any fun r => decide (r.first + 100000000 ≤ s.tb) then
      s.updCap k i fun c => c.close k i 0
    else s)

/-- CAPTURE_DRAIN (R155): the oldest closed record goes to the stream's DRAM ring. -/
def execCaptureDrain (t : Tb) (k i : Nat) (s : State) : Host.Outcome State Fault Refusal := .next ((s.at t).drainNow k i)

/-! ### Fail commands -/

/-- FAIL_LOG_CONFIG (R170). -/
def execFailLogConfig (t : Tb) (h : Hdr) (k : BitVec 8) (policy : BitVec 8) (s : State) :
    Host.Outcome State Fault Refusal :=
  let kk := k.toNat
  let d := dieOfCluster kk
  let plan (s : State) : (Status × Nat) ⊕ Plan :=
    orPlan (s.unavailable [d] true <|> firstErr [(!s.clusterHeld kk, .badState, dHeld)])
      (s.quickPlan h (s.groupOf kk) (dieBit d))
  .next (s.requestNow t h (.failLogConfig t h k policy) plan fun s =>
    (0, s.updCluster kk fun c => { c with flog := { c.flog with last := policy == 1 } }))

/-- FAIL_CLEAR (R168, R169): outside runs it clears the lanes' FAIL_CNT and the cluster's first fail. -/
def execFailClear (t : Tb) (h : Hdr) (k : BitVec 8) (lanes : BitVec 8) (s : State) : Host.Outcome State Fault Refusal :=
  let kk := k.toNat
  let d := dieOfCluster kk
  let ns := lanesOf k lanes
  let plan (s : State) : (Status × Nat) ⊕ Plan :=
    orPlan (s.unavailable [d] true <|> firstErr [(!s.clusterHeld kk, .badState, dHeld)])
      (s.quickPlan h (s.groupOf kk) (dieBit d))
  .next (s.requestNow t h (.failClear t h k lanes) plan fun s =>
    (0, (s.updChans (fun n _ => ns.contains n) fun _ c => { c with meas := { c.meas with fails := 0 } }).updCluster kk
      fun c => { c with ff := FirstFail.reset }))

/-! ### Recipe windows -/

/-- WINDOW_OPEN (R174, R175, R184): the window of recipe `i` opens at σ_TB + SKIP. -/
def execWindowOpen (t : Tb) (k i : Nat) (s : State) : Host.Outcome State Fault Refusal :=
  let s := s.at t
  let due := (s.red k).windows.any fun w =>
    w.recipe == i && !w.isOpen && w.insts.isEmpty && decide (w.start ≤ s.tb)
  .next (if due then s.withFlags k fun s => s.openWindow k i else s)

/-- CLOSE_PASS (R178, R183, R187): the close pass that comes next in cluster `k`, if it is that of recipe `i` and its last
sample is complete. -/
def execClosePass (t : Tb) (k i : Nat) (s : State) : Host.Outcome State Fault Refusal :=
  let s := s.at t
  .next (match s.runOfCluster k with
    | none => s
    | some r =>
      if s.passDue k i then (s.withFlags k fun s => s.closePass k r.group i).lastPass k else s)

end Sys2Proof.Machine
end

