-- ==== Sys2Proof/Machine/Trigger.lean ====
section
/-! DEFINITION. The trigger commands and steps (R160 to R167, R325) and the TRIG_IN lines (R28). -/

namespace Sys2Proof.Machine

/-- The present level of an engine's source (R160): a TRIG_IN line, a masked flag or a timer; pulses rest low. -/
def State.sourceLevel (s : State) (k : Nat) (g : Trig) : Bool :=
  let src := g.source.toNat
  if 5 ≤ src ∧ src ≤ 8 then hasBit s.ripple.trigLv (src - 5)
  else if src = 11 then decide ((s.red k).flags &&& g.select ≠ 0)
  else if src = 13 then ((s.seq k).timers.getD (g.select.toNat % 4) default).expired
  else false

/-- The engine is at rest: IDLE or DONE (R163). -/
def Trig.atRest (g : Trig) : Bool := g.state == .idle || g.state == .done

/-- TRIG_CONFIG (R160 to R162): the engine's own settings; it goes to IDLE. -/
def execTrigConfig (t : Tb) (h : Hdr) (k : BitVec 8) (source : BitVec 4) (cond : BitVec 2) (pol : BitVec 2)
    (select : BitVec 16) (lane : BitVec 8) (thrHi : BitVec 32) (thrLo : BitVec 32) (s : State) :
    Host.Outcome State Fault Refusal :=
  let kk := k.toNat
  let d := dieOfCluster kk
  let plan (s : State) : (Status × Nat) ⊕ Plan :=
    orPlan (s.unavailable [d] true <|> firstErr [((s.trig kk).atRest, .badState, dTrigger)])
      (s.quickPlan h (s.groupOf kk) (dieBit d))
  .next (s.requestNow t h (.trigConfig t h k source cond pol select lane thrHi thrLo) plan fun s =>
    let g : Trig := { s.trig kk with
      state := .idle, source, cond, pol, select, lane := lane.setWidth 3, thrHi := thrHi.setWidth 24
      thrLo := thrLo.setWidth 24, zone := none, inbox := [], ignFrom := none }
    (0, s.updTrig kk fun _ => { g with level := s.sourceLevel kk g }))

/-- The clusters that a TRIG_ARM or TRIG_DISARM names: a lock group's members, or a cluster in no lock group. -/
def State.armed (s : State) (kind id : Nat) : List Nat := if kind = 0 then s.membersOf id else [id]

/-- A TRIG_ARM is still waiting on a cluster. -/
def State.armPending (s : State) (k : Nat) : Bool := (s.trig k).armAt.isSome

/-- TRIG_ARM (R163): the group settings are taken, and the engines arm at a. -/
def execTrigArm (t : Tb) (h : Hdr) (kind : BitVec 8) (id : BitVec 8) (opts : BitVec 8) (max : BitVec 32)
    (hold : BitVec 64) (a : BitVec 64) (s : State) : Host.Outcome State Fault Refusal :=
  let ks (s : State) : List Nat := s.armed kind.toNat id.toNat
  let plan (s : State) : (Status × Nat) ⊕ Plan :=
    let ms := ks s
    let ds := (ms.map dieOfCluster).eraseDups
    let useful := ms.any fun k => (s.trig k).source != 0 || (s.cluster k).caps.any fun c => c.mode == 2
    orPlan (firstErr [(useful, .badArg, dRange)] <|> s.unavailable ds true <|> firstErr
        [(ms.all fun k => (s.trig k).atRest && !s.armPending k, .badState, dTrigger),
         (decide (s.tb + 20000 < a.toNat), .timeout, 0x01)])
      { group := if kind = 0 then some id.toNat else none, dies := maskOf 8 ds
        kind := .trigArm kind.toNat id.toNat a.toNat, ask := s.timed h (a.toNat + 1000) }
  .next (s.request t (.trigArm t h kind id opts max hold a) plan fun s _ _ _ =>
    let ms := ks s
    let win := s.postWindow ms
    s.updClusters (fun k _ => ms.contains k) fun _ c =>
      { c with trig := { c.trig with
          holdMode := hasBit opts 0, rearm := hasBit opts 1, logIgn := hasBit opts 2, max, hold := hold.setWidth 48
          armAt := some a.toNat, armWin := win } })

/-- TRIG_DISARM (R163): the engines go to IDLE at D. -/
def execTrigDisarm (t : Tb) (h : Hdr) (kind : BitVec 8) (id : BitVec 8) (d : BitVec 64) (s : State) :
    Host.Outcome State Fault Refusal :=
  let ks (s : State) : List Nat := s.armed kind.toNat id.toNat
  let plan (s : State) : (Status × Nat) ⊕ Plan :=
    let ds := ((ks s).map dieOfCluster).eraseDups
    orPlan (s.unavailable ds true <|> firstErr [(decide (s.tb + 20000 < d.toNat), .timeout, 0x01)])
      { group := if kind = 0 then some id.toNat else none, dies := maskOf 8 ds
        kind := .trigDisarm kind.toNat id.toNat d.toNat, ask := s.timed h (d.toNat + 1000) }
  .next (s.request t (.trigDisarm t h kind id d) plan fun s _ _ _ =>
    let ms := ks s
    s.updClusters (fun k _ => ms.contains k) fun _ c => { c with trig := { c.trig with disarmAt := some d.toNat } })

/-- Answer the TRIG_ARMs whose engines have all armed, or the TRIG_DISARMs whose engines have all gone to IDLE. -/
def State.trigReplies (s : State) (kind id : Nat) (disarm : Bool) : State :=
  let mine (w : Work) : Bool := w.done.isNone && (match w.kind with
    | .trigArm x y _ => !disarm && x == kind && y == id
    | .trigDisarm x y _ => disarm && x == kind && y == id
    | _ => false)
  (s.works.filter mine).foldl (fun s w => s.finish w.tag .ok 0 0 0) s

/-- The engines of some clusters whose arm tick has come enter ARMED (R162, R163). -/
def State.armAll (s : State) (ks : List Nat) (tick : Tb) : State :=
  ks.foldl (fun s k =>
    if (s.trig k).armAt.isSome ∧ (s.trig k).atRest then
      (s.updTrig k fun g =>
        { g with armAt := none, win := g.armWin, count := 0, ignoredArm := 0, fires := 0
                 ignFrom := none }).armEngine k tick
    else s) s

/-- RIPPLE_ARM (R26, R163): the ARM line of a group is seen at a, or a cluster arms itself. A spanning group's master sends
the event instead; the engines act when the link's event is due (R105). -/
def execRippleArm (t : Tb) (kind : BitVec 1) (id : Nat) (s : State) : Host.Outcome State Fault Refusal :=
  let s := s.at t
  let ks := s.armed kind.toNat id
  let at_ := (ks.filterMap fun k => (s.trig k).armAt).foldl max 0
  let waits := ks.any s.armPending
  .next (if !waits then s
    else if kind = 0 ∧ (s.group id).span then
      if at_ ≤ s.tb + 6 then s.lineUp id lnArm (at_ - 6) 1 else s
    else if at_ ≤ s.tb then
      let s := if kind = 0 then s.lineUp id lnArm (at_ - 6) 1 else s
      (s.armAll ks at_).trigReplies kind.toNat id false
    else s)

/-- The members of a group see FIRE as a branch source (R126). -/
def State.fireSource (s : State) (ks : List Nat) (origin len : Nat) : State :=
  ks.foldl (fun s k => s.srcPulse k 8 (origin : Rat) len) s

/-- RIPPLE_FIRE (R26, R27, R164 to R166): a fire is acted on 6 ns after its tick. -/
def execRippleFire (t : Tb) (kind : BitVec 1) (id : Nat) (s : State) : Host.Outcome State Fault Refusal :=
  let s := s.at t
  let s := (s.armed kind.toNat id).foldl (fun s k => s.trigFlush k s.tb) s
  .next (if kind = 0 then
      match s.ripple.fire.getD id [] with
      | [] => s
      | l :: rest =>
        if l.at_ + 6 ≤ s.tb then
          let s := { s with ripple := { s.ripple with fire := s.ripple.fire.set id rest } }
          let ks := s.membersOf id
          (s.fireSource ks l.at_ l.len).fireAll ks (some id) l.at_ l.len (l.at_ + 6) false
        else s
    else
      match (s.trig id).mine.foldl (fun ls p => addLine ls p.1 1) [] with
      | l :: _ =>
        if (s.groupOf id).isNone && decide (l.at_ + 6 ≤ s.tb) then s.fireAll [id] none l.at_ l.len (l.at_ + 6) false else s
      | [] => s)

/-- HOLDOFF_END (R162, R165). -/
def execHoldoffEnd (t : Tb) (k : Nat) (s : State) : Host.Outcome State Fault Refusal :=
  let s := s.at t
  let g := s.trig k
  .next (match g.holdEnd with
    | some e =>
      if g.state = .holdoff ∧ e ≤ s.tb then
        s.updTrig k fun g =>
          if g.rearm && (g.max == 0 || decide (g.count < g.max.toNat)) then
            { g with state := .rearm, rearmEnd := e + 1000, holdEnd := none, holdStop := some e }
          else { g.stopIgnoring e with state := .done, holdEnd := none }
      else s
    | none => s)

/-- REARM_END (R162): 1,000 ns after the hold-off end the engine is ARMED again. -/
def execRearmEnd (t : Tb) (k : Nat) (s : State) : Host.Outcome State Fault Refusal :=
  let s := s.at t
  let g := s.trig k
  .next (if g.state = .rearm ∧ g.rearmEnd ≤ s.tb then
      (s.updTrig k fun g => g.stopIgnoring g.rearmEnd).armEngine k g.rearmEnd
    else s)

/-- DISARM_TICK (R163, R167): at D every named engine goes to IDLE. -/
def execDisarmTick (t : Tb) (kind : BitVec 1) (id : Nat) (s : State) : Host.Outcome State Fault Refusal :=
  let s := s.at t
  let now := s.tb
  let ks := (s.armed kind.toNat id).filter fun k => (s.trig k).disarmAt.any fun d => decide (d ≤ now)
  .next (match ks with
    | [] => s
    | _ :: _ =>
      let s := ks.foldl (fun s k =>
        let d := ((s.trig k).disarmAt).getD now
        ((s.trigFlush k (d - 1)).updTrig k fun g =>
          { g.stopIgnoring d with state := .idle, disarmAt := none, holdEnd := none }).stopWindows k) s
      s.trigReplies kind.toNat id true)

/-- TRIG_IN_EDGE (R28, R126, R160): a TRIG_IN ball changes; every die's branch and trigger sources follow. -/
def execTrigInEdge (t : Tb) (line : BitVec 2) (level : Bool) (s : State) : Host.Outcome State Fault Refusal :=
  let s := s.at t
  let i := line.toNat
  .next (if hasBit s.ripple.trigLv i = level then s
    else
      let p := s.ripple
      let s := { s with ripple := { p with
        trigLv := if level then setBit p.trigLv i else clearBit p.trigLv i
        trigIn := if level then p.trigIn.modify i fun l => l.assert (s.tb + 3) 1 else p.trigIn } }
      s.clusterNums.foldl (fun s k =>
        let s := s.srcEvent k (4 + i) 0 ((s.tb : Nat) : Rat) level
        if (s.trig k).source.toNat = 5 + i then s.trigSee k (s.tb + 9) s.tb (some level) else s) s)

end Sys2Proof.Machine
end

