-- ==== Sys2Proof/Machine/Link.lean ====
section
/-! DEFINITION. Lock groups (R199, R329), the pattern PLLs (R85 to R94, R469), the weir's horizons (R204), TB_ALIGN and
the lock link (R101 to R106). -/

namespace Sys2Proof.Machine

/-! ### Lock groups and the weir -/

/-- A group without some clusters (R199): it keeps its other members, and its master falls to the lowest where the master
is among them. -/
def Group.without (g : Group) (gone : BitVec 64) : Group :=
  let members := g.members &&& ~~~gone
  if members = 0 then Group.empty else { g with members, master := g.master.filter fun k => hasBit members k }

/-- The groups other than `g` that lose a member to it. -/
def State.losers (s : State) (g : Nat) (mask : BitVec 64) : List Nat :=
  (List.range 32).filter fun o => o != g && (s.group o).members &&& mask != 0

/-- LOCK_GROUP_SET (R163, R199, R329). -/
def execLockGroupSet (t : Tb) (h : Hdr) (group master flags slot : BitVec 8) (mask : BitVec 64) (s : State) :
    Host.Outcome State Fault Refusal :=
  let g := group.toNat
  let plan (s : State) : (Status × Nat) ⊕ Plan :=
    let ks := bitsOf mask
    let ds := (ks.map dieOfCluster).eraseDups
    let ls := s.losers g mask
    let engines := ks ++ (g :: ls).flatMap s.membersOf
    orPlan (s.unavailable ds true <|> firstErr
        [((g :: ls).all fun o => (s.runsOf o).isEmpty, .badState, dHeld),
         (engines.all fun k => (s.trig k).atRest, .badState, dTrigger)])
      (s.quickPlan h (some g) (maskOf 8 ds))
  .next (s.requestNow t h (.lockGroupSet t h group master flags slot mask) plan fun s =>
    let others := s.groups.map fun x => x.without mask
    let new : Group :=
      if mask = 0 then Group.empty
      else { members := mask, master := if master = 0xFF then none else some master.toNat, span := hasBit flags 0
             slot := slot.toNat }
    (0, { s with groups := others.set g new }))

/-- LOCK_GROUP_QUERY (R329). -/
def execLockGroupQuery (t : Tb) (h : Hdr) (group : BitVec 8) (s : State) : Host.Outcome State Fault Refusal :=
  .next (s.immediate t (.lockGroupQuery t h group) fun s =>
    let g := group.toNat
    let st := match s.masterOf g with
      | some k => (s.trig k).state.code
      | none => 0
    ({ result := resultOf [(0x10, (s.group g).members.toNat), (0x18, (s.masterOf g).getD 0xFF),
        (0x19, s.groupFlags g), (0x1A, (s.group g).slot), (0x1B, (s.runsOf g).length), (0x1C, st)] }, s))

/-- WEIR_CONFIG (R204, R329): 0 leaves a horizon unchanged. -/
def execWeirConfig (t : Tb) (h : Hdr) (horizonRun horizonBulk : BitVec 32) (s : State) :
    Host.Outcome State Fault Refusal :=
  let plan (s : State) : (Status × Nat) ⊕ Plan := .inr (s.quickPlan h none 0)
  .next (s.requestNow t h (.weirConfig t h horizonRun horizonBulk) plan fun s =>
    let keep (v : BitVec 32) (old : Nat) : Nat := if v = 0 then old else v.toNat
    (0, { s with weir := { s.weir with horizonRun := keep horizonRun s.weir.horizonRun
                                       horizonBulk := keep horizonBulk s.weir.horizonBulk } }))

/-! ### Pattern PLLs -/

/-- Start a PLL_SET: a tracked step where R88 allows one, else a relock (R88, R89). Both clear SYNCED. HOLDOVER stays as it
is while a relock begun in holdover runs (DESIGN CHOICE, unsafe, log entry 77). -/
def Pll.begin (p : Pll) (x : PllSetting) (tag : BitVec 12) (tb : Tb) : Pll :=
  let p := { p with synced := false, cmd := some tag }
  if p.locked && p.tracks x then p.track x tb
  else { p with relocking := true, tracking := false, locked := false, target := some x, startTb := tb }

/-- Start the next PLL_SET that waits on a die (R88). -/
def State.pllNext (s : State) (d : Nat) : State :=
  s.updPll d fun p =>
    match p.waiting with
    | [] => { p with cmd := none }
    | (tag, x) :: rest => { p with waiting := rest }.begin x tag s.tb

/-- The final reply of the PLL_SET in hand on a die, and the start of the next one (R88, R89). -/
def State.pllAnswer (s : State) (d : Nat) (st : Status) (detail : Nat) : State :=
  match (s.die d).pll.cmd with
  | some tag => (s.finish tag st detail 0 0).pllNext d
  | none => s

/-- No cluster of a die is held by a run. -/
def State.dieFree (s : State) (d : Nat) : Bool := (List.range 8).all fun c => !s.clusterHeld (8 * d + c)

/-- PLL_SETs accepted on a die whose final replies are not posted: those not formed, and those held for an earlier command
or by their outlet (R214). -/
def State.pllAhead (s : State) (d : Nat) : Nat :=
  (s.works.filter fun w => w.kind == .pllSet d).length
    + (s.outlets.map fun r => (r.held.filter fun x => x.last && x.reply.opcode == 0x0052 && hasBit x.dies d).length).sum

/-- PLL_SET (R85 to R89, R214, R329). -/
def execPllSet (t : Tb) (h : Hdr) (die : BitVec 8) (setting : PllArg) (s : State) : Host.Outcome State Fault Refusal :=
  let d := die.toNat
  let plan (s : State) : (Status × Nat) ⊕ Plan :=
    orPlan (s.unavailable [d] false <|> firstErr [(s.dieFree d, .badState, dHeld)])
      { dies := dieBit d, kind := .pllSet d, ask := s.timed h (s.bound (100000 * (1 + s.pllAhead d))) }
  .next (s.request t (.pllSet t h die setting) plan fun s _ _ _ =>
    s.updPll d fun p =>
      if p.cmd.isSome then { p with waiting := p.waiting ++ [(h.tag, pllSettingOf setting)] }
      else p.begin (pllSettingOf setting) h.tag s.tb)

/-- The sources of a die's engines that a loss of lock silenced are heard again (R160). -/
def State.trigHeard (s : State) (d : Nat) : State :=
  (List.range 8).foldl (fun s c =>
    if decide ((s.trig (8 * d + c)).source ∈ [9, 10, 13]) then s.trigAtLevel (8 * d + c) s.tb else s) s

/-- The pattern PLL of a die reaches lock (R89, R93, R469). -/
def State.relocked (s : State) (d : Nat) : State := (s.updPll d fun p => p.lock s.tb).trigHeard d

/-- TRACKED_STEP_DONE (R88): the slew has reached its target. -/
def execTrackedStepDone (t : Tb) (d : Nat) (s : State) : Host.Outcome State Fault Refusal :=
  let s := s.at t
  let p := (s.die d).pll
  .next (if p.tracking ∧ p.startTb + p.stepNs ≤ s.tb then (s.updPll d fun p => p.arrive s.tb).pllAnswer d .ok 0 else s)

/-- RELOCK_DONE (R89): lock is reached within 50 µs, or the clocks go to holdover. -/
def execRelockDone (t : Tb) (d : Nat) (ok : Bool) (s : State) : Host.Outcome State Fault Refusal :=
  let s := s.at t
  let p := (s.die d).pll
  .next (if ¬ p.relocking then s
    else if ok ∧ s.tb ≤ p.startTb + 50000 then (s.relocked d).pllAnswer d .ok 0
    else if ¬ ok ∧ p.startTb + 50000 ≤ s.tb then
      (s.updPll d fun p => { p.hold s.tb with relocking := false }).pllAnswer d .hwFault 0x02
    else s)

/-- HOLDOVER_EXIT (R93, R469): the PLL has relocked at its last setting. -/
def execHoldoverExit (t : Tb) (d : Nat) (s : State) : Host.Outcome State Fault Refusal :=
  let s := s.at t
  let p := (s.die d).pll
  .next (if p.holdover ∧ ¬ p.relocking then s.relocked d else s)

/-- GUARD_HIT (R90): outside a relock and a holdover switch it raises an event. A holdover switch is the tick at which the
clocks go to holdover or come back (log entry 63). -/
def execGuardHit (t : Tb) (d : Nat) (s : State) : Host.Outcome State Fault Refusal :=
  let s := s.at t
  let p := (s.die d).pll
  let s := s.updPll d fun p => { p with guardHit := true }
  .next (if s.hasDie d && !p.relocking && p.switchTb != some s.tb then
      s.raise_ { code := evGuardHit, tb := s.tb, locKind := 1, location := d }
    else s)

/-- Every connected channel of a die enters still by the orderly path with cause 8, ahead of what waits on the RPS, with
the overrides of the runs that it is part of (R69 to R71, R93). -/
def State.lolStill (s : State) (d : Nat) : State :=
  (List.range 8).foldl (fun s c =>
    let k := 8 * d + c
    let m := maskOf 8 ((List.range 8).filter fun l => s.connected (chanOf k l))
    let s := match s.runOfCluster k with
      | some r => s.takeOverrides r k
      | none => s
    let s := s.updLanes d c m fun _ x => { x with wave := none, grid := none, queue := [] }
    if m = 0 then s else (s.rpsDropWaiting d c m).rpsUrgent d c m (.still 8 0)) s

/-- The PLL_SYNCs that name die `d` and wait for their tick have lost it (R91). -/
def State.syncLost (s : State) (d : Nat) : State :=
  { s with works := s.works.map fun w => match w.kind with
      | .pllSync mask lost tick =>
        if hasBit mask d && w.done.isNone then { w with kind := .pllSync mask (setBit lost d) tick } else w
      | _ => w }

/-- PLL_LOL (R91, R93, R94): holdover clocks, masked strobes, the records, the abort of the die's groups, still channels,
and the final reply of a tracked step in progress. -/
def execPllLol (t : Tb) (d : Nat) (s : State) : Host.Outcome State Fault Refusal :=
  let s := s.at t
  .next (if s.hasDie d && (s.die d).pll.locked then
      let step := (s.die d).pll.tracking
      let s := s.updPll d fun p =>
        { p.hold s.tb with locked := false, synced := false, tracking := false, lol := true, lolTb := s.tb
                           lolCnt := inc32 p.lolCnt }
      let s := s.syncLost d
      let s := s.updClusters (fun k _ => dieOfCluster k == d) fun _ c => { c with seq := { c.seq with allMasked := true } }
      let s := s.fault { sev := .cluster, locKind := 1, location := d }
        { code := evPllLol, tb := s.tb, locKind := 1, location := d, detail := s.tb } none none
      let s := s.lolStill d
      if step then s.pllAnswer d .hwFault 0x03 else s
    else s)

/-- PLL_SYNC (R91, R214, R329). -/
def execPllSync (t : Tb) (h : Hdr) (mask : BitVec 8) (tick : BitVec 64) (s : State) :
    Host.Outcome State Fault Refusal :=
  let ds := bitsOf mask
  let plan (s : State) : (Status × Nat) ⊕ Plan :=
    orPlan (s.unavailable ds false <|> firstErr
        [(ds.all fun d => s.dieFree d && !(s.die d).pll.relocking, .badState, dSync),
         (decide (s.tb + 20000 < tick.toNat), .timeout, 0x01)])
      { dies := mask, kind := .pllSync mask 0 tick.toNat, ask := s.timed h (tick.toNat + 1000) }
  .next (s.request t (.pllSync t h mask tick) plan fun s _ _ _ => s)

/-- RIPPLE_SYNC (R26, R91): at its tick every named die that has kept its lock is reset; where its first edge falls within one VCO period
is open. -/
def execRippleSync (t : Tb) (tag : BitVec 12) (s : State) : Host.Outcome State Fault Refusal :=
  let s := s.at t
  .next (match s.work? tag with
    | none => s
    | some w =>
      match w.kind with
      | .pllSync mask lost tick =>
        if w.done.isNone ∧ tick ≤ s.tb then
          let ds := bitsOf mask
          let (bad, good) := ds.partition fun d => hasBit lost d || !(s.die d).pll.locked
          let s := s.syncDies good tick
          let s := { s with ripple := { s.ripple with sync := s.ripple.sync.assert (tick - 6) 1 } }
          let res := resultOf [(0x10, (maskOf 8 bad).toNat)]
          if bad.isEmpty then s.finish tag .ok 0 res 0 else s.finish tag .hwFault 0x03 res 0
        else s
      | _ => s)

/-! ### The lock link: settings and alignment -/

/-- LOCK_LINK_CFG (R101, R329). -/
def execLockLinkCfg (t : Tb) (h : Hdr) (role lat : BitVec 8) (s : State) : Host.Outcome State Fault Refusal :=
  let plan (s : State) : (Status × Nat) ⊕ Plan :=
    orPlan (firstErr [(s.groups.all fun g => !g.span, .badState, dState)]) (s.quickPlan h none 0)
  .next (s.requestNow t h (.lockLinkCfg t h role lat) plan fun s =>
    (0, s.updLink fun l =>
      let l := { l with role := role.toNat, lat := lat.toNat }
      if role = 0 then { l with up := false, dn := false, aligned := false, qUp := [], qDn := [] } else l))

/-- The residual phase error is within a number of fine units. -/
def LockLink.within (l : LockLink) (fine : Nat) : Bool := decide (l.phaseErr.toInt.natAbs ≤ fine)

/-- ALIGNED (R103, R104): TB values agree, the residual phase error is within ±10 ps, and an offset beyond ±500 ps has not
been seen since the link returned. -/
def LockLink.align (l : LockLink) : LockLink :=
  { l with aligned := l.role == 2 && l.up && decide (l.offset = 0) && l.within 20 && !l.returned }

/-- TB_ALIGN (R104, R163, R329): the FOLLOWER's TB steps to the master-side time. -/
def execTbAlign (t : Tb) (h : Hdr) (s : State) : Host.Outcome State Fault Refusal :=
  let plan (s : State) : (Status × Nat) ⊕ Plan :=
    orPlan (firstErr
        [(s.link.role == 2 && (s.works.all fun w => w.done.isSome) && s.runs.isEmpty
            && (s.dies.all fun x => x.refdac.all fun r => !r.pending), .badState, dState),
         (s.clusterNums.all fun k => (s.trig k).atRest, .badState, dTrigger)])
      (s.quickPlan h none 0)
  .next (s.requestNow t h (.tbAlign t h) plan fun s =>
    let old := s.tb
    let new : Tb := ((old : Int) + s.link.offset).toNat
    let s := s.updLink fun l => { l with offset := 0, returned := false, stray := false, trimTb := new }.align
    let s := if new = old then s
      else ({ s with tb := new, dies := s.dies.map fun x => { x with stepped := true } } : State).raise_
        { code := evTbStep, tb := new, detail := old }
    (resultOf [(0x10, old % 2 ^ 64), (0x18, new % 2 ^ 64)], s))

/-! ### The lock link: faults -/

/-- LL_FAULT of a port that concerns every spanning group (R106): kind 0 CRC, 2 LINK_LOST. -/
def State.linkFault (s : State) (dn : Bool) (kind : Nat) : State :=
  s.fault { sev := .cluster, locKind := 7, location := bit dn }
    { code := evLlFault, tb := s.tb, locKind := 7, location := bit dn, detail := kind } none none

/-- The spanning groups of a link slot. -/
def State.slotGroups (s : State) (slot : Nat) : List Nat :=
  (List.range 32).filter fun g => (s.group g).span && (s.group g).slot == slot

/-- An event of a slot was late (R106): LATE, ABORT sent for the slot, and the fault of its group. -/
def State.linkLate (s : State) (dn : Bool) (slot : Nat) : State :=
  let e : LlEvent := { slot, line := lnAbort, t8 := roundUp s.tb 8 }
  let s := s.updLink fun l =>
    let l := { l with late := true }
    if l.evs.contains e then l else { l with evs := l.evs ++ [e] }.send e s.tb true true
  let ev : NewEvent := { code := evLlFault, tb := s.tb, locKind := 7, location := bit dn, detail := 1 + 256 * slot }
  match s.slotGroups slot with
  | [] => s.raise_ ev
  | g :: _ => s.fault { sev := .cluster, locKind := 4, location := g } ev none none

/-- Raise the LL_FAULTs of events that found no frame in time (R106). -/
def State.linkOverdue (s : State) : State :=
  let xs := s.link.overdue
  xs.foldl (fun s x => s.linkLate (decide (8 ≤ x)) (x % 8)) (s.updLink fun l => { l with overdue := [] })

/-- LL_LINK_LOST (R106): no valid frame for 64 ns. -/
def execLlLinkLost (t : Tb) (dn : Bool) (s : State) : Host.Outcome State Fault Refusal :=
  let s := s.at t
  .next (if s.link.role ≠ 0 ∧ (if dn then s.link.dn else s.link.up) then
      (s.updLink fun l =>
        if dn then { l with dn := false, aligned := false, mgmtDn := [] }
        else { l with up := false, aligned := false, returned := true, mgmtUp := [] }).linkFault dn 2
    else s)

/-! ### The lock link: frames -/

/-- The CRC-8 of R102 over the low `n` bytes of a frame or superframe, the highest bit first. -/
def linkCrc (v n : Nat) : Nat := crc8 ((List.range n).reverse.map fun i => v / 256 ^ i % 256)

/-- SF_TB of the superframe that a port sends from `start` on (R102, R103): the sender's TB; a FOLLOWER relays on DN what came
by UP, with its own transit, in whole ticks, added. The transit is rounded down (DESIGN CHOICE, unsafe, log entry 77). -/
def LockLink.sfTb (l : LockLink) (dn : Bool) (start : Tb) : Nat :=
  match l.sfUp with
  | some (tb, _) => if dn ∧ l.role = 2 then tb.toNat + l.transit / 128 else start
  | none => start

/-- The superframe that a port sends from `start` on (R102, R103). -/
def LockLink.superframe (l : LockLink) (dn : Bool) (start : Tb) : BitVec 128 :=
  let (id, dly) := match if dn then l.sfDn else l.sfUp with
    | some (tb, at_) => (field tb.toNat 15 8, (start - at_) * 128 % 2 ^ 16)
    | none => (0, 0)
  let body := l.sfTb dn start % 2 ^ 64 + id * 2 ^ 64 + dly * 2 ^ 72 + l.role * 2 ^ 88
  BitVec.ofNat 128 (body + linkCrc body 15 * 2 ^ 120)

/-- The MGMT nibbles of a superframe, the lowest first (R102; log entry 64). -/
def nibblesOf (sf : BitVec 128) : List (BitVec 4) := (List.range 32).map fun i => sf.extractLsb' (4 * i) 4

/-- The event word of an event (R102). -/
def LlEvent.word (e : LlEvent) : Nat := e.slot % 8 + e.line % 8 * 8 + e.t8 / 8 % 256 * 2 ^ 6 + 2 ^ 14

/-- The frame that a port sends from `start` on, a multiple of 8 (R102): up to four of the events queued for it, and its nibble of
the superframe. -/
def LockLink.frame (l : LockLink) (dn : Bool) (start : Tb) : BitVec 80 :=
  let evs := ((if dn then l.qDn else l.qUp).filter fun x => x.2 == start).map (·.1.word)
  let nibble := (nibblesOf (l.superframe dn (start / 256 * 256))).getD (start / 8 % 32) 0
  let body := 2 + ((List.range 4).map fun i => evs.getD i 0 * 2 ^ (2 + 16 * i)).sum + nibble.toNat * 2 ^ 66
  BitVec.ofNat 80 (body + linkCrc body 9 * 2 ^ 72)

/-- The frames that carried events and have begun by now have left (R102, R105). -/
def State.linkSent (s : State) : State :=
  let begun (q : List (LlEvent × Tb)) : List Tb := ((q.map (·.2)).filter fun x => decide (x ≤ s.tb)).eraseDups
  let ahead (q : List (LlEvent × Tb)) : List (LlEvent × Tb) := q.filter fun x => decide (s.tb < x.2)
  let out := (begun s.link.qUp).map (fun x => (false, x, s.link.frame false x))
    ++ (begun s.link.qDn).map fun x => (true, x, s.link.frame true x)
  (s.updOut fun o => { o with frames := o.frames ++ out }).updLink fun l =>
    { l with qUp := ahead l.qUp, qDn := ahead l.qDn }

/-- The origin interval of an event word (R102): the latest multiple of 8 that shows INTERVAL and is not ahead of the
frame that carries it. -/
def originOf (interval now : Nat) : Tb :=
  let m := now + 8
  m - ((m + 2048 - interval * 8) % 2048)

/-- The event of one event word, none for a word that carries none (R102). -/
def evWord (w now : Nat) : Option LlEvent :=
  let line := field w 5 3
  if field w 14 14 = 1 ∧ line < 7 then some { slot := field w 2 0, line, t8 := originOf (field w 13 6) now } else none

/-- An event arrives by a port (R105, R106): it waits for its act time and goes on by the other port, unless it is known
already or too late. -/
def State.linkEvent (s : State) (dn : Bool) (e : LlEvent) : State :=
  if s.link.evs.contains e then s
  else if e.t8 + 8 * s.link.lat < s.tb then s.linkLate dn e.slot
  else (s.updLink fun l => { l with evs := l.evs ++ [e] }.send e s.tb dn (!dn)).linkOverdue

/-- LL_FRAME (R102, R105, R106): one 80-bit frame. -/
def execLlFrame (t : Tb) (dn : Bool) (frame : BitVec 80) (s : State) : Host.Outcome State Fault Refusal :=
  let s := (s.at t).linkSent
  let v := frame.toNat
  .next (if s.link.role = 0 ∨ field v 1 0 ≠ 2 then s
    else if linkCrc v 9 ≠ field v 79 72 then
      (s.updLink fun l =>
        let l := { l with crcCnt := inc32 l.crcCnt }
        if dn then { l with mgmtDn := [] } else { l with mgmtUp := [] }).linkFault dn 0
    else
      let nibble : BitVec 4 := BitVec.ofNat 4 (field v 69 66)
      let put (xs : List (BitVec 4)) : List (BitVec 4) := xs.drop (xs.length - 31) ++ [nibble]
      let s := s.updLink fun l =>
        if dn then { l with dn := true, mgmtDn := put l.mgmtDn } else { l with up := true, mgmtUp := put l.mgmtUp }
      ((List.range 4).filterMap fun i => evWord (field v (17 + 16 * i) (2 + 16 * i)) s.tb).foldl
        (fun s e => s.linkEvent dn e) s)

/-- The transit that a superframe's echo gives (R103): half of the round trip, in units of 16 fine units, where
`start` is the TB at which the superframe began here. -/
def echoTransit (echoId echoDly start : Nat) : Nat :=
  let sent := start - ((start / 256 + 256 - echoId) % 256 * 256 + start % 256)
  ((start - sent) * 128 - echoDly) / 2


/-- Trim the phase of the time-base PLL against an error of `err` fine units (R103): in fine-unit steps, as many as 1 ps per µs
allows since the last; the rate is used in full (DESIGN CHOICE, unsafe, log entry 77). The first superframe after a return
of the link only starts the count. -/
def LockLink.pull (l : LockLink) (err : Int) (tb : Tb) : LockLink :=
  let most : Int := if l.returned ∧ ¬ l.stray then 0
    else max 0 (((tb : Rat) - l.trimTb) * 2048 / 10 ^ 6).floor
  let n := max (-most) (min most err)
  { l with
    phaseErr := BitVec.ofInt 16 (err - n), trim := l.trim + n
    trimTb := if n = err ∨ (l.returned ∧ ¬ l.stray) then (tb : Rat) else l.trimTb + (most : Rat) * 10 ^ 6 / 2048 }

/-- LL_SUPERFRAME (R102 to R104): 32 frames have brought a superframe by a port; `phaseErr` is the phase error that the phase
comparator shows. After a return of the link an offset beyond ±500 ps, once seen, keeps ALIGNED at 0 until a TB_ALIGN. -/
def execLlSuperframe (t : Tb) (dn : Bool) (sf : BitVec 128) (phaseErr : BitVec 16) (s : State) :
    Host.Outcome State Fault Refusal :=
  let s := s.at t
  let v := sf.toNat
  let start := s.tb - 256
  let sfTb := field v 63 0
  .next (if s.link.role = 0 ∨ (if dn then s.link.mgmtDn else s.link.mgmtUp) ≠ nibblesOf sf
      ∨ linkCrc v 15 ≠ field v 127 120 then s
    else if dn then s.updLink fun l => { l with sfDn := some (BitVec.ofNat 64 sfTb, start), mgmtDn := [] }
    else
      let s := s.updLink fun l => { l with sfUp := some (BitVec.ofNat 64 sfTb, start), mgmtUp := [] }
      if s.link.role ≠ 2 then s
      else
        let s := s.updLink fun l =>
          let l := { l with transit := echoTransit (field v 71 64) (field v 87 72) start % 2 ^ 24, phaseErr }
          let near : Int := ((sfTb + (l.transit + 64) / 128 : Nat) : Int) - (start : Nat)
          let close := decide (near = 0) && l.within 1024
          { l.pull phaseErr.toInt s.tb with
            offset := near, returned := l.returned && !(close && !l.stray)
            stray := l.returned && (l.stray || !close) }.align
        s.updOut fun o => { o with relayed := o.relayed ++ [s.link.superframe true (roundUp s.tb 256)] })

/-! ### The lock link: events that act -/

/-- What ended a run that another package aborts is not carried by the link: one of the outcomes of R326, left open (log
entry 7). -/
def remoteOutcome (v : BitVec 64) : Status × BitVec 8 :=
  [(.revoked, 0x07), (.hwFault, 0x05), (.hwFault, 0x03), (.hwFault, 0x04), (.timeout, 0x03)].getD (v.toNat % 5)
    (.hwFault, 0x04)

/-- ABORT of a spanning group is seen at `act` (R105, R142): its running run ends, unless an end is decided already. -/
def State.remoteAbort (s : State) (g : Nat) (act : Tb) : State :=
  let s := match s.running g with
    | some r =>
      if r.outcome.any (fun (o : Status × BitVec 8) => o.1 != Status.ok) then s
      else
        let (v, s) := s.takeFree
        let (st, detail) := remoteOutcome v
        s.updRun r.tag fun r => r.decide st detail 0 false
    | none => s
  { s with ripple := { s.ripple with abort := s.ripple.abort.modify g fun l => l.assert (act - 6) 1 } }

/-- An event acts on one spanning group at `act` (R105, R126, R160). The origin that its branch sources see is t8, the tick of
the line's assertion as the link carries it (log entry 37). -/
def State.actEvent (s : State) (g : Nat) (e : LlEvent) (act : Tb) : State :=
  let ks := s.membersOf g
  if e.line = lnArm then (s.armAll ks act).trigReplies 0 g false
  else if e.line = lnFire then
    let s := ks.foldl (fun s k => s.trigFlush k s.tb) s
    (s.fireSource ks e.t8 1).fireAll ks (some g) e.t8 1 act true
  else if e.line = lnAbort then s.remoteAbort g act
  else
    let i := e.line - lnMark
    let p := s.ripple
    let s := { s with ripple := { p with mark := p.mark.modify (g * 4 + i) fun l => l.assert (act - 6) 8 } }
    ks.foldl (fun s k => (s.srcPulse k i (e.t8 : Nat) 8).pulseTo k (1 + i) 0 act e.t8) s

/-- LL_EVENT_ACT (R105): every event whose act time has come acts on the spanning groups of its slot. -/
def execLlEventAct (t : Tb) (s : State) : Host.Outcome State Fault Refusal :=
  let s := (s.at t).linkSent.linkOverdue
  let act (e : LlEvent) : Tb := e.t8 + 8 * s.link.lat
  let (due, later) := s.link.evs.partition fun e => decide (act e ≤ s.tb)
  .next (due.foldl (fun s e => (s.slotGroups e.slot).foldl (fun s g => s.actEvent g e (act e)) s)
    (s.updLink fun l => { l with evs := later }))

end Sys2Proof.Machine
end

