-- ==== Sys2Proof/Machine/Dispatch.lean ====
section
/-! DEFINITION. The dispatch of commands: one arm per constructor of `Instr`, each one direct call of its meaning. -/

namespace Sys2Proof.Machine

/-- The effect of a command on everything but the queue of waiting commands. -/
def exec (i : Instr) (s : State) : Host.Outcome State Fault Refusal :=
  match i with
  | .identify t h hostAddr => Sys2Proof.Machine.execIdentify t h hostAddr s
  | .getStatus t h => Sys2Proof.Machine.execGetStatus t h s
  | .resync t h hostAddr => Sys2Proof.Machine.execResync t h hostAddr s
  | .channelConfig t h k lanes apply mode cfg measSel avgM1 dacDiv => Sys2Proof.Machine.execChannelConfig t h k lanes apply mode cfg measSel avgM1 dacDiv s
  | .channelConnect t h k lanes mode range force levels => Sys2Proof.Machine.execChannelConnect t h k lanes mode range force levels s
  | .channelDisconnect t h k lanes => Sys2Proof.Machine.execChannelDisconnect t h k lanes s
  | .channelRange t h k lanes range => Sys2Proof.Machine.execChannelRange t h k lanes range s
  | .channelForce t h k lanes kinds force levels => Sys2Proof.Machine.execChannelForce t h k lanes kinds force levels s
  | .channelMeasure t h k lanes => Sys2Proof.Machine.execChannelMeasure t h k lanes s
  | .gangSet t h k l0 m range => Sys2Proof.Machine.execGangSet t h k l0 m range s
  | .refDacSet t h die j code tick => Sys2Proof.Machine.execRefDacSet t h die j code tick s
  | .guardSet t h k guard => Sys2Proof.Machine.execGuardSet t h k guard s
  | .channelQuery t h n => Sys2Proof.Machine.execChannelQuery t h n s
  | .imageLoad t h hostAddr size units => Sys2Proof.Machine.execImageLoad t h hostAddr size units s
  | .imageVerify t h id => Sys2Proof.Machine.execImageVerify t h id s
  | .imageUnload t h id => Sys2Proof.Machine.execImageUnload t h id s
  | .imageQuery t h id => Sys2Proof.Machine.execImageQuery t h id s
  | .runStart t h id group mode startTb => Sys2Proof.Machine.execRunStart t h id group mode startTb s
  | .runStop t h group runTag => Sys2Proof.Machine.execRunStop t h group runTag s
  | .runAbort t h group runTag => Sys2Proof.Machine.execRunAbort t h group runTag s
  | .runQuery t h group runTag => Sys2Proof.Machine.execRunQuery t h group runTag s
  | .trigConfig t h k source cond pol select lane thrHi thrLo => Sys2Proof.Machine.execTrigConfig t h k source cond pol select lane thrHi thrLo s
  | .trigArm t h kind id opts max hold a => Sys2Proof.Machine.execTrigArm t h kind id opts max hold a s
  | .trigDisarm t h kind id d => Sys2Proof.Machine.execTrigDisarm t h kind id d s
  | .captureConfig t h k stream mode sram chunk pre post ringBase ringSize => Sys2Proof.Machine.execCaptureConfig t h k stream mode sram chunk pre post ringBase ringSize s
  | .captureStart t h k streams tick => Sys2Proof.Machine.execCaptureStart t h k streams tick s
  | .captureStop t h k streams tick => Sys2Proof.Machine.execCaptureStop t h k streams tick s
  | .captureRelease t h k stream readOff => Sys2Proof.Machine.execCaptureRelease t h k stream readOff s
  | .captureRead t h k stream length ringOff hostAddr => Sys2Proof.Machine.execCaptureRead t h k stream length ringOff hostAddr s
  | .resultsRead t h group hist first count runS hostAddr => Sys2Proof.Machine.execResultsRead t h group hist first count runS hostAddr s
  | .failLogRead t h k first count hostAddr => Sys2Proof.Machine.execFailLogRead t h k first count hostAddr s
  | .failLogConfig t h k policy => Sys2Proof.Machine.execFailLogConfig t h k policy s
  | .failClear t h k lanes => Sys2Proof.Machine.execFailClear t h k lanes s
  | .chargeClear t h k lanes b => Sys2Proof.Machine.execChargeClear t h k lanes b s
  | .captureQuery t h k stream => Sys2Proof.Machine.execCaptureQuery t h k stream s
  | .lockGroupSet t h group master flags slot mask => Sys2Proof.Machine.execLockGroupSet t h group master flags slot mask s
  | .lockGroupQuery t h group => Sys2Proof.Machine.execLockGroupQuery t h group s
  | .pllSet t h die setting => Sys2Proof.Machine.execPllSet t h die setting s
  | .pllSync t h mask tick => Sys2Proof.Machine.execPllSync t h mask tick s
  | .tbAlign t h => Sys2Proof.Machine.execTbAlign t h s
  | .lockLinkCfg t h role lat => Sys2Proof.Machine.execLockLinkCfg t h role lat s
  | .weirConfig t h horizonRun horizonBulk => Sys2Proof.Machine.execWeirConfig t h horizonRun horizonBulk s
  | .calRead t h die off len hostAddr => Sys2Proof.Machine.execCalRead t h die off len hostAddr s
  | .calWrite t h die off len hostAddr data => Sys2Proof.Machine.execCalWrite t h die off len hostAddr data s
  | .calCommit t h => Sys2Proof.Machine.execCalCommit t h s
  | .calStep t h step arg meas => Sys2Proof.Machine.execCalStep t h step arg meas s
  | .calStatus t h => Sys2Proof.Machine.execCalStatus t h s
  | .thermalRead t h die sensor => Sys2Proof.Machine.execThermalRead t h die sensor s
  | .thermalConfig t h die apply watchMs warn throttle shutdown graceMs extType a b c => Sys2Proof.Machine.execThermalConfig t h die apply watchMs warn throttle shutdown graceMs extType a b c s
  | .thermalClear t h die => Sys2Proof.Machine.execThermalClear t h die s
  | .thermalStatus t h die => Sys2Proof.Machine.execThermalStatus t h die s
  | .nvmRead t h off len hostAddr => Sys2Proof.Machine.execNvmRead t h off len hostAddr s
  | .nvmWrite t h off len hostAddr data => Sys2Proof.Machine.execNvmWrite t h off len hostAddr data s
  | .nvmErase t h off len => Sys2Proof.Machine.execNvmErase t h off len s
  | .nvmStatus t h => Sys2Proof.Machine.execNvmStatus t h s
  | .eventConfig t h minSev watch hostLoss => Sys2Proof.Machine.execEventConfig t h minSev watch hostLoss s
  | .heartbeat t h => Sys2Proof.Machine.execHeartbeat t h s
  | .eventQuery t h => Sys2Proof.Machine.execEventQuery t h s
  | .patchApply t h => Sys2Proof.Machine.execPatchApply t h s
  | .patchQuery t h => Sys2Proof.Machine.execPatchQuery t h s
  | .regRead t h addr count snap hostAddr => Sys2Proof.Machine.execRegRead t h addr count snap hostAddr s
  | .regWrite t h addr count words => Sys2Proof.Machine.execRegWrite t h addr count words s
  | .dramStatus t h die => Sys2Proof.Machine.execDramStatus t h die s
  | .dramConfig t h mask apply ageNs pdUs rhThr interval eyeMin => Sys2Proof.Machine.execDramConfig t h mask apply ageNs pdUs rhThr interval eyeMin s
  | .dramRetrain t h die mode => Sys2Proof.Machine.execDramRetrain t h die mode s
  | .slvEcho t words => Sys2Proof.Machine.execSlvEcho t words s
  | .slvStatus t words => Sys2Proof.Machine.execSlvStatus t words s
  | .slvRegRead t words => Sys2Proof.Machine.execSlvRegRead t words s
  | .slvThermal t words => Sys2Proof.Machine.execSlvThermal t words s
  | .slvStill t words => Sys2Proof.Machine.execSlvStill t words s
  | .inletDb t idx v => Sys2Proof.Machine.execInletDb t idx v s
  | .outletDb t o v => Sys2Proof.Machine.execOutletDb t o v s
  | .eventDb t v => Sys2Proof.Machine.execEventDb t v s
  | .ringCfgWrite t r v => Sys2Proof.Machine.execRingCfgWrite t r v s
  | .snapshot t v => Sys2Proof.Machine.execSnapshot t v s
  | .diagGo t v => Sys2Proof.Machine.execDiagGo t v s
  | .diagDataEarly t write => Sys2Proof.Machine.execDiagDataEarly t write s
  | .apertureWrite t hi v => Sys2Proof.Machine.execApertureWrite t hi v s
  | .registerWrite t r v be => Sys2Proof.Machine.execRegisterWrite t r v be s
  | .rcRead t p r be => Sys2Proof.Machine.execRcRead t p r be s
  | .loReadLatch t p r => Sys2Proof.Machine.execLoReadLatch t p r s
  | .bar2Read t off len => Sys2Proof.Machine.execBar2Read t off len s
  | .bar2Write t off data => Sys2Proof.Machine.execBar2Write t off data s
  | .d3hotEntry t => Sys2Proof.Machine.execD3hotEntry t s
  | .interfaceReset t => Sys2Proof.Machine.execInterfaceReset t s
  | .linkChange t width speed => Sys2Proof.Machine.execLinkChange t width speed s
  | .l1Entry t => Sys2Proof.Machine.execL1Entry t s
  | .ptmDialogue t t1 resp => Sys2Proof.Machine.execPtmDialogue t t1 resp s
  | .descriptorFetch t idx bytes payload ns => Sys2Proof.Machine.execDescriptorFetch t idx bytes payload ns s
  | .hostDmaFail t what bytes => Sys2Proof.Machine.execHostDmaFail t what bytes s
  | .bulkComplete t tag die data => Sys2Proof.Machine.execBulkComplete t tag die data s
  | .msixCoalesce t r => Sys2Proof.Machine.execMsixCoalesce t r s
  | .eventPost t => Sys2Proof.Machine.execEventPost t s
  | .hostWatchTimeout t => Sys2Proof.Machine.execHostWatchTimeout t s
  | .powerOnReset t => Sys2Proof.Machine.execPowerOnReset t s
  | .perstNAssert t => Sys2Proof.Machine.execPerstNAssert t s
  | .perstNRelease t env => Sys2Proof.Machine.execPerstNRelease t env s
  | .bootStageTimeout t => Sys2Proof.Machine.execBootStageTimeout t s
  | .fwWatchdog t d rec boot => Sys2Proof.Machine.execFwWatchdog t d rec boot s
  | .dieRecoveryTimeout t d => Sys2Proof.Machine.execDieRecoveryTimeout t d s
  | .handlingDequeue t d rec => Sys2Proof.Machine.execHandlingDequeue t d rec s
  | .journalAppend t => Sys2Proof.Machine.execJournalAppend t s
  | .protTrip t n above => Sys2Proof.Machine.execProtTrip t n above s
  | .senseDiverge t n => Sys2Proof.Machine.execSenseDiverge t n s
  | .overtempStage t n pmu => Sys2Proof.Machine.execOvertempStage t n pmu s
  | .otFlagClear t n pmu => Sys2Proof.Machine.execOtFlagClear t n pmu s
  | .pllLol t d => Sys2Proof.Machine.execPllLol t d s
  | .holdoverExit t d => Sys2Proof.Machine.execHoldoverExit t d s
  | .relockDone t d ok => Sys2Proof.Machine.execRelockDone t d ok s
  | .trackedStepDone t d => Sys2Proof.Machine.execTrackedStepDone t d s
  | .guardHit t d => Sys2Proof.Machine.execGuardHit t d s
  | .tbpllLol t d rec boot => Sys2Proof.Machine.execTbpllLol t d rec boot s
  | .rpsFault t d ctx kind addr rec boot => Sys2Proof.Machine.execRpsFault t d ctx kind addr rec boot s
  | .bridgeDegrade t port => Sys2Proof.Machine.execBridgeDegrade t port s
  | .llFrame t dn frame => Sys2Proof.Machine.execLlFrame t dn frame s
  | .llSuperframe t dn sf phaseErr => Sys2Proof.Machine.execLlSuperframe t dn sf phaseErr s
  | .llEventAct t => Sys2Proof.Machine.execLlEventAct t s
  | .llLinkLost t dn => Sys2Proof.Machine.execLlLinkLost t dn s
  | .trigInEdge t line level => Sys2Proof.Machine.execTrigInEdge t line level s
  | .rippleArm t kind id => Sys2Proof.Machine.execRippleArm t kind id s
  | .rippleFire t kind id => Sys2Proof.Machine.execRippleFire t kind id s
  | .holdoffEnd t k => Sys2Proof.Machine.execHoldoffEnd t k s
  | .rearmEnd t k => Sys2Proof.Machine.execRearmEnd t k s
  | .disarmTick t kind id => Sys2Proof.Machine.execDisarmTick t kind id s
  | .rippleAbort t k => Sys2Proof.Machine.execRippleAbort t k s
  | .rippleSync t tag => Sys2Proof.Machine.execRippleSync t tag s
  | .refdacUpdate t d => Sys2Proof.Machine.execRefdacUpdate t d s
  | .chargeClearTick t tag => Sys2Proof.Machine.execChargeClearTick t tag s
  | .captureStartTick t k stream => Sys2Proof.Machine.execCaptureStartTick t k stream s
  | .captureStopTick t k stream => Sys2Proof.Machine.execCaptureStopTick t k stream s
  | .runArm t tag => Sys2Proof.Machine.execRunArm t tag s
  | .runBegin t tag phase => Sys2Proof.Machine.execRunBegin t tag phase s
  | .segmentStart t k => Sys2Proof.Machine.execSegmentStart t k s
  | .runEnd t tag => Sys2Proof.Machine.execRunEnd t tag s
  | .branchDecision t k seen => Sys2Proof.Machine.execBranchDecision t k seen s
  | .dict t k => Sys2Proof.Machine.execDict t k s
  | .repeatTok t k => Sys2Proof.Machine.execRepeatTok t k s
  | .literal t k => Sys2Proof.Machine.execLiteral t k s
  | .nop t k => Sys2Proof.Machine.execNop t k s
  | .swap t k => Sys2Proof.Machine.execSwap t k s
  | .timerStart t k => Sys2Proof.Machine.execTimerStart t k s
  | .timerStop t k => Sys2Proof.Machine.execTimerStop t k s
  | .maskStrobe t k => Sys2Proof.Machine.execMaskStrobe t k s
  | .unmaskStrobe t k => Sys2Proof.Machine.execUnmaskStrobe t k s
  | .seqEvent t k => Sys2Proof.Machine.execSeqEvent t k s
  | .clusterTimerExpiry t k j => Sys2Proof.Machine.execClusterTimerExpiry t k j s
  | .failLogEntry t k copy above below full => Sys2Proof.Machine.execFailLogEntry t k copy above below full s
  | .dacUpdateInstant t n => Sys2Proof.Machine.execDacUpdateInstant t n s
  | .springIssue t k idx => Sys2Proof.Machine.execSpringIssue t k idx s
  | .springComplete t k idx => Sys2Proof.Machine.execSpringComplete t k idx s
  | .springLate t k idx => Sys2Proof.Machine.execSpringLate t k idx s
  | .hold t g h d => Sys2Proof.Machine.execHold t g h d s
  | .holdEntry t k => Sys2Proof.Machine.execHoldEntry t k s
  | .resume t g => Sys2Proof.Machine.execResume t g s
  | .timelineResume t k => Sys2Proof.Machine.execTimelineResume t k s
  | .stretchLimit t g => Sys2Proof.Machine.execStretchLimit t g s
  | .runLimit t tag => Sys2Proof.Machine.execRunLimit t tag s
  | .segWatchdog t k => Sys2Proof.Machine.execSegWatchdog t k s
  | .sarSample t n codes clamp hit live batchEnd => Sys2Proof.Machine.execSarSample t n codes clamp hit live batchEnd s
  | .chargeIncrement t n m dq ovr clamp hit live batchEnd => Sys2Proof.Machine.execChargeIncrement t n m dq ovr clamp hit live batchEnd s
  | .gapRecord t k stream => Sys2Proof.Machine.execGapRecord t k stream s
  | .recordCloseTimeout t k stream => Sys2Proof.Machine.execRecordCloseTimeout t k stream s
  | .captureDrain t k stream => Sys2Proof.Machine.execCaptureDrain t k stream s
  | .windowOpen t k idx => Sys2Proof.Machine.execWindowOpen t k idx s
  | .closePass t k idx => Sys2Proof.Machine.execClosePass t k idx s
  | .rpsDone t d c kelvinFail => Sys2Proof.Machine.execRpsDone t d c kelvinFail s
  | .maintenanceWindow t d ch mr4 mr4b pass wake => Sys2Proof.Machine.execMaintenanceWindow t d ch mr4 mr4b pass wake s
  | .retrainInterval t d => Sys2Proof.Machine.execRetrainInterval t d s
  | .reformDone t d => Sys2Proof.Machine.execReformDone t d s
  | .dramPowerDown t d ch rank => Sys2Proof.Machine.execDramPowerDown t d ch rank s
  | .agePromotion t d => Sys2Proof.Machine.execAgePromotion t d s
  | .thermalWatch t d => Sys2Proof.Machine.execThermalWatch t d s
  | .thermalConversion t d reading rec boot => Sys2Proof.Machine.execThermalConversion t d reading rec boot s
  | .graceExpiry t d => Sys2Proof.Machine.execGraceExpiry t d s
  | .mmf t => Sys2Proof.Machine.execMmf t s
  | .mmfBackoffExpiry t idle => Sys2Proof.Machine.execMmfBackoffExpiry t idle s
  | .flashOpDone t => Sys2Proof.Machine.execFlashOpDone t s
  | .xipTimeout t => Sys2Proof.Machine.execXipTimeout t s
  | .spSlvSelNFall t opcodeSent => Sys2Proof.Machine.execSpSlvSelNFall t opcodeSent s
  | .spSlvSelNRise t partialWord => Sys2Proof.Machine.execSpSlvSelNRise t partialWord s
  | .returnToD0 t => Sys2Proof.Machine.execReturnToD0 t s
  | .bulkTransferStart t tag die header => Sys2Proof.Machine.execBulkTransferStart t tag die header s
  | .bulkDeadlineStop t tag moved => Sys2Proof.Machine.execBulkDeadlineStop t tag moved s
  | .fullRetrainDone t d env => Sys2Proof.Machine.execFullRetrainDone t d env s
  | .verificationDone t tag => Sys2Proof.Machine.execVerificationDone t tag s

end Sys2Proof.Machine
end

