-- ==== Sys2Proof/Safety.lean ====
section
/-! DEFINITION. What a safe run keeps: every memory in its canonical form, and every bank of the block at the size the spec
gives it. -/

namespace Sys2Proof.Machine

/-- Every memory of a die is in its canonical form. -/
def Die.canonical (x : Die) : Prop := Mem.wf ramByte x.dram.mem = true ∧ Mem.wf ramByte x.cal = true

/-- Every memory of a cluster is in its canonical form. -/
def Cluster.canonical (x : Cluster) : Prop :=
  Mem.wf ramByte x.vsram = true ∧ Mem.wf ramByte x.csram = true ∧ Mem.wf ramByte x.rstore = true

/-- Every memory of the block is in its canonical form: the flash, each die's DRAM and calibration RAM, each cluster's SRAMs. -/
def State.canonical (s : State) : Prop :=
  Mem.wf flashByte s.serial.flash = true ∧ (∀ x ∈ s.dies, x.canonical) ∧ ∀ c ∈ s.clusters, c.canonical

/-- The banks of the block have their sizes: eight dies, 64 clusters, 512 channels (R1, R7), 16 inlets and outlets (R292), 32
lock groups (R199). -/
def State.sized (s : State) : Prop :=
  s.dies.length = 8 ∧ s.clusters.length = 64 ∧ s.chans.length = 512 ∧ s.inlets.length = 16 ∧ s.outlets.length = 16
    ∧ s.groups.length = 32

/-! ### What replies touch -/

/-- A ring without what posting to it changes. -/
def Ring.mute (r : Ring) : Ring := { r with index := 0, lastMsi := none, msiOwed := false, held := [] }

/-- The state without what deciding about a received descriptor and answering it change: the outlets' positions and
held replies, their interrupt bits and messages, the tags in flight with the transfers that a tag given back leaves
(R209), the list of accepted work, the descriptors that wait in the inlets, and the weir's counters. Two states with the
same `mute` differ in nothing else. -/
def State.mute (s : State) : State :=
  { s with
    outlets := s.outlets.map Ring.mute
    pci := { s.pci with intOutlet := 0, intHeld := false, pba := 0, l1 := false }
    out := { s.out with hostOut := [], msix := [] }
    tags := []
    bulks := []
    works := []
    inlets := s.inlets.map fun x => { x with slot := none }
    weir := { s.weir with decideMax := 0, decideLate := 0, refuse := [], accept := [] } }

/-- The state without what receiving a descriptor changes besides: the inlets' positions and doorbells, the inlet whose
turn was last, the longest fetch, and the free value that a fetch draws (R31, R215, R293). -/
def State.unheard (s : State) : State :=
  { s with
    inlets := s.inlets.map fun x => { x with index := 0, peer := 0, announced := [], retried := false }
    pci := { s.pci with lastFetch := 0, fetchMax := 0 }
    free := 0 }

/-- The descriptor of a mailbox command and the state in which it stands to be executed or decided at TB `t`: it was
received with a tag of its own, and it passed the checks of R308. -/
def State.taken (s : State) (t : Tb) (c : Instr) : Option (Desc × State) :=
  match descOf c with
  | none => none
  | some d =>
    match (s.at t).receive d with
    | some (true, u) => if (u.descErr d c true).isNone then some (d, u) else none
    | _ => none

/-- Tags and the command's outlet have room for the replies of a command of class 1 to 3 (R209, R210). -/
abbrev State.slotsFor (s : State) (h : Hdr) : Prop := s.heavyTags ≤ 4032 ∧ 2 ≤ s.room h.inlet.toNat

/-- A promise keeps the command's DEADLINE, 0 standing for none (R307). -/
abbrev promiseKept (h : Hdr) (promise : Tb) : Prop := h.deadline = 0 ∨ promise ≤ h.deadline.toNat

/-- A command of class 1 to 3 accepted at its decision, with a promise (R195, R214). -/
def State.acceptNow (u : State) (d : Desc) (group : Option Nat) (dies : BitVec 8) (kind : WorkKind) (promise : Tb) :
    State :=
  u.accept d group dies kind u.tb promise 0

/-- The TB at which a mailbox command stands to be executed or decided; 0 for other commands. -/
def arrivalOf : Instr → Tb
  | .identify t _ _ => t
  | .getStatus t _ => t
  | .resync t _ _ => t
  | .channelConfig t _ _ _ _ _ _ _ _ _ => t
  | .channelConnect t _ _ _ _ _ _ _ => t
  | .channelDisconnect t _ _ _ => t
  | .channelRange t _ _ _ _ => t
  | .channelForce t _ _ _ _ _ _ => t
  | .channelMeasure t _ _ _ => t
  | .gangSet t _ _ _ _ _ => t
  | .refDacSet t _ _ _ _ _ => t
  | .guardSet t _ _ _ => t
  | .channelQuery t _ _ => t
  | .imageLoad t _ _ _ _ => t
  | .imageVerify t _ _ => t
  | .imageUnload t _ _ => t
  | .imageQuery t _ _ => t
  | .runStart t _ _ _ _ _ => t
  | .runStop t _ _ _ => t
  | .runAbort t _ _ _ => t
  | .runQuery t _ _ _ => t
  | .trigConfig t _ _ _ _ _ _ _ _ _ => t
  | .trigArm t _ _ _ _ _ _ _ => t
  | .trigDisarm t _ _ _ _ => t
  | .captureConfig t _ _ _ _ _ _ _ _ _ _ => t
  | .captureStart t _ _ _ _ => t
  | .captureStop t _ _ _ _ => t
  | .captureRelease t _ _ _ _ => t
  | .captureRead t _ _ _ _ _ _ => t
  | .resultsRead t _ _ _ _ _ _ _ => t
  | .failLogRead t _ _ _ _ _ => t
  | .failLogConfig t _ _ _ => t
  | .failClear t _ _ _ => t
  | .chargeClear t _ _ _ _ => t
  | .captureQuery t _ _ _ => t
  | .lockGroupSet t _ _ _ _ _ _ => t
  | .lockGroupQuery t _ _ => t
  | .pllSet t _ _ _ => t
  | .pllSync t _ _ _ => t
  | .tbAlign t _ => t
  | .lockLinkCfg t _ _ _ => t
  | .weirConfig t _ _ _ => t
  | .calRead t _ _ _ _ _ => t
  | .calWrite t _ _ _ _ _ _ => t
  | .calCommit t _ => t
  | .calStep t _ _ _ _ => t
  | .calStatus t _ => t
  | .thermalRead t _ _ _ => t
  | .thermalConfig t _ _ _ _ _ _ _ _ _ _ _ _ => t
  | .thermalClear t _ _ => t
  | .thermalStatus t _ _ => t
  | .nvmRead t _ _ _ _ => t
  | .nvmWrite t _ _ _ _ _ => t
  | .nvmErase t _ _ _ => t
  | .nvmStatus t _ => t
  | .eventConfig t _ _ _ _ => t
  | .heartbeat t _ => t
  | .eventQuery t _ => t
  | .patchApply t _ => t
  | .patchQuery t _ => t
  | .regRead t _ _ _ _ _ => t
  | .regWrite t _ _ _ _ => t
  | .dramStatus t _ _ => t
  | .dramConfig t _ _ _ _ _ _ _ _ => t
  | .dramRetrain t _ _ _ => t
  | _ => 0

/-- A mailbox command received at its TB, with its descriptor and whether its tag is its own. The bound of a DRAM_CONFIG
has been drawn by then (log entry 7). -/
def State.received (s : State) (c : Instr) : Option (Desc × Bool × State) :=
  let s := match c with
    | .dramConfig .. => { s with free := s.free + 1 }
    | _ => s
  match descOf c with
  | some d => ((s.at (arrivalOf c)).receive d).map fun x => (d, x.1, x.2)
  | none => none

/-- A step of the block has a next state. -/
def State.goesOn (s : State) : Prop := ∃ t, step s = .next t

end Sys2Proof.Machine
end

