-- ==== Sys2Proof/Certificates/Slice0/Obligations.lean ====
section
/-! DEFINITION. The statements about the block. -/

open Sys2Proof Sys2Proof.Machine

/-! ### Class 0 commands: executed at once, answered with one reply (R193, R311) -/

/-- R320, R331: IDENTIFY, GET_STATUS, EVENT_QUERY and PATCH_QUERY, once taken, answer OK with their RESULT fields and
change nothing but what answering takes; IDENTIFY writes the identity block to a HOST_ADDR other than 0 first. R322,
R324, R325, R327, R329, R330, R331: the queries of channels, captures, images, runs, lock groups, thermal units,
flash, calibration and DRAM answer OK with the RESULT fields of the unit that they name and change nothing else. What
IMAGE_QUERY shows as DURATION of an image that still loads is a free value (log entry 7). -/
def Obligations.QueriesAnswer : Prop :=
  (∀ (s u : State) (t : Tb) (h : Hdr) (d : Desc) (a : BitVec 64),
    (s.taken t (.identify t h a) = some (d, u) →
      exec (.identify t h a) s = .next ((if a = 0 then u else u.hostWrite a.toNat u.identBlock).reply0 d
        { result := resultOf [(0x10, u.model.mask.toNat), (0x11, u.dieMask.toNat), (0x12, 0xB0),
            (0x13, u.boot.stage.toNat), (0x14, u.boot.fwVersion.toNat), (0x18, u.otp.serial.toNat)] })) ∧
    (s.taken t (.getStatus t h) = some (d, u) →
      exec (.getStatus t h) s = .next (u.reply0 d
        { result := resultOf [(0x10, u.boot.part.code), (0x11, u.boot.stage.toNat), (0x12, u.heldCount % 2 ^ 16),
            (0x14, u.pci.fetchMax), (0x18, u.tb % 2 ^ 64)] })) ∧
    (s.taken t (.eventQuery t h) = some (d, u) →
      exec (.eventQuery t h) s = .next (u.reply0 d
        { result := resultOf [(0x10, u.ev.queue.length), (0x14, u.ev.ovfCnt), (0x18, u.ev.posted)] })) ∧
    (s.taken t (.patchQuery t h) = some (d, u) →
      exec (.patchQuery t h) s = .next (u.reply0 d
        { result := resultOf [(0x10, (u.die 0).rps.patchVer.toNat), (0x14, u.patchDiffer.toNat)] }))) ∧
  (∀ (s u : State) (t : Tb) (h : Hdr) (d : Desc),
    (∀ n : BitVec 16, s.taken t (.channelQuery t h n) = some (d, u) →
      exec (.channelQuery t h n) s = .next (u.reply0 d (match u.unavailable [n.toNat / 64] false with
        | some (st, e) => { status := st, detail := e }
        | none => { result := resultOf [(0x10, (u.chan n.toNat).st.word.toNat), (0x14, (u.chan n.toNat).fl.word.toNat),
            (0x18, (u.chan n.toNat).dac.force.toNat), (0x1C, (u.chan n.toNat).meas.last.toNat)] }))) ∧
    (∀ k i : BitVec 8, s.taken t (.captureQuery t h k i) = some (d, u) →
      exec (.captureQuery t h k i) s = .next (u.reply0 d (match u.unavailable [dieOfCluster k.toNat] false with
        | some (st, e) => { status := st, detail := e }
        | none => { result := resultOf [(0x10, (u.cap k.toNat i.toNat).mode),
            (0x11, min (u.cap k.toNat i.toNat).gapCount 255),
            (0x12, bit (u.cap k.toNat i.toNat).active + 2 * bit (u.cap k.toNat i.toNat).blocked),
            (0x14, (u.cap k.toNat i.toNat).wr), (0x18, (u.cap k.toNat i.toNat).dropped)] }))) ∧
    (∀ (id : BitVec 64), s.taken t (.imageQuery t h id) = some (d, u) →
      exec (.imageQuery t h id) s = .next (match u.image? id.toNat with
        | none => u.reply0 d { status := .badArg, detail := dNoSuch }
        | some i => ({ u with free := u.free + 1 } : State).reply0 d
            { result := resultOf [(0x10, i.state.code), (0x11, i.dieMask.toNat),
                (0x12, (u.runs.filter fun r => r.image == i.id).length),
                (0x18, if i.state = .loading then (Config.freeValue u.free).toNat else i.duration)] })) ∧
    (∀ (g : BitVec 8) (tag : BitVec 16), s.taken t (.runQuery t h g tag) = some (d, u) →
      exec (.runQuery t h g tag) s = .next (u.reply0 d (match u.namedRun g tag with
        | .inl e => { status := e.1, detail := e.2 }
        | .inr r => { result := resultOf [(0x10, (u.rstate r).code),
            (0x12, if r.started then ((u.masterOf r.group).map fun k => (u.seq k).seg).getD 0 else 0), (0x18, r.s)] }))) ∧
    (∀ (g : BitVec 8), s.taken t (.lockGroupQuery t h g) = some (d, u) →
      exec (.lockGroupQuery t h g) s = .next (u.reply0 d
        { result := resultOf [(0x10, (u.group g.toNat).members.toNat), (0x18, (u.masterOf g.toNat).getD 0xFF),
            (0x19, u.groupFlags g.toNat), (0x1A, (u.group g.toNat).slot), (0x1B, (u.runsOf g.toNat).length),
            (0x1C, ((u.masterOf g.toNat).map fun k => (u.trig k).state.code).getD 0)] })) ∧
    (∀ x : BitVec 8, s.taken t (.thermalStatus t h x) = some (d, u) →
      exec (.thermalStatus t h x) s = .next (u.reply0 d
        { result := resultOf [(0x10, (u.die x.toNat).thm.st.code), (0x12, (u.die x.toNat).thm.tj.toNat),
            (0x14, (u.die x.toNat).loadCap), (0x18, (u.die x.toNat).thm.tjTb % 2 ^ 64)] })) ∧
    (s.taken t (.nvmStatus t h) = some (d, u) →
      exec (.nvmStatus t h) s = .next (u.reply0 d
        { result := resultOf [(0x10, bit u.serial.busy + 2 * bit u.serial.mmf), (0x14, u.serial.sizeMib.toNat),
            (0x18, u.serial.jWritten)] })) ∧
    (s.taken t (.calStatus t h) = some (d, u) →
      exec (.calStatus t h) s = .next (u.reply0 d
        { result := resultOf [(0x10, if u.cal.inForce = 3 then 0xFF else u.cal.inForce), (0x14, u.cal.sequence.toNat),
            (0x18, ((List.range 8).map fun x => popCount (u.calValidMask x)).sum)] })) ∧
    (∀ x : BitVec 8, s.taken t (.dramStatus t h x) = some (d, u) →
      exec (.dramStatus t h x) s = .next (u.reply0 d
        { result := resultOf [(0x10, (u.die x.toNat).dram.stateWord.toNat), (0x14, (u.die x.toNat).dram.mult.toNat),
            (0x18, (u.die x.toNat).dram.trainTb % 2 ^ 64)] })))

/-- R317, R318, R331, R333, R334: RESYNC writes the summary to the host and answers its TB and length; EVENT_CONFIG takes its settings, a watch that
is turned on counting from now; HEARTBEAT is a sign of life; REG_READ and REG_WRITE answer what the burst gives.
Where the spec leaves room, the reading is the model's (log entries 34 and 61). -/
def Obligations.HostServiceCommands : Prop :=
  ∀ (s u : State) (t : Tb) (h : Hdr) (d : Desc),
    (∀ a : BitVec 64, s.taken t (.resync t h a) = some (d, u) →
      exec (.resync t h a) s = .next ((u.summary.2.hostWrite a.toNat u.summary.1).reply0 d
        { result := resultOf [(0x10, u.summary.2.tb % 2 ^ 64), (0x18, 8192)] })) ∧
    (∀ minSev watch loss : BitVec 8, s.taken t (.eventConfig t h minSev watch loss) = some (d, u) →
      exec (.eventConfig t h minSev watch loss) s = .next ((u.updEv fun v =>
        { v with minSev := hasBit minSev 0, watch := hasBit watch 0, hostLoss := loss.toNat
                 lastSign := if v.watch then v.lastSign else u.tb }).reply0 d {})) ∧
    (s.taken t (.heartbeat t h) = some (d, u) →
      exec (.heartbeat t h) s = .next ((
        if u.ev.watch = false then u
        else if u.ev.hostLost = false then u.updEv fun v => { v with lastSign := u.tb }
        else (u.updEv fun v => { v with lastSign := u.tb, hostLost := false }).raise_
          { code := evHostBack, tb := u.tb }).reply0 d {})) ∧
    (∀ (a host : BitVec 64) (count snap : BitVec 8) (st : Status) (ws : List Word) (n : Nat) (lat : Latches) (v : State),
      s.taken t (.regRead t h a count snap host) = some (d, u) →
      u.burstRead [] a.toNat count.toNat = (st, ws, n, lat, v) →
      exec (.regRead t h a count snap host) s = .next (
        if st = .ok ∨ st = .short then
          if host = 0 then v.reply0 d { status := st, result := resultOf [(0x10, n), (0x14, (ws.getD 0 0).toNat),
            (0x18, (ws.getD 1 0).toNat), (0x1C, (ws.getD 2 0).toNat)] }
          else (v.hostWrite host.toNat (ws.flatMap fun w => leBytes 4 w.toNat)).reply0 d
            { status := st, result := resultOf [(0x10, n)] }
        else v.reply0 d { status := st, detail := v.regDetail a.toNat st })) ∧
    (∀ (a : BitVec 64) (count : BitVec 8) (words : List Word) (st : Status) (n : Nat) (v : State),
      s.taken t (.regWrite t h a count words) = some (d, u) → u.burstWrite a.toNat words = (st, n, v) →
      exec (.regWrite t h a count words) s = .next (v.reply0 d (
        if st = .ok ∨ st = .short then { status := st, result := resultOf [(0x10, n)] }
        else { status := st, detail := v.regDetail a.toNat st })))

/-! ### Commands of the RPS (R63, R64, R214, R322, R421) -/

/-- R65, R322, R421: a CHANNEL_CONNECT whose lanes no run holds, that no over-temperature flag is set on, that are not
connected and whose standing charges fit the die, on a die whose thermal watch runs, is accepted with a bound of 62 µs
behind what is queued for the cluster, and the RPS is given the connect of the lanes with their whole gangs. R63, R72,
R76, R322, R421: CHANNEL_DISCONNECT, CHANNEL_RANGE, GANG_SET and a CHANNEL_CONFIG that changes the mode are accepted
under the state checks that the spec names for each, with the service bound of their request, and the RPS is given
that request. A CHANNEL_CONFIG sets its other groups at once.
Where the spec leaves room, the reading is the model's (log entries 29, 48 and 70). -/
def Obligations.RpsCommandsAreQueued : Prop :=
  (∀ (s u : State) (t : Tb) (h : Hdr) (d : Desc) (k lanes mode range : BitVec 8) (force : BitVec 32)
    (levels : List (BitVec 16)) (m : Mode),
    s.taken t (.channelConnect t h k lanes mode range force levels) = some (d, u) →
    u.lanesFree k.toNat lanes true = none →
    (∀ n ∈ lanesOf k (u.wholeGangs k.toNat lanes), (u.chan n).st.otDrvLive = false ∧ (u.chan n).st.otPmuLive = false) →
    (u.die (dieOfCluster k.toNat)).thm.watchMs ≠ 0 →
    (∀ n ∈ lanesOf k lanes, u.connected n = false) →
    Mode.ofCode mode.toNat = some m →
    u.powerShort (dieOfCluster k.toNat) ((lanesOf k lanes).map fun n => u.newCharge n fun c =>
      c.connect m (range.setWidth 3) { force := force.setWidth 18, levels }) u.tb = none →
    u.slotsFor h → promiseKept h (u.bound (62000 + u.queuedBound k.toNat)) →
    exec (.channelConnect t h k lanes mode range force levels) s =
      .next ((u.acceptNow d (u.groupOf k.toNat) (dieBit (dieOfCluster k.toNat))
          (.rps (u.die (dieOfCluster k.toNat)).rps.nextId) (u.bound (62000 + u.queuedBound k.toNat))).rpsSubmit
        (dieOfCluster k.toNat) (k.toNat % 8) (u.wholeGangs k.toNat lanes) (some h.tag)
        (.connect m (range.setWidth 3) { force := force.setWidth 18, levels }))) ∧
  (∀ (s u : State) (t : Tb) (h : Hdr) (d : Desc) (k lanes : BitVec 8),
    (s.taken t (.channelDisconnect t h k lanes) = some (d, u) → u.lanesFree k.toNat lanes true = none →
      u.slotsFor h →
      ∀ ns, ns = (if u.stillChangesRange k.toNat (u.wholeGangs k.toNat lanes) then 122000 else 62000) →
      promiseKept h (u.bound (ns + u.queuedBound k.toNat)) →
      exec (.channelDisconnect t h k lanes) s =
        .next ((u.acceptNow d (u.groupOf k.toNat) (dieBit (dieOfCluster k.toNat))
            (.rps (u.die (dieOfCluster k.toNat)).rps.nextId) (u.bound (ns + u.queuedBound k.toNat))).rpsSubmit
          (dieOfCluster k.toNat) (k.toNat % 8) (u.wholeGangs k.toNat lanes) (some h.tag) .disconnect)) ∧
    (∀ range : BitVec 8, s.taken t (.channelRange t h k lanes range) = some (d, u) →
      u.lanesFree k.toNat lanes true = none →
      u.powerShort (dieOfCluster k.toNat) ((lanesOf k lanes).map fun n => u.newCharge n fun c =>
        { c with st := { c.st with range := range.setWidth 3 } }) u.tb = none →
      u.slotsFor h → promiseKept h (u.bound (62000 + u.queuedBound k.toNat)) →
      exec (.channelRange t h k lanes range) s =
        .next ((u.acceptNow d (u.groupOf k.toNat) (dieBit (dieOfCluster k.toNat))
            (.rps (u.die (dieOfCluster k.toNat)).rps.nextId) (u.bound (62000 + u.queuedBound k.toNat))).rpsSubmit
          (dieOfCluster k.toNat) (k.toNat % 8) (u.wholeGangs k.toNat lanes) (some h.tag) (.range (range.setWidth 3)))) ∧
    (∀ l0 m range : BitVec 8, s.taken t (.gangSet t h k l0 m range) = some (d, u) →
      ∀ ls op, (m ≠ 0 → ls = maskOf 8 ((List.range m.toNat).map (· + l0.toNat)) ∧
          op = RpsOp.gangForm l0.toNat m.toNat (range.setWidth 3) ∧
          ∀ n ∈ lanesOf k ls, ((u.chan n).st.gangMember || (u.chan n).st.gangMeas) = false ∧
            ((u.futureChan n).st.gangMember || (u.futureChan n).st.gangMeas) = false) →
      (m = 0 → ls = maskOf 8 (u.gangLanes (chanOf k.toNat l0.toNat)) ∧ op = .gangDissolve l0.toNat) →
      u.lanesFree k.toNat ls true = none →
      (∀ n ∈ lanesOf k ls, (u.chan n).st.still = true ∧ u.connected n = false) →
      u.slotsFor h → promiseKept h (u.bound (62000 + u.queuedBound k.toNat)) →
      exec (.gangSet t h k l0 m range) s =
        .next ((u.acceptNow d (u.groupOf k.toNat) (dieBit (dieOfCluster k.toNat))
            (.rps (u.die (dieOfCluster k.toNat)).rps.nextId) (u.bound (62000 + u.queuedBound k.toNat))).rpsSubmit
          (dieOfCluster k.toNat) (k.toNat % 8) ls (some h.tag) op)) ∧
    (∀ (apply mode cfg sel : BitVec 8) (avg div : BitVec 16) (m : Mode),
      s.taken t (.channelConfig t h k lanes apply mode cfg sel avg div) = some (d, u) → u.slotsFor h →
      Mode.ofCode mode.toNat = some m →
      (hasBit apply 0 = true → u.lanesFree k.toNat lanes true = none → (∀ n ∈ lanesOf k lanes, u.connected n = true) →
        u.powerShort (dieOfCluster k.toNat) ((lanesOf k lanes).map fun n => u.newCharge n fun c =>
          { c with st := { c.st with mode := m } }) u.tb = none →
        promiseKept h (u.bound (62000 + u.queuedBound k.toNat)) →
        exec (.channelConfig t h k lanes apply mode cfg sel avg div) s =
          .next (((u.acceptNow d (u.groupOf k.toNat) (dieBit (dieOfCluster k.toNat))
              (.rps (u.die (dieOfCluster k.toNat)).rps.nextId) (u.bound (62000 + u.queuedBound k.toNat))).updChans
            (fun n _ => (lanesOf k lanes).contains n) fun _ c => c.configure apply cfg sel avg div u.tb).rpsSubmit
            (dieOfCluster k.toNat) (k.toNat % 8) (u.wholeGangs k.toNat lanes) (some h.tag) (.config m))) ∧
      (hasBit apply 0 = false → u.lanesFree k.toNat lanes false = none → promiseKept h (u.bound 10000) →
        exec (.channelConfig t h k lanes apply mode cfg sel avg div) s =
          .next (((u.acceptNow d (u.groupOf k.toNat) (dieBit (dieOfCluster k.toNat)) .plain (u.bound 10000)).updChans
            (fun n _ => (lanesOf k lanes).contains n) fun _ c => c.configure apply cfg sel avg div u.tb).finish
            h.tag .ok 0 0 0))))

/-- R49, R51, R52, R79, R322, R323: CHANNEL_FORCE gives each lane its update group for the first instant 5 µs or more after the
decision; CHANNEL_MEASURE waits for a sample stamped 5 µs or more after it; GUARD_SET routes the guard at once; REF_DAC_SET
puts its code into the shadow for its tick, in place of one that waits, and too late it only sets LATE.
Where the spec leaves room, the reading is the model's (log entries 28 and 40). -/
def Obligations.PinCommandsAreAccepted : Prop :=
  ∀ (s u : State) (t : Tb) (h : Hdr) (d : Desc),
    (∀ (k lanes kinds : BitVec 8) (force : BitVec 32) (levels : List (BitVec 16)),
      s.taken t (.channelForce t h k lanes kinds force levels) = some (d, u) → u.lanesFree k.toNat lanes false = none →
      u.powerShort (dieOfCluster k.toNat) ((lanesOf k lanes).map fun n => u.newCharge n fun c =>
        { c with dac := c.dac.load (forceGroup kinds force levels) }) u.tb = none →
      u.slotsFor h →
      promiseKept h (u.bound (maxOf ((lanesOf k lanes).map fun n => (u.chan n).dacDiv) * 10 + 1000)) →
      exec (.channelForce t h k lanes kinds force levels) s =
        .next ((u.acceptNow d (u.groupOf k.toNat) (dieBit (dieOfCluster k.toNat)) (.force (dieOfCluster k.toNat))
            (u.bound (maxOf ((lanesOf k lanes).map fun n => (u.chan n).dacDiv) * 10 + 1000))).updChans
          (fun n _ => (lanesOf k lanes).contains n) fun _ c =>
            { c with forces := c.forces ++
                [{ tag := h.tag, instant := u.tb + 5000, entries := forceGroup kinds force levels }] })) ∧
    (∀ (k lanes : BitVec 8) (n : Nat), s.taken t (.channelMeasure t h k lanes) = some (d, u) →
      u.unavailable [dieOfCluster k.toNat] true = none → u.slotsFor h → n = chanOf k.toNat ((bitsOf lanes).headD 0) →
      promiseKept h (u.bound (2000 * ((u.chan n).meas.avgM1.toNat + 1))) →
      exec (.channelMeasure t h k lanes) s =
        .next (u.acceptNow d (u.groupOf k.toNat) (dieBit (dieOfCluster k.toNat)) (.measure n (u.tb + 5000))
          (u.bound (2000 * ((u.chan n).meas.avgM1.toNat + 1))))) ∧
    (∀ k guard : BitVec 8, s.taken t (.guardSet t h k guard) = some (d, u) →
      u.unavailable [dieOfCluster k.toNat] true = none →
      (∀ l < 8, u.held (chanOf k.toNat l) = false) → u.slotsFor h → promiseKept h (u.bound 10000) →
      exec (.guardSet t h k guard) s =
        .next (((u.acceptNow d (u.groupOf k.toNat) (dieBit (dieOfCluster k.toNat)) .plain (u.bound 10000)).setGuard k.toNat
          (guard.setWidth 3) (hasBit guard 3)).finish h.tag .ok 0 0 0)) ∧
    (∀ (x j : BitVec 8) (code : BitVec 16) (tick : BitVec 64), s.taken t (.refDacSet t h x j code tick) = some (d, u) →
      u.unavailable [x.toNat] true = none → u.slotsFor h → promiseKept h (tick.toNat + 10030) →
      ∀ v, v = u.acceptNow d none (dieBit x.toNat) (.refdac x.toNat j.toNat) (tick.toNat + 10030) →
      exec (.refDacSet t h x j code tick) s =
        .next (if tick.toNat ≤ u.tb then
            (v.updDie x.toNat fun y => { y with refLate := setBit y.refLate j.toNat }).finish h.tag .timeout 0x01 0 0
          else
            let w := v.updDie x.toNat fun y =>
              { y with
                refdac := y.refdac.modify j.toNat fun r =>
                  { r with shadow := code, pending := true, tick := tick.toNat, cmd := h.tag }
                refSuper := if (u.refDac x.toNat j.toNat).pending then setBit y.refSuper j.toNat else y.refSuper }
            if (u.refDac x.toNat j.toNat).pending then w.finish (u.refDac x.toNat j.toNat).cmd .revoked 0x06 0 0 else w))

/-- R197, R308, R315, R316: a channel command whose die cannot serve it, or whose lanes or cluster an accepted run holds, gets
one reply with that status and detail and changes nothing else. -/
def Obligations.ChannelChecksAnswer : Prop :=
  ∀ (s u : State) (t : Tb) (h : Hdr) (d : Desc) (k lanes mode range : BitVec 8) (st : Status) (e : Nat),
    (∀ (force : BitVec 32) (levels : List (BitVec 16)),
      s.taken t (.channelConnect t h k lanes mode range force levels) = some (d, u) →
      u.lanesFree k.toNat lanes true = some (st, e) →
      exec (.channelConnect t h k lanes mode range force levels) s = .next (u.single d true st e 0)) ∧
    (s.taken t (.channelDisconnect t h k lanes) = some (d, u) → u.lanesFree k.toNat lanes true = some (st, e) →
      exec (.channelDisconnect t h k lanes) s = .next (u.single d true st e 0)) ∧
    (s.taken t (.channelRange t h k lanes range) = some (d, u) → u.lanesFree k.toNat lanes true = some (st, e) →
      exec (.channelRange t h k lanes range) s = .next (u.single d true st e 0)) ∧
    (∀ (kinds : BitVec 8) (force : BitVec 32) (levels : List (BitVec 16)),
      s.taken t (.channelForce t h k lanes kinds force levels) = some (d, u) →
      u.lanesFree k.toNat lanes false = some (st, e) →
      exec (.channelForce t h k lanes kinds force levels) s = .next (u.single d true st e 0)) ∧
    (s.taken t (.channelMeasure t h k lanes) = some (d, u) → u.unavailable [dieOfCluster k.toNat] true = some (st, e) →
      exec (.channelMeasure t h k lanes) s = .next (u.single d true st e 0))

/-! ### Settings that take effect at their acceptance (R214) -/

/-- R153, R155, R160, R168, R169, R170: outside runs FAIL_LOG_CONFIG sets the log's policy and FAIL_CLEAR clears the
lanes' counts and the cluster's first fail; CAPTURE_CONFIG of an inactive stream takes its settings anew, keeping only
DROPPED; CAPTURE_RELEASE moves the read offset; TRIG_CONFIG of an engine at rest takes its settings and goes to IDLE.
Each is answered OK at once. R101, R104, R199, R204, R246, R329, R397, R398: WEIR_CONFIG sets the horizons that are
not 0; LOCK_LINK_CFG sets role and latency while no group spans; LOCK_GROUP_SET replaces a group, its clusters leaving
the others; THERMAL_CONFIG sets the named groups; IMAGE_UNLOAD frees the slot and the image's results; TB_ALIGN moves
a quiet FOLLOWER's TB by the offset to the master-side time. Each is answered OK at once.
Where the spec leaves room, the reading is the model's (log entries 35 and 61). -/
def Obligations.SettingsTakeEffect : Prop :=
  (∀ (s u : State) (t : Tb) (h : Hdr) (d : Desc) (k : BitVec 8) (v : State),
    v = u.acceptNow d (u.groupOf k.toNat) (dieBit (dieOfCluster k.toNat)) .plain (u.bound 10000) →
    u.unavailable [dieOfCluster k.toNat] true = none → u.slotsFor h → promiseKept h (u.bound 10000) →
    (∀ policy : BitVec 8, s.taken t (.failLogConfig t h k policy) = some (d, u) → u.clusterHeld k.toNat = false →
      exec (.failLogConfig t h k policy) s =
        .next ((v.updCluster k.toNat fun c => { c with flog := { c.flog with last := policy == 1 } }).finish
          h.tag .ok 0 0 0)) ∧
    (∀ lanes : BitVec 8, s.taken t (.failClear t h k lanes) = some (d, u) → u.clusterHeld k.toNat = false →
      exec (.failClear t h k lanes) s =
        .next (((v.updChans (fun n _ => (lanesOf k lanes).contains n) fun _ c =>
          { c with meas := { c.meas with fails := 0 } }).updCluster k.toNat fun c =>
          { c with ff := FirstFail.reset }).finish h.tag .ok 0 0 0)) ∧
    (∀ (i : BitVec 8) (off : BitVec 32) (c : Cap), s.taken t (.captureRelease t h k i off) = some (d, u) →
      (u.cap k.toNat i.toNat).mode ≠ 0 → (u.cap k.toNat i.toNat).release off.toNat = some c →
      exec (.captureRelease t h k i off) s =
        .next ((v.updCap k.toNat i.toNat fun c => (c.release off.toNat).getD c).finish h.tag .ok 0 0 0)) ∧
    (∀ (i mode sram : BitVec 8) (chunk pre post : BitVec 16) (base : BitVec 64) (size : BitVec 32) (c : Cap),
      s.taken t (.captureConfig t h k i mode sram chunk pre post base size) = some (d, u) →
      (u.cap k.toNat i.toNat).active = false → ((u.trig k.toNat).state = .idle ∨ (u.trig k.toNat).state = .done) →
      (mode = 0 → c = { Cap.reset with dropped := (u.cap k.toNat i.toNat).dropped }) →
      (mode ≠ 0 → c = { Cap.reset with
          mode := mode.toNat, sramSize := sram.toNat, chunk := chunk.toNat, pre := pre.toNat, post := post.toNat
          ringBase := base.toNat, ringSize := size.toNat, dropped := (u.cap k.toNat i.toNat).dropped
          rate := u.streamRate k.toNat i.toNat } ∧
        u.noDram [dieOfCluster k.toNat] = none ∧
        (u.updCap k.toNat i.toNat fun _ => c).shortDram (u.updCap k.toNat i.toNat fun _ => c).table
          [dieOfCluster k.toNat] u.tb none = none) →
      exec (.captureConfig t h k i mode sram chunk pre post base size) s =
        .next ((v.updCap k.toNat i.toNat fun _ => c).finish h.tag .ok 0 0 0)) ∧
    (∀ (source : BitVec 4) (cond pol : BitVec 2) (sel : BitVec 16) (lane : BitVec 8) (hi lo : BitVec 32) (g : Trig),
      s.taken t (.trigConfig t h k source cond pol sel lane hi lo) = some (d, u) →
      ((u.trig k.toNat).state = .idle ∨ (u.trig k.toNat).state = .done) →
      g = { u.trig k.toNat with
        state := .idle, source, cond, pol, select := sel, lane := lane.setWidth 3, thrHi := hi.setWidth 24
        thrLo := lo.setWidth 24, zone := none, inbox := [], ignFrom := none } →
      exec (.trigConfig t h k source cond pol sel lane hi lo) s =
        .next ((v.updTrig k.toNat fun _ => { g with level := u.sourceLevel k.toNat g }).finish h.tag .ok 0 0 0))) ∧
  (∀ (s u : State) (t : Tb) (h : Hdr) (d : Desc), u.slotsFor h →
    (∀ run bulk : BitVec 32, s.taken t (.weirConfig t h run bulk) = some (d, u) → promiseKept h (u.bound 10000) →
      exec (.weirConfig t h run bulk) s =
        .next (({ u.acceptNow d none 0 .plain (u.bound 10000) with
          weir := { (u.acceptNow d none 0 .plain (u.bound 10000)).weir with
            horizonRun := if run = 0 then u.weir.horizonRun else run.toNat
            horizonBulk := if bulk = 0 then u.weir.horizonBulk else bulk.toNat } } : State).finish h.tag .ok 0 0 0)) ∧
    (∀ role lat : BitVec 8, s.taken t (.lockLinkCfg t h role lat) = some (d, u) → promiseKept h (u.bound 10000) →
      (∀ g ∈ u.groups, g.span = false) →
      exec (.lockLinkCfg t h role lat) s =
        .next (((u.acceptNow d none 0 .plain (u.bound 10000)).updLink fun l =>
          if role = 0 then { l with role := 0, lat := lat.toNat, up := false, dn := false, aligned := false, qUp := []
                                    qDn := [] }
          else { l with role := role.toNat, lat := lat.toNat }).finish h.tag .ok 0 0 0)) ∧
    (∀ (g master flags slot : BitVec 8) (mask : BitVec 64),
      s.taken t (.lockGroupSet t h g master flags slot mask) = some (d, u) → promiseKept h (u.bound 10000) →
      u.unavailable ((bitsOf mask).map dieOfCluster).eraseDups true = none →
      (∀ o ∈ g.toNat :: u.losers g.toNat mask, u.runsOf o = []) →
      (∀ k ∈ bitsOf mask ++ (g.toNat :: u.losers g.toNat mask).flatMap u.membersOf, (u.trig k).atRest = true) →
      exec (.lockGroupSet t h g master flags slot mask) s =
        .next (({ u.acceptNow d (some g.toNat) (maskOf 8 ((bitsOf mask).map dieOfCluster).eraseDups) .plain (u.bound 10000)
            with
            groups := (u.groups.map fun x => x.without mask).set g.toNat
              (if mask = 0 then Group.empty
               else { members := mask, master := if master = 0xFF then none else some master.toNat
                      span := hasBit flags 0, slot := slot.toNat }) } : State).finish h.tag .ok 0 0 0)) ∧
    (∀ (x apply : BitVec 8) (watch warn throttle shut grace : BitVec 16) (ext : BitVec 8) (a b c : BitVec 32),
      s.taken t (.thermalConfig t h x apply watch warn throttle shut grace ext a b c) = some (d, u) →
      promiseKept h (u.tb + 15000) → u.unavailable [x.toNat] false = none →
      ((hasBit apply 0 = true ∧ watch = 0) → ∀ i < 64, u.connected (64 * x.toNat + i) = false) →
      exec (.thermalConfig t h x apply watch warn throttle shut grace ext a b c) s =
        .next (((u.acceptNow d none (dieBit x.toNat) .plain (u.tb + 15000)).updThm x.toNat fun y =>
          y.config apply watch warn throttle shut grace ext a b c).finish h.tag .ok 0 0 0)) ∧
    (∀ (id : BitVec 64) (i : Image), s.taken t (.imageUnload t h id) = some (d, u) → promiseKept h (u.tb + 100000) →
      u.image? id.toNat = some i → i.state ≠ .loading → i.state ≠ .verifying →
      (∀ r ∈ u.runs, r.image ≠ id.toNat) → u.imageRead id.toNat = false →
      exec (.imageUnload t h id) s =
        .next (({ u.acceptNow d none 0 .plain (u.tb + 100000) with
          images := u.images.filter fun i => i.id != id.toNat
          results := u.results.filter fun x => x.image != id.toNat } : State).finish h.tag .ok 0 0 0)) ∧
    (s.taken t (.tbAlign t h) = some (d, u) → promiseKept h (u.bound 10000) → u.link.role = 2 →
      (∀ w ∈ u.works, w.done.isSome = true) → u.runs = [] → (∀ x ∈ u.dies, ∀ r ∈ x.refdac, r.pending = false) →
      (∀ k ∈ u.clusterNums, (u.trig k).atRest = true) →
      ∀ (new : Tb) (v : State), new = ((u.tb : Int) + u.link.offset).toNat →
      v = (u.acceptNow d none 0 .plain (u.bound 10000)).updLink (fun l =>
        { l with offset := 0, returned := false, stray := false, trimTb := (new : Rat) }.align) →
      exec (.tbAlign t h) s =
        .next ((if new = u.tb then v
          else ({ v with tb := new, dies := u.dies.map fun x => { x with stepped := true } } : State).raise_
            { code := evTbStep, tb := new, detail := u.tb }).finish h.tag .ok 0
              (resultOf [(0x10, u.tb % 2 ^ 64), (0x18, new % 2 ^ 64)]) 0)))

/-! ### Commands that wait for a tick or for a unit -/

/-- R91, R152, R163, R214, R328: CHARGE_CLEAR, CAPTURE_START, CAPTURE_STOP, TRIG_ARM, TRIG_DISARM and PLL_SYNC with a tick
that has not passed are accepted with the promise that R214 gives, and wait: the streams and engines that they name
know the tick, and nothing else changes before it. R88, R89, R246, R251, R330, R395, R396, R407: PLL_SET starts a
tracked step or a relock, or waits behind the one in hand; THERMAL_READ and THERMAL_CLEAR ask the converter for a
conversion; IMAGE_VERIFY of a LOADED image begins its checks, of a VERIFIED one it is answered at once.
Where the spec leaves room, the reading is the model's (log entries 40 and 63). -/
def Obligations.CommandsWaitForTicksAndUnits : Prop :=
  (∀ (s u : State) (t : Tb) (h : Hdr) (d : Desc) (tick : BitVec 64), u.slotsFor h →
    (∀ k lanes : BitVec 8, s.taken t (.chargeClear t h k lanes tick) = some (d, u) →
      u.unavailable [dieOfCluster k.toNat] true = none → u.tb ≤ tick.toNat → promiseKept h (tick.toNat + 2000) →
      exec (.chargeClear t h k lanes tick) s = .next (u.acceptNow d (u.groupOf k.toNat) (dieBit (dieOfCluster k.toNat))
        (.chargeClear k.toNat lanes tick.toNat) (tick.toNat + 2000))) ∧
    (∀ (k : BitVec 8) (streams : BitVec 16), s.taken t (.captureStart t h k streams tick) = some (d, u) →
      u.unavailable [dieOfCluster k.toNat] true = none → u.tb + 20000 < tick.toNat →
      (∀ i ∈ bitsOf streams, (u.cap k.toNat i).mode = 1 ∧ (u.cap k.toNat i).active = false ∧
        (u.cap k.toNat i).startAt = none) →
      promiseKept h (tick.toNat + u.maxIval k.toNat streams + 1000) →
      exec (.captureStart t h k streams tick) s = .next ((bitsOf streams).foldl (fun v i =>
          v.updCap k.toNat i fun c => { c with startAt := some tick.toNat })
        (u.acceptNow d (u.groupOf k.toNat) (dieBit (dieOfCluster k.toNat)) (.capStart k.toNat streams tick.toNat)
          (tick.toNat + u.maxIval k.toNat streams + 1000)))) ∧
    (∀ (k : BitVec 8) (streams : BitVec 16), s.taken t (.captureStop t h k streams tick) = some (d, u) →
      u.unavailable [dieOfCluster k.toNat] true = none → u.tb + 20000 < tick.toNat →
      (∀ i ∈ bitsOf streams, ((u.cap k.toNat i).active = true ∨ (u.cap k.toNat i).startAt.isSome = true) ∧
        (u.cap k.toNat i).stopAt = none) →
      promiseKept h (tick.toNat + u.maxIval k.toNat streams + 1000) →
      exec (.captureStop t h k streams tick) s = .next ((bitsOf streams).foldl (fun v i =>
          v.updCap k.toNat i fun c => { c with stopAt := some tick.toNat })
        (u.acceptNow d (u.groupOf k.toNat) (dieBit (dieOfCluster k.toNat)) (.capStop k.toNat streams tick.toNat)
          (tick.toNat + u.maxIval k.toNat streams + 1000)))) ∧
    (∀ (kind id opts : BitVec 8) (max : BitVec 32) (hold : BitVec 64) (ks : List Nat),
      s.taken t (.trigArm t h kind id opts max hold tick) = some (d, u) → ks = u.armed kind.toNat id.toNat →
      (∃ k ∈ ks, (u.trig k).source ≠ 0 ∨ ∃ c ∈ (u.cluster k).caps, c.mode = 2) →
      u.unavailable (ks.map dieOfCluster).eraseDups true = none →
      (∀ k ∈ ks, (u.trig k).atRest = true ∧ (u.trig k).armAt = none) → u.tb + 20000 < tick.toNat →
      promiseKept h (tick.toNat + 1000) →
      exec (.trigArm t h kind id opts max hold tick) s = .next (
        (u.acceptNow d (if kind = 0 then some id.toNat else none) (maskOf 8 (ks.map dieOfCluster).eraseDups)
          (.trigArm kind.toNat id.toNat tick.toNat) (tick.toNat + 1000)).updClusters (fun k _ => ks.contains k) fun _ c =>
            { c with trig := { c.trig with
                holdMode := hasBit opts 0, rearm := hasBit opts 1, logIgn := hasBit opts 2, max, hold := hold.setWidth 48
                armAt := some tick.toNat, armWin := u.postWindow ks } })) ∧
    (∀ (kind id : BitVec 8) (ks : List Nat), s.taken t (.trigDisarm t h kind id tick) = some (d, u) →
      ks = u.armed kind.toNat id.toNat → u.unavailable (ks.map dieOfCluster).eraseDups true = none →
      u.tb + 20000 < tick.toNat → promiseKept h (tick.toNat + 1000) →
      exec (.trigDisarm t h kind id tick) s = .next (
        (u.acceptNow d (if kind = 0 then some id.toNat else none) (maskOf 8 (ks.map dieOfCluster).eraseDups)
          (.trigDisarm kind.toNat id.toNat tick.toNat) (tick.toNat + 1000)).updClusters (fun k _ => ks.contains k)
            fun _ c => { c with trig := { c.trig with disarmAt := some tick.toNat } })) ∧
    (∀ mask : BitVec 8, s.taken t (.pllSync t h mask tick) = some (d, u) → u.unavailable (bitsOf mask) false = none →
      (∀ x ∈ bitsOf mask, u.dieFree x = true ∧ (u.die x).pll.relocking = false) → u.tb + 20000 < tick.toNat →
      promiseKept h (tick.toNat + 1000) →
      exec (.pllSync t h mask tick) s =
        .next (u.acceptNow d none mask (.pllSync mask 0 tick.toNat) (tick.toNat + 1000)))) ∧
  (∀ (s u : State) (t : Tb) (h : Hdr) (d : Desc), u.slotsFor h →
    (∀ (x : BitVec 8) (a : PllArg), s.taken t (.pllSet t h x a) = some (d, u) → u.unavailable [x.toNat] false = none →
      u.dieFree x.toNat = true → promiseKept h (u.bound (100000 * (1 + u.pllAhead x.toNat))) →
      exec (.pllSet t h x a) s = .next (
        (u.acceptNow d none (dieBit x.toNat) (.pllSet x.toNat) (u.bound (100000 * (1 + u.pllAhead x.toNat)))).updPll x.toNat
          fun p => if p.cmd.isSome then { p with waiting := p.waiting ++ [(h.tag, pllSettingOf a)] }
            else p.begin (pllSettingOf a) h.tag u.tb)) ∧
    (∀ x sensor : BitVec 8, s.taken t (.thermalRead t h x sensor) = some (d, u) → u.unavailable [x.toNat] false = none →
      (sensor = 0 ∨ (u.die x.toNat).thm.extType ≠ 0) → promiseKept h (u.bound (u.die x.toNat).thm.readBound) →
      exec (.thermalRead t h x sensor) s = .next (
        (u.acceptNow d none (dieBit x.toNat) (.thermal x.toNat sensor.toNat) (u.bound (u.die x.toNat).thm.readBound)).updThm
          x.toNat fun y => y.ask sensor.toNat [h.tag] u.tb)) ∧
    (∀ x : BitVec 8, s.taken t (.thermalClear t h x) = some (d, u) → u.unavailable [x.toNat] false = none →
      (u.die x.toNat).st = .thermalOff → promiseKept h (u.bound ((u.die x.toNat).thm.readBound + 1000000)) →
      exec (.thermalClear t h x) s = .next (
        (u.acceptNow d none (dieBit x.toNat) (.thermalClear x.toNat)
          (u.bound ((u.die x.toNat).thm.readBound + 1000000))).updThm x.toNat fun y => y.ask 0 [h.tag] u.tb)) ∧
    (∀ (id : BitVec 64) (i : Image) (v : State), s.taken t (.imageVerify t h id) = some (d, u) →
      u.image? id.toNat = some i → u.unavailable (u.imgDies id.toNat) true = none → u.noDram (u.imgDies id.toNat) = none →
      promiseKept h (u.tb + verifyBound (u.imgRd id.toNat)) →
      v = u.acceptNow d none (maskOf 8 (u.imgDies id.toNat)) (.verify id.toNat) (u.tb + verifyBound (u.imgRd id.toNat)) →
      (i.state = .verified → exec (.imageVerify t h id) s = .next (v.finish h.tag .ok 0 0 0)) ∧
      (i.state = .loaded → exec (.imageVerify t h id) s =
        .next (v.updImage id.toNat fun i => { i with state := .verifying }))))

/-! ### Transfers and runs -/

/-- R209, R213, R247, R324, R327, R328: an IMAGE_LOAD, CAPTURE_READ, FAIL_LOG_READ or RESULTS_READ that the weir accepts
has its transfers among the accepted ones from the granted start on; a load takes an image slot in state LOADING, placed
where the part chooses (free values, log entry 7); a read of results that no die holds data for is answered at once.
Where the spec leaves room, the reading is the model's (log entries 26, 30 and 60). -/
def Obligations.TransfersAreGranted : Prop :=
  ∀ (s u : State) (t : Tb) (h : Hdr) (d : Desc) (host : BitVec 64) (start promise : Tb) (gs : List Grant),
    u.slotsFor h →
    (∀ (size : BitVec 64) (units : List (BitVec 32)) (ds : List Nat) (w v : State) (places : List (List (Nat × Nat))),
      s.taken t (.imageLoad t h host size units) = some (d, u) →
      ds = (List.range 8).filter (fun x => units.getD x 0 ≠ 0) →
      u.unavailable ds true = none → u.noDram ds = none → u.imageSlot units = none →
      u.weirDecide u.table (u.bulkAsk h ((if ds = [] then [0] else ds).map fun x =>
        { die := x, bytes := (units.getD x 0).toNat * 4096, dir := true })) = .accept start promise gs →
      w = u.accept d none (maskOf 8 ds) .bulk start promise 0 → (places, v) = w.placeImage units →
      exec (.imageLoad t h host size units) s = .next { v.addBulks h start gs (loadId w.nextImage) host with
        nextImage := v.nextImage + 1
        images := v.images ++ [{ id := loadId w.nextImage, state := .loading, dieMask := maskOf 8 ds, bytes := []
                                 units := units.map BitVec.toNat, places, duration := size.toNat, lost := 0, loads := [] }] }) ∧
    (∀ (k i : BitVec 8) (len off : BitVec 32), s.taken t (.captureRead t h k i len off host) = some (d, u) →
      u.unavailable [dieOfCluster k.toNat] true = none → u.noDram [dieOfCluster k.toNat] = none →
      (u.cap k.toNat i.toNat).mode ≠ 0 → (u.cap k.toNat i.toNat).spanOk off.toNat len.toNat = true → u.dmaSlot = none →
      u.weirDecide u.table (u.bulkAsk h [{ die := dieOfCluster k.toNat, bytes := len.toNat, dir := false }]) =
        .accept start promise gs →
      exec (.captureRead t h k i len off host) s =
        .next ((u.accept d (u.groupOf k.toNat) (dieBit (dieOfCluster k.toNat)) .bulk start promise 0).addBulks h start gs
          (k.toNat * 2 ^ 40 + i.toNat * 2 ^ 32 + off.toNat) host)) ∧
    (∀ (k : BitVec 8) (first count : BitVec 32), s.taken t (.failLogRead t h k first count host) = some (d, u) →
      u.unavailable [dieOfCluster k.toNat] true = none → u.noDram [dieOfCluster k.toNat] = none → u.dmaSlot = none →
      u.weirDecide u.table (u.bulkAsk h
        [{ die := dieOfCluster k.toNat, bytes := 16 * min count.toNat 65536, dir := false }]) =
        .accept start promise gs →
      exec (.failLogRead t h k first count host) s =
        .next ((u.accept d (u.groupOf k.toNat) (dieBit (dieOfCluster k.toNat)) .bulk start promise 0).addBulks h start gs
          (k.toNat * 2 ^ 64 + first.toNat + count.toNat * 2 ^ 32) host)) ∧
    (∀ (g hist : BitVec 8) (first count : BitVec 16) (runS : BitVec 64) (x : Results) (asks : List BulkAsk) (src : Nat)
        (v : State),
      s.taken t (.resultsRead t h g hist first count runS host) = some (d, u) →
      u.results.find? (fun x => x.group == g.toNat && x.s == runS.toNat) = some x →
      asks = u.resultAsks x (hasBit hist 0) first.toNat count.toNat →
      u.unavailable (asks.map (·.die)) false = none → u.dmaSlot = none →
      u.weirDecide u.table (u.bulkAsk h asks) = .accept start promise gs →
      src = first.toNat + count.toNat * 2 ^ 16 + bit (hasBit hist 0) * 2 ^ 63 →
      v = u.accept d (some g.toNat) (maskOf 8 (asks.map (·.die))) .bulk start promise 0 →
      exec (.resultsRead t h g hist first count runS host) s =
        .next (if gs = [] then v.resultsDone h.tag g.toNat src host (0, 0) else v.addBulks h start gs src host))

/-- R193, R197, R200 to R203, R326: a RUN_START that passes its state checks, whose channels are calibrated or that does not
ask for it, with fewer than four runs on its group and a start that the weir grants, is answered with that start and its
arm TB, and its run holds its channels and clusters; RUN_STOP sets the stop 10 µs on; RUN_ABORT takes the abort's path.
Where the spec leaves room, the reading is the model's (log entries 9 and 41). -/
def Obligations.RunsAreAdmitted : Prop :=
  ∀ (s u : State) (t : Tb) (h : Hdr) (d : Desc) (g : BitVec 8), u.slotsFor h →
    (∀ (id : BitVec 64) (mode : BitVec 8) (at_ : BitVec 64) (i : Image) (hd : Hdr8) (start promise : Tb)
        (gs : List Grant) (x : Run),
      s.taken t (.runStart t h id g mode at_) = some (d, u) →
      u.image? id.toNat = some i → i.state = .verified → hd = imgHdr i.rd →
      u.unavailable (diesOf hd.dieMask) true = none → u.noDram (diesOf hd.dieMask) = none →
      (u.group g.toNat).members ≠ 0 → (u.group g.toNat).members = hd.clusterMask →
      u.startErr i.rd g.toNat = none → (hd.stretch && (u.group g.toNat).span) = false →
      u.patchesEqual (diesOf hd.dieMask) = true →
      (hd.allowUncal = true ∨ ∀ n ∈ imgChannels i.rd, u.calValid n = true) → (u.runsOf g.toNat).length < 4 →
      u.weirDecide u.table (u.runAsk h i.rd g.toNat (mode == 1) at_.toNat) = .accept start promise gs →
      x = newRun h g.toNat id.toNat i.rd start promise →
      ∀ v : State, v = u.accept d (some g.toNat) hd.dieMask .run start promise (start - startLatency (imgLoads i.rd)) →
      exec (.runStart t h id g mode at_) s =
        .next (({ v with runs := v.runs ++ [x] } : State).refreshHolds x.mapped (bitsOf hd.clusterMask))) ∧
    (∀ (tag : BitVec 16) (r : Run) (v : State), s.taken t (.runStop t h g tag) = some (d, u) →
      u.namedRun g tag = .inr r → promiseKept h r.p →
      v = u.acceptNow d (some g.toNat) (imgHdr (u.imgRd r.image)).dieMask
        (if u.runEnding r then .endingOf r.tag else .stopOf r.tag) r.p →
      exec (.runStop t h g tag) s = .next (
        if u.runEnding r then v
        else v.updRun r.tag fun r => if r.stopTb.isSome then r else { r with stopTb := some (u.tb + 10000, .ok, 0x02) })) ∧
    (∀ (tag : BitVec 16) (r : Run) (v : State), s.taken t (.runAbort t h g tag) = some (d, u) →
      u.namedRun g tag = .inr r → promiseKept h (u.tb + 400000) →
      v = u.acceptNow d (some g.toNat) (imgHdr (u.imgRd r.image)).dieMask
        (if u.runEnding r then .endingOf r.tag else .abortOf r.tag) (u.tb + 400000) →
      exec (.runAbort t h g tag) s = .next (if u.runEnding r then v else v.hostAbort r 0))

/-! ### Class 3 commands (R217) -/

/-- R214, R217, R381, R387, R388: CAL_READ and CAL_WRITE are accepted behind what uses the die, with their bound; where
none does they are served at once: the bytes of calibration RAM go to the host, or the host's into calibration RAM,
and the touched channels that are connected and not held queue their present codes again. R217, R383 to R386, R391: a
CAL_STEP that its checks pass waits behind what uses its die; else a die step measures at once, FINISH completes its
block, and any other step takes its channel and asks the RPS for the route to its net. CAL_COMMIT waits for the flash
and for steps that execute; else the flash takes the staged calibration RAMs and the header of the target slot.
Where the spec leaves room, the reading is the model's (log entries 45 and 69). -/
def Obligations.CalibrationCommandsBegin : Prop :=
  (∀ (s u : State) (t : Tb) (h : Hdr) (d : Desc) (x : BitVec 8) (off len : BitVec 32) (host : BitVec 64) (bound : Nat)
      (v : Option Instr → State),
    u.slotsFor h → u.bgSlot = none →
    bound = 100000 + len.toNat + 5000 * (blocksOf off.toNat len.toNat).length →
    promiseKept h (u.tb + u.ahead3 (dieRes (dieBit x.toNat)) + bound) →
    (∀ c, v c = u.acceptNow d none (dieBit x.toNat) (.class3 (dieRes (dieBit x.toNat)) bound c)
      (u.tb + u.ahead3 (dieRes (dieBit x.toNat)) + bound)) →
    u.unavailable [x.toNat] false = none →
    (s.taken t (.calRead t h x off len host) = some (d, u) →
      exec (.calRead t h x off len host) s = .next (
        if u.busy3 (dieRes (dieBit x.toNat)) then v (some (.calRead t h x off len host))
        else ((v none).hostWrite host.toNat (Mem.bytes ramByte (u.die x.toNat).cal off.toNat len.toNat)).finish
          h.tag .ok 0 (resultOf [(0x14, len.toNat)]) 0)) ∧
    (∀ data : List Byte, s.taken t (.calWrite t h x off len host data) = some (d, u) →
      (∀ i ∈ blocksOf off.toNat len.toNat, u.held (64 * x.toNat + i) = false ∧
        (u.chan (64 * x.toNat + i)).st.rpsBusy = false) →
      (off.toNat < 0x100 → u.dieHeld x.toNat = false) →
      exec (.calWrite t h x off len host data) s = .next (
        if u.busy3 (dieRes (dieBit x.toNat)) then v (some (.calWrite t h x off len host data))
        else
          ((((v none).holdAna x.toNat).updDie x.toNat fun y =>
            { y with cal := Mem.setBytes ramByte y.cal off.toNat (fixLen len.toNat data) }).updChans
            (fun n _ => (((blocksOf off.toNat len.toNat).map (64 * x.toNat + ·)).filter fun n =>
              u.connected n && !u.held n).contains n)
            fun _ c => { c with queue := c.queue ++ c.presentGroup }).finish h.tag .ok 0 (resultOf [(0x14, len.toNat)]) 0))) ∧
  (∀ (s u : State) (t : Tb) (h : Hdr) (d : Desc), u.slotsFor h → u.bgSlot = none →
    (∀ (step : BitVec 16) (arg : List Byte) (meas : List Int) (x n : Nat) (res : BitVec 9) (bound : Nat)
        (v : Option Instr → State),
      s.taken t (.calStep t h step arg meas) = some (d, u) → u.calStepErr step arg = none →
      x = calArg arg 2 1 → n = calArg arg 0 2 → res = dieRes (dieBit (calDie step arg)) →
      bound = calStepBound step.toNat x → promiseKept h (u.tb + u.ahead3 res + bound) →
      (∀ c, v c = u.acceptNow d none (dieBit (calDie step arg)) (.class3 res bound c) (u.tb + u.ahead3 res + bound)) →
      exec (.calStep t h step arg meas) s = .next (
        if u.busy3 res then v (some (.calStep t h step arg meas))
        else if step.toNat < 0x10 then
          (v none).calDieStep h.tag step.toNat n x (signed 32 (calArg arg 4 4)) meas
        else if step = 0x30 then (v none).calFinish h.tag n meas
        else if u.connected n || (step == 0x20 && !u.nearTemp (n / 64) x) then
          (v none).finish h.tag .badState 0x01 0 0
        else
          ((v none).updDie (n / 64) fun y => { y with calRun := some { tag := h.tag, step := .calStep 0 h step arg meas } }).rpsSubmit
            (n / 64) (clusterOf n % 8) (maskOf 8 [laneOf n]) (some h.tag) (.calRoute (stepNet step.toNat) false))) ∧
    (∀ (waits : Bool) (v : State), s.taken t (.calCommit t h) = some (d, u) →
      u.unavailable (bitsOf u.dieMask) false = none → u.cal.full = false →
      promiseKept h (u.tb + u.ahead3 flashRes + u.commitBound) →
      waits = (u.busy3 flashRes || u.dieNums.any u.stepping) →
      v = u.acceptNow d none 0 (.class3 flashRes u.commitBound (if waits then some (.calCommit t h) else none))
        (u.tb + u.ahead3 flashRes + u.commitBound) →
      exec (.calCommit t h) s = .next (
        if waits then v
        else v.startOp { FlashOp.plain 2 (calBase u.cal.target.1) 0 h.tag with
          data := (bitsOf u.dieMask).flatMap (fun x => Mem.bytes ramByte (u.die x).cal 0 65536) ++
            u.calHeader u.cal.target.2 ((bitsOf u.dieMask).flatMap fun x => Mem.bytes ramByte (u.die x).cal 0 65536) })))

/-- R217, R330, R361 to R363: NVM_READ, NVM_WRITE and NVM_ERASE outside the locked regions wait for the flash, or give it their
operation at once: the span to read, the served bytes to program, or the sectors to erase.
Where the spec leaves room, the reading is the model's (log entry 69). -/
def Obligations.FlashCommandsQueue : Prop :=
  ∀ (s u : State) (t : Tb) (h : Hdr) (d : Desc) (off len : BitVec 32) (v : Nat → Option Instr → State),
    u.slotsFor h → u.bgSlot = none →
    (∀ b c, v b c = u.acceptNow d none 0 (.class3 flashRes b c) (u.tb + u.ahead3 flashRes + b)) →
    (∀ host : BitVec 64, s.taken t (.nvmRead t h off len host) = some (d, u) →
      promiseKept h (u.tb + u.ahead3 flashRes + u.serial.readBound len.toNat) →
      exec (.nvmRead t h off len host) s = .next (
        if u.busy3 flashRes then v (u.serial.readBound len.toNat) (some (.nvmRead t h off len host))
        else (v (u.serial.readBound len.toNat) none).startOp
          { FlashOp.plain 3 off.toNat len.toNat h.tag with host := host })) ∧
    (∀ (host : BitVec 64) (data : List Byte), s.taken t (.nvmWrite t h off len host data) = some (d, u) →
      u.regionLocked off.toNat len.toNat = false →
      promiseKept h (u.tb + u.ahead3 flashRes + u.serial.writeBound off.toNat len.toNat) →
      exec (.nvmWrite t h off len host data) s = .next (
        if u.busy3 flashRes then v (u.serial.writeBound off.toNat len.toNat) (some (.nvmWrite t h off len host data))
        else (v (u.serial.writeBound off.toNat len.toNat) none).startOp
          { FlashOp.plain 0 off.toNat 0 h.tag with data := fixLen len.toNat data, whole := fixLen len.toNat data })) ∧
    (s.taken t (.nvmErase t h off len) = some (d, u) → u.regionLocked off.toNat len.toNat = false →
      promiseKept h (u.tb + u.ahead3 flashRes + u.serial.eraseBound len.toNat) →
      exec (.nvmErase t h off len) s = .next (
        if u.busy3 flashRes then v (u.serial.eraseBound len.toNat) (some (.nvmErase t h off len))
        else (v (u.serial.eraseBound len.toNat) none).startOp (FlashOp.plain 1 off.toNat len.toNat h.tag)))

/-- R217, R270, R271, R275, R331, R332: PATCH_APPLY without accepted runs or RPS sequences waits for the flash or loads every
reachable die, answering OK only where all loaded; DRAM_CONFIG waits for its dies or sets the groups that APPLY names, under
a bound that is a free value (log entry 7); DRAM_RETRAIN starts a full retrain, wants a tracking one, or merges with the
one in hand. The bound of PATCH_APPLY is the model's choice (log entry 46).
Where the spec leaves room, the reading is the model's (log entries 39 and 69). -/
def Obligations.PatchAndDramCommands : Prop :=
  ∀ (s u : State) (t : Tb) (h : Hdr) (d : Desc), u.slotsFor h → u.bgSlot = none →
    (∀ v : Option Instr → State, s.taken t (.patchApply t h) = some (d, u) → u.runs = [] → u.rpsBusy = false →
      promiseKept h (u.tb + u.ahead3 flashRes + 50000) →
      (∀ c, v c = u.acceptNow d none 0 (.class3 flashRes 50000 c) (u.tb + u.ahead3 flashRes + 50000)) →
      exec (.patchApply t h) s = .next (
        if u.busy3 flashRes then v (some (.patchApply t h))
        else (v none).patchAll.2.finish h.tag (if (v none).patchAll.1 then .ok else .hwFault)
          (if (v none).patchAll.1 then 0 else 0x08)
          (resultOf [(0x10, ((v none).patchAll.2.die 0).rps.patchVer.toNat)]) 0)) ∧
    (∀ (mask apply : BitVec 8) (age pd rh ival : BitVec 16) (eye : BitVec 8) (b : Nat) (v : Option Instr → State),
      ({ s with free := s.free + 1 } : State).taken t (.dramConfig t h mask apply age pd rh ival eye) = some (d, u) →
      u.unavailable (bitsOf mask) false = none → b = ((Config.freeValue s.free).setWidth 32).toNat →
      promiseKept h (u.tb + u.ahead3 (dieRes mask) + b) →
      (∀ c, v c = u.acceptNow d none mask (.class3 (dieRes mask) b c) (u.tb + u.ahead3 (dieRes mask) + b)) →
      exec (.dramConfig t h mask apply age pd rh ival eye) s = .next (
        if u.busy3 (dieRes mask) then v (some (.dramConfig t h mask apply age pd rh ival eye))
        else ((bitsOf mask).foldl (fun w x => w.updDram x fun y => y.config apply age pd rh ival eye w.tb)
          (v none)).finish h.tag .ok 0 0 0)) ∧
    (∀ (x mode : BitVec 8) (bound : Nat) (v : Option Instr → State),
      s.taken t (.dramRetrain t h x mode) = some (d, u) → u.unavailable [x.toNat] false = none →
      (mode = 1 → u.fullBlocked x.toNat = false) → (mode ≠ 1 → u.noDram [x.toNat] = none) →
      bound = (if mode = 1 then 150000000 else 1412000) →
      promiseKept h (u.tb + u.ahead3 (dieRes (dieBit x.toNat)) + bound) →
      (∀ c, v c = u.acceptNow d none (dieBit x.toNat) (.class3 (dieRes (dieBit x.toNat)) bound c)
        (u.tb + u.ahead3 (dieRes (dieBit x.toNat)) + bound)) →
      exec (.dramRetrain t h x mode) s = .next (
        if u.busy3 (dieRes (dieBit x.toNat)) && !(mode != 1 && u.merges x.toNat) then v (some (.dramRetrain t h x mode))
        else (v none).runRetrain h x.toNat (mode == 1)))

/-! ### The host's registers, rings and memory window -/

/-- R284, R293, R294, R317: with the rings served, INLET_DB is a sign of life and announces descriptors to an enabled inlet, stops it when
the index runs ahead of the ring, and is counted as bad on an inlet that is disabled or stopped; OUTLET_DB and EVENT_DB give back entries
up to the part's index and are counted as bad beyond it. -/
def Obligations.DoorbellsMoveIndices : Prop :=
  ∀ (s u w : State) (t : Tb) (v : Word),
    u = s.at t → u.ringsServed = true → w = u.updPci (fun p => { p with l1 := false }) →
    (∀ i : BitVec 4, exec (.inletDb t i v) s = .next (
      if (u.inlet i.toNat).enable = false ∨ (u.inlet i.toNat).stopped = true then w.hostSign.badDoorbell
      else if 2 ^ (u.inlet i.toNat).sizeLog2 < (v.setWidth 16 - (u.inlet i.toNat).index).toNat then
        w.hostSign.stopInlet i.toNat
      else w.hostSign.updInlet i.toNat fun r => { r with
        peer := v.setWidth 16
        announced := r.announced.take (v.setWidth 16 - r.index).toNat ++
          List.replicate ((v.setWidth 16 - r.index).toNat - r.announced.length) u.tb })) ∧
    (∀ o : BitVec 4, exec (.outletDb t o v) s = .next (
      if (u.outlet o.toNat).enable = true ∧
          (v.setWidth 16 - (u.outlet o.toNat).peer).toNat ≤ ((u.outlet o.toNat).index - (u.outlet o.toNat).peer).toNat then
        (w.updOutlet o.toNat fun r => { r with peer := v.setWidth 16 }).flushAll
      else w.badDoorbell)) ∧
    (exec (.eventDb t v) s = .next (
      if u.evRing.enable = true ∧ (v.setWidth 16 - u.evRing.peer).toNat ≤ (u.evRing.index - u.evRing.peer).toNat then
        { w with evRing := { w.evRing with peer := v.setWidth 16 } }
      else w.badDoorbell))

/-- R292, R294, R296: a write of a ring's CFG enables or disables it; enabling a disabled ring puts its indices at 0, and its size
and vector change only while it is disabled; an inlet leaves STOPPED; held replies go where they can. -/
def Obligations.RingsAreConfigured : Prop :=
  (∀ (s u w : State) (t : Tb) (v : Word), u = s.at t → u.ringsServed = true →
    w = u.updPci (fun p => { p with l1 := false }) →
    (∀ i : BitVec 4, exec (.ringCfgWrite t (.inlet i) v) s = .next (w.updInlet i.toNat fun r => r.cfg v)) ∧
    (∀ o : BitVec 4, exec (.ringCfgWrite t (.outlet o) v) s =
      .next (w.updOutlet o.toNat fun r => r.cfg v).flushAll) ∧
    exec (.ringCfgWrite t .event v) s = .next ({ w with evRing := w.evRing.cfg v } : State).flushAll) ∧
  (∀ (r : Ring) (v : Word), (r.cfg v).enable = hasBit v 8 ∧
    (r.enable = true → (r.cfg v).sizeLog2 = r.sizeLog2 ∧ (r.cfg v).vector = r.vector ∧ (r.cfg v).index = r.index) ∧
    (r.enable = false → hasBit v 8 = true → (r.cfg v).index = 0 ∧ (r.cfg v).peer = 0) ∧
    (r.enable = false → (r.cfg v).vector = (v.toNat / 65536) % 64 ∧ (r.cfg v).sizeLog2 =
      if 4 ≤ v.toNat % 16 ∧ v.toNat % 16 ≤ 12 then v.toNat % 16 else r.sizeLog2)) ∧
  (∀ (r : Inlet) (v : Word), (r.cfg v).enable = hasBit v 8 ∧ (r.cfg v).stopped = false ∧
    (r.enable = false → hasBit v 8 = true → (r.cfg v).index = 0 ∧ (r.cfg v).peer = 0 ∧ (r.cfg v).announced = []))

/-- R288, R300, R305: SNAPSHOT freezes the named group's words or releases; APERTURE_WRITE places the window, or sets BAD for a die that
the model has not; DIAG_GO runs the operation of the diagnostic window unless one is in progress, which sets EARLY; an access to
DIAG_DATA meanwhile sets EARLY and moves nothing.
Where the spec leaves room, the reading is the model's (log entry 22). -/
def Obligations.WindowsAreSet : Prop :=
  ∀ (s u w : State) (t : Tb) (v : Word), u = s.at t → w = u.updPci (fun p => { p with l1 := false }) →
    (∀ (ws : List (Nat × Word)) (x : State), w.groupCopy (v.toNat % 16) = (ws, x) →
      exec (.snapshot t v) s = .next (
        if hasBit v 7 then { w with frozen := none }
        else if v.toNat % 16 < 4 then { x with frozen := some { group := v.toNat % 16, words := ws } }
        else w) ∧
      ws.map (·.1) = (w.bar0Words.map (·.1)).filter (inGroup (v.toNat % 16))) ∧
    (exec (.apertureWrite t true v) s = .next (
      if w.hasDie (v.toNat / 32 % 8) then w.updPci fun p => { p with
        apBaseHi := v.setWidth 2, apDie := BitVec.ofNat 3 (v.toNat / 32 % 8), apBad := p.apBad && !hasBit v 16 }
      else w.updPci fun p => { p with apBad := true })) ∧
    (exec (.apertureWrite t false v) s = .next (
      if w.hasDie w.pci.apDie.toNat then w.updPci fun p => { p with apBaseLo := BitVec.ofNat 4 (v.toNat / 2 ^ 28 % 16) }
      else w.updPci fun p => { p with apBad := true })) ∧
    (u.ringsServed = true → ∀ x, x = { w with diag := { w.diag with
        count := if 1 ≤ v.toNat % 128 ∧ v.toNat % 128 ≤ 64 then v.toNat % 128 else w.diag.count
        write := hasBit v 8, snap := hasBit v 9 } } →
      exec (.diagGo t v) s = .next (
        if u.diag.busy then { x with diag := { x.diag with early := true } } else x.diagRun)) ∧
    (u.ringsServed = true → u.diag.busy = true → u.sized → ∀ write : Bool, ∃ x, exec (.diagDataEarly t write) s = .next x ∧
      x.diag = { u.diag with early := true } ∧ (write = true → x = { w with diag := { u.diag with early := true } }) ∧
      (write = false → x.out.readData = [0]))

/-- R11 to R13, R284, R286, R287: a write with all byte enables reaches its register, one with fewer is discarded and counted; a die
register written on the diagnostic path takes the word where its die serves it. A read gives the register's enabled bytes,
clears its RC fields, and a read of a _LO register latches its _HI on that path, where the read of the _HI finds it. What DMA_DONE
of a busy channel shows is a free value (log entry 7). R297: a word of the MSI-X table or of the PBA is read and written as it
stands.
Where the spec leaves room, the reading is the model's (log entries 14 and 77). -/
def Obligations.RegistersAreAccessed : Prop :=
  ∀ (s u w : State) (t : Tb), u = s.at t → w = u.updPci (fun p => { p with l1 := false }) →
    (∀ (off : Nat) (v : Word) (be : BitVec 4), exec (.registerWrite t (.bar0 off) v be) s = .next (
      if be = 0xF then w.bar0Set off v else w.updPci fun p => { p with bar0Partial := inc32 p.bar0Partial })) ∧
    (∀ (off : Nat) (v : Word) (be : BitVec 4), exec (.registerWrite t (.bar4 off) v be) s = .next (w.bar4Set off v) ∧
      exec (.rcRead t .bar0 (.bar4 off) be) s =
        .next (w.updOut fun o => { o with readData := [byteEnabled (w.bar4Word off) be] })) ∧
    (∀ (x off : Nat) (v : Word) (be : BitVec 4), u.hasDie x = true → off < 0x1000000 → off % 4 = 0 →
      u.boot.ready = true → u.placeServed (regPlace x off) = true →
      exec (.registerWrite t (.die x off) v be) s = .next (u.writePlace v (regPlace x off))) ∧
    (∀ (off : Nat) (be : BitVec 4), w.dmaDone off = none → bar0Lo off = false →
      ¬ (4 ≤ off ∧ bar0Lo (off - 4) = true) → exec (.rcRead t .bar0 (.bar0 off) be) s = .next
        ((w.bar0Clear off).updOut fun o => { o with readData := [byteEnabled (w.bar0Word off) be] })) ∧
    (∀ (off : Nat) (be : BitVec 4) (v : Word) (y : State), w.dmaDone off = some (v, y) → bar0Lo off = false →
      exec (.rcRead t .bar0 (.bar0 off) be) s = .next
        ((y.bar0Clear off).updOut fun o => { o with readData := [byteEnabled v be] })) ∧
    (∀ off : Nat, bar0Lo off = true → exec (.loReadLatch t .bar0 (.bar0 off)) s = .next
        (({ w with latBar := (off + 4, w.bar0Word (off + 4)) :: w.latBar.filter fun p => p.1 ≠ off + 4 } : State).updOut
          fun o => { o with readData := [byteEnabled (w.bar0Word off) 0xF] })) ∧
    (∀ (off : Nat) (be : BitVec 4), bar0Lo off = true → exec (.rcRead t .bar0 (.bar0 (off + 4)) be) s = .next
        (w.updOut fun o => { o with readData := [byteEnabled ((w.latBar.lookup (off + 4)).getD 0) be] })) ∧
    (∀ (x off : Nat) (be : BitVec 4) (v : Word) (lat : Latches) (y : State), u.hasDie x = true → off < 0x1000000 →
      off % 4 = 0 → u.boot.ready = true → u.placeServed (regPlace x off) = true →
      u.readPlace u.latDiag (x * 2 ^ 37 + 0x1800000000 + off) (regPlace x off) = (v, lat, y) →
      exec (.rcRead t .diag (.die x off) be) s =
        .next (({ y with latDiag := lat } : State).updOut fun o => { o with readData := [v] }) ∧
      exec (.loReadLatch t .diag (.die x off)) s =
        .next (({ y with latDiag := lat } : State).updOut fun o => { o with readData := [v] }))

/-- R300: a read through BAR 2 gives the DRAM bytes of the window, 0 where none can be read; a write stores every byte where all of
them may be written. R261: either is a request to the die's controller. A write that touches a byte that may not is discarded whole and counted, which is the model's reading (log
entry 12). -/
def Obligations.WindowReachesDram : Prop :=
  ∀ (s u w : State) (t : Tb) (off : Nat), u = s.at t → w = u.updPci (fun p => { p with l1 := false }) →
    (∀ (len : Nat) (ws : List Word), off + len ≤ 2 ^ 28 →
      ws = (List.range ((len + 3) / 4)).map (fun j => BitVec.ofNat 32
        (ofLe ((List.range (min 4 (len - 4 * j))).map fun b => w.bar2Byte (off + 4 * j + b)))) →
      exec (.bar2Read t off len) s = .next ((if w.bar2Served u.pci.apDie.toNat then
          w.apertureAsk u.pci.apDie.toNat ((u.pci.apBaseLo.toNat + u.pci.apBaseHi.toNat * 16) * 2 ^ 28 + off) len
        else w).updOut fun o => { o with readData := ws })) ∧
    (∀ data : List Byte, off + data.length ≤ 2 ^ 28 → exec (.bar2Write t off data) s = .next (
      if ∀ i < data.length, u.bar2Writable (off + i) = true then
        (w.updDram u.pci.apDie.toNat fun x => { x with
          mem := Mem.setBytes ramByte x.mem ((u.pci.apBaseLo.toNat + u.pci.apBaseHi.toNat * 16) * 2 ^ 28 + off) data })
          |>.apertureAsk u.pci.apDie.toNat ((u.pci.apBaseLo.toNat + u.pci.apBaseHi.toNat * 16) * 2 ^ 28 + off) data.length
      else w.updPci fun p => { p with bar2Discard := inc32 p.bar2Discard }))

/-! ### The endpoint, its rings and its events -/

/-- R279: the part enters L1 where no run is accepted, and stays where one is. R280: D3HOT_ENTRY aborts every run as the host
would and breaks the transfers that move. R280, R296: RETURN_TO_D0 lets held replies go. R282, R303: INTERFACE_RESET
disables every ring, puts the aperture at 0, masks every vector, turns PTM off and breaks transfers, and leaves the rest.
R281: a link that trains to another width or speed raises LINK_CHANGE and the cause bit, and what no longer fits is
revoked. R303: a PTM dialogue with a response pairs the previous dialogue's start plus the propagation delay with the
master time; the first one has no previous dialogue to pair; the third without a response in a row raises PTM_FAIL and
ends VALID; with PTM off a dialogue changes nothing.
Where the spec leaves room, the reading is the model's (log entries 13, 62 and 77). -/
def Obligations.EndpointSteps : Prop :=
  (∀ (s u : State) (t : Tb), u = s.at t →
    exec (.l1Entry t) s =
      .next (if u.runs = [] then u.updPci fun p => { p with l1 := true, aspmL1 := true } else u) ∧
    exec (.d3hotEntry t) s =
      .next (if u.pci.d3hot = true then u else ((u.updPci fun p => { p with d3hot := true }).hostAbortAll 0).breakAll) ∧
    exec (.returnToD0 t) s =
      .next (if u.pci.d3hot = true then (u.updPci fun p => { p with d3hot := false }).flushAll else u) ∧
    exec (.interfaceReset t) s = .next ({ u with
      inlets := u.inlets.map fun r => { r with enable := false }
      outlets := u.outlets.map fun r => { r with enable := false }
      evRing := { u.evRing with enable := false }
      ptm := { u.ptm with enable := false }
      pci := { u.pci with
        d3hot := false, l1 := false, aspmL1 := false, apBaseLo := 0, apBaseHi := 0, maskAll := BitVec.allOnes 64 } } :
      State).breakAll ∧
    ∀ (width : BitVec 6) (speed : BitVec 3), exec (.linkChange t width speed) s = .next (
      if u.pci.width = width.toNat ∧ u.pci.speed = speed.toNat then u
      else (((u.updPci fun p => { p with width := width.toNat, speed := speed.toNat, l1 := false }).misc .link).raise_
        { code := 0x0050, tb := u.tb, detail := width.toNat + 256 * speed.toNat }).linkFell)) ∧
  (∀ (s u : State) (t t1 : Tb), u = s.at t →
    (∀ resp, u.ptm.enable = false → exec (.ptmDialogue t t1 resp) s = .next u) ∧
    (u.ptm.enable = true → ∀ (host : BitVec 64) (prop : Nat),
      (u.ptm.prevT1 = none → exec (.ptmDialogue t t1 (some (host, prop))) s =
        .next { u with ptm := { u.ptm with prevT1 := some t1, missed := 0 } }) ∧
      ∀ t0 : Tb, u.ptm.prevT1 = some t0 → exec (.ptmDialogue t t1 (some (host, prop))) s =
        .next { u with ptm := { u.ptm with
          prevT1 := some t1, missed := 0, valid := true, pairs := min (u.ptm.pairs + 1) (2 ^ 24 - 1), pairTb := t0 + prop
          pairHost := host, prop } }) ∧
    (u.ptm.enable = true → u.ptm.missed < 2 → exec (.ptmDialogue t t1 none) s =
      .next { u with ptm := { u.ptm with prevT1 := some t1, missed := u.ptm.missed + 1 } }) ∧
    (u.ptm.enable = true → 2 ≤ u.ptm.missed → exec (.ptmDialogue t t1 none) s = .next
      ((({ u with ptm := { u.ptm with prevT1 := some t1, missed := 0, valid := false } } : State).misc .ptm).raise_
        { code := 0x0051, tb := u.tb })))

/-- R293, R308, R309, R311: a descriptor whose turn it is leaves its ring; where its header can be read, its opcode may be
served and its tag is free, it waits in the inlet with its tag in flight, else it is answered at once. R299: a host
read that fails sets DMA_ERR. A descriptor is fetched once more, and the inlet stops where that fails too; a payload
answers its command as one that cannot be read, its fetch taking a time that is a free value (log entry 16); a BULK
transfer from the host ends with HW_FAULT, HOST_DMA.
Where the spec leaves room, the reading is the model's (log entries 16 and 33). -/
def Obligations.DescriptorsAreFetchedOrFail : Prop :=
  (∀ (s u w : State) (t : Tb) (i : BitVec 4) (bytes : List Byte) (payload : Option (List Byte)) (ns : Nat) (db : Tb),
    u = s.at t → u.turn i.toNat = true → db = (u.inlet i.toNat).announced.headD u.tb →
    w = (u.consume i.toNat).updPci (fun p => { p with fetchMax := max p.fetchMax (min ns (2 ^ 32 - 1)) }) →
    (∀ d : Desc, (w.boot.ready = true ∨ rd (rdOf bytes) 0 2 = 1 ∨ rd (rdOf bytes) 0 2 = 2) →
      readDescr i (rdOf bytes) (payload.map rdOf) = .inr d → w.tagBusy d.h.tag = false →
      exec (.descriptorFetch t i bytes payload ns) s = .next ((w.useTag d.h.tag d.cls).updInlet i.toNat fun x =>
        { x with slot := some { cmd := d.bare, dbTb := db, fence := d.h.fence } })) ∧
    (∀ e : Nat, (w.boot.ready = true ∨ rd (rdOf bytes) 0 2 = 1 ∨ rd (rdOf bytes) 0 2 = 2) →
      readDescr i (rdOf bytes) (payload.map rdOf) = .inl e →
      exec (.descriptorFetch t i bytes payload ns) s = .next (w.answerFetched i.toNat (rdOf bytes) db .badArg e)) ∧
    (w.boot.ready = false → rd (rdOf bytes) 0 2 ≠ 1 → rd (rdOf bytes) 0 2 ≠ 2 →
      exec (.descriptorFetch t i bytes payload ns) s =
        .next (w.answerFetched i.toNat (rdOf bytes) db .notAvailable 0x01))) ∧
  (∀ (s u : State) (t : Tb) (bytes : List Byte), u = s.at t →
    (∀ i : BitVec 4, u.turn i.toNat = true → exec (.hostDmaFail t (.descriptor i) bytes) s = .next (
      if (u.inlet i.toNat).retried then (u.misc .dmaErr).stopInlet i.toNat
      else (u.misc .dmaErr).updInlet i.toNat fun x => { x with retried := true })) ∧
    (∀ (i : BitVec 4) (db : Tb), u.turn i.toNat = true → (hdrOf i (rdOf bytes)).indirect = true →
      db = (u.inlet i.toNat).announced.headD u.tb → exec (.hostDmaFail t (.payload i) bytes) s = .next
        ((((({ u with free := u.free + 1 } : State).misc .dmaErr).consume i.toNat).fetched
          ((Config.freeValue u.free).toNat % (u.tb - db + 1))).place i bytes none db)) ∧
    (∀ (tag : BitVec 12) (w : Work) (b : Bulk), u.work? tag = some w → w.done = none → u.movingBulk tag = some b →
      b.dir = true → exec (.hostDmaFail t (.bulk tag) bytes) s = .next ((u.misc .dmaErr).bulkBreak w 0x06 0)))

/-- R295, R317, R318, R347: a message that COAL held back goes when COAL has passed; the oldest event goes into a free entry of the
enabled event ring, with its writeback, its message and the replies that it held; 100 ms without a sign of life raise
HOST_LOST, and HOST_LOSS says whether unheld channels are disconnected and runs aborted.
Where the spec leaves room, the reading is the model's (log entries 23 and 61). -/
def Obligations.EventsReachTheHost : Prop :=
  ∀ (s u : State) (t : Tb), u = s.at t →
    (∀ o : BitVec 4, (u.outlet o.toNat).msiOwed = true →
      (∀ l, (u.outlet o.toNat).lastMsi = some l → (u.outlet o.toNat).coal = 0 ∨ l + (u.outlet o.toNat).coal ≤ u.tb) →
      exec (.msixCoalesce t (.outlet o)) s = .next
        ((u.updOutlet o.toNat fun x => { x with lastMsi := some u.tb, msiOwed := false }).sendMsi
          (u.outlet o.toNat).vector)) ∧
    (u.evRing.msiOwed = true →
      (∀ l, u.evRing.lastMsi = some l → u.evRing.coal = 0 ∨ l + u.evRing.coal ≤ u.tb) →
      exec (.msixCoalesce t .event) s = .next
        (({ u with evRing := { u.evRing with lastMsi := some u.tb, msiOwed := false } } : State).sendMsi u.evRing.vector)) ∧
    (∀ (e : Event) (rest : List Event) (w : State), u.ev.queue = e :: rest → u.evRing.enable = true →
      u.pci.d3hot = false → u.evRing.inUse < 2 ^ u.evRing.sizeLog2 →
      w = u.hostWrite (u.evRing.base.toNat + u.evRing.index.toNat % 2 ^ u.evRing.sizeLog2 * 32)
        { e with ovfBefore := u.ev.ovfBefore }.bytes →
      exec (.eventPost t) s = .next
        ((({ w with
          ev := { u.ev with queue := rest, ovfBefore := false, posted := (u.ev.posted + 1) % 2 ^ 64 }
          evRing := { u.evRing with index := u.evRing.index + 1 } } : State).misc .event).signalEvent.flushAll)) ∧
    (∀ (p : Nat × State), u.ev.watch = true → u.ev.hostLost = false → u.ev.lastSign + 100000000 ≤ u.tb →
      p = (u.updEv fun v => { v with hostLost := true }).raise { code := 0x0053, tb := u.tb, detail := u.ev.hostLoss } →
      exec (.hostWatchTimeout t) s = .next (
        if p.2.ev.hostLoss = 0 then p.2
        else if p.2.disconnectUnheld.ev.hostLoss = 2 then p.2.disconnectUnheld.hostAbortAll p.1
        else p.2.disconnectUnheld))

/-! ### Resets and boot -/

/-- R66, R412, R434, R435: a power-on reset and PERST_N leave the reset state but for the fuses, the flash, the queue of commands and
what has left the part; PERST_N names itself in RESET_CAUSE and as the still cause of every channel. Flash content changes only
where an operation was in progress.
Where the spec leaves room, the reading is the model's (log entries 5 and 8). -/
def Obligations.ResetsStartAnew : Prop :=
  ∀ (s u : State) (t : Tb), u = s.at t →
    (∃ v, exec (.powerOnReset t) s = .next v ∧
      v = { State.resetOf s.model with
        otp := s.otp
        serial := { (State.resetOf s.model).serial with flash := v.serial.flash }
        boot := { (State.resetOf s.model).boot with resetCause := 0, epoch := 0, perstLow := s.boot.perstLow }
        out := s.out, free := v.free, pending := s.pending } ∧
      (s.serial.ops = [] → v.serial.flash = s.serial.flash ∧ v.free = s.free)) ∧
    (u.boot.perstLow = true → exec (.perstNAssert t) s = .next u) ∧
    (u.boot.perstLow = false → ∃ v, exec (.perstNAssert t) s = .next v ∧
      v = { State.resetOf s.model with
        otp := s.otp
        serial := { (State.resetOf s.model).serial with flash := v.serial.flash }
        boot := { (State.resetOf s.model).boot with resetCause := 1, epoch := 0, perstLow := true }
        chans := v.chans, out := s.out, free := v.free, pending := s.pending } ∧
      v.chans = (State.resetOf s.model).chans.map (fun c => { c with st := { c.st with lastCause := 10 } }) ∧
      (s.serial.ops = [] → v.serial.flash = s.serial.flash ∧ v.free = s.free))

/-- R436 to R439: PERST_N_RELEASE takes a boot that has not ended through the stages that its environment shows; a stage that fails, or
misses its deadline, ends it at the stage's code with its detail, and the part FAILED.
Where the spec leaves room, the reading is the model's (log entry 17). -/
def Obligations.BootGoesThroughStages : Prop :=
  ∀ (s u : State) (t : Tb), u = s.at t →
    (∀ env : BootEnv, u.boot.ready = false → exec (.perstNRelease t env) s =
      .next ((State.bootStages env 8 (u.updBoot fun b => { b with perstLow := false })).at t)) ∧
    (∀ (env : BootEnv) (w : State), u.boot.ready = false → u.boot.stage = 0x10 → 2 ≤ env.upTo →
      w = u.updBoot (fun b => { b with perstLow := false }) →
      (env.romOk = false → exec (.perstNRelease t env) s = .next ((w.updBoot fun b =>
        { b with stage := 0xE0, failDetail := 0, part := .failed }).at t)) ∧
      (env.romOk = true → env.refOk = false → exec (.perstNRelease t env) s = .next ((w.updBoot fun b =>
        { b with stage := 0xE1, failDetail := 0, part := .failed }).at t))) ∧
    (∀ (st code : BitVec 8), u.boot.stage = st →
      ((st = 0x10 ∧ code = if (u.die 0).tbLock then 0xE0 else 0xE1) ∨ (st = 0x40 ∧ code = 0xE4) ∨
        (st = 0x70 ∧ code = 0xE7)) →
      exec (.bootStageTimeout t) s =
        .next (u.updBoot fun b => { b with stage := code, failDetail := 0, part := .failed })) ∧
    (∀ (st code : BitVec 8), u.boot.stage = st →
      ((st = 0x20 ∧ code = 0xE2) ∨ (st = 0x30 ∧ code = 0xE3) ∨ (st = 0x50 ∧ code = 0xE5) ∨ (st = 0x60 ∧ code = 0xE6)) →
      ∃ detail : BitVec 8, exec (.bootStageTimeout t) s = .next (({ u with free := u.free + 1 } : State).updBoot fun b =>
        { b with stage := code, failDetail := detail, part := .failed }))

/-! ### Faults and their handling -/

/-- R61, R62, R77: PROT_TRIP on a connected channel, SENSE_DIVERGE on one connected in FV or FI whose range does not change, and an
over-temperature stage on one whose switch is closed set the channel's flag, put it and its gang into hardware still with their cause, and
raise a CHANNEL fault; a stage on an open channel only raises its event; OT_FLAG_CLEAR clears the live bit alone.
Where the spec leaves room, the reading is the model's (log entries 49 and 72). -/
def Obligations.ChannelMonitorsTrip : Prop :=
  ∀ (s u : State) (t : Tb) (n : Nat), u = s.at t →
    (u.hasChan n = true → u.connected n = true → ∀ above : Bool, exec (.protTrip t n above) s = .next
      (((u.updChan n fun c => { c with fl := { c.fl with protTrip := true } }).hwStill n 4).faultChannel n 0x0012
        (if above then 1 else 0))) ∧
    (u.hasChan n = true → u.connected n = true → ((u.chan n).st.mode = .fv ∨ (u.chan n).st.mode = .fi) →
      (u.chan n).st.rangeSettle = false → exec (.senseDiverge t n) s = .next
        (((u.updChan n fun c => { c with fl := { c.fl with senseDiverge := true } }).hwStill n 5).faultChannel n 0x0011 0)) ∧
    (∀ (pmu : Bool) (w : State), u.hasChan n = true →
      (if pmu then (u.chan n).st.otPmuLive else (u.chan n).st.otDrvLive) = false →
      w = ({ u with free := u.free + 1 } : State).updChan n (fun c =>
        if pmu then { c with st := { c.st with otPmuLive := true }, fl := { c.fl with otPmu := true } }
        else { c with st := { c.st with otDrvLive := true }, fl := { c.fl with otDrv := true } }) →
      (u.connected n = true →
        exec (.overtempStage t n pmu) s = .next ((w.hwStill n 3).faultChannel n 0x0013 (if pmu then 1 else 0))) ∧
      (u.connected n = false → u.closing n ((Config.freeValue u.free).getLsbD 0) = false →
        exec (.overtempStage t n pmu) s = .next (w.raise_
          { code := 0x0013, tb := u.tb, locKind := 3, location := n, detail := if pmu then 1 else 0 }))) ∧
    (∀ pmu : Bool, exec (.otFlagClear t n pmu) s = .next (u.updChan n fun c =>
      { c with st := if pmu then { c.st with otPmuLive := false } else { c.st with otDrvLive := false } }))

/-- R39, R349, R428: a watchdog that was not serviced, a time-base PLL that loses lock and an RPS fault are DIE faults of
a die that works; each leaves its own trace in the die's registers. R25, R342, R344, R366: a DIE handling that misses
its time takes its die OFFLINE with DIE_OFFLINE and its mark; a DIE handling that waits for its restart is given it
(the model's form, log entry 52), and on a die with nothing in hand the oldest queued fault begins, unless a handling
in hand overlaps it; a bridge link that fails raises BRIDGE_DEGRADE, and dies that can no longer be reached fail, one that
recovers going OFFLINE instead.
Where the spec leaves room, the reading is the model's (log entry 20). -/
def Obligations.DieFaultsAreHandled : Prop :=
  (∀ (s u : State) (t : Tb) (x : Nat) (rec : Option RecEnv) (boot : Option BootEnv), u = s.at t →
    (u.dieWorks x = true → exec (.fwWatchdog t x rec boot) s = .next
      ((u.updDie x fun y => { y with wdCnt := min (y.wdCnt + 1) 0xFFFF }).fault { sev := .die, locKind := 1, location := x }
        { code := 0x0060, tb := u.tb, locKind := 1, location := x } rec boot)) ∧
    (u.hasDie x = true → (u.die x).tbLock = true → exec (.tbpllLol t x rec boot) s = .next
      ((if x = 0 then u else u.updDie x fun y => { y with tbLock := false, aligned := false, tbLoose := u.tb }).fault
        { sev := .die, locKind := 1, location := x } { code := 0x0022, tb := u.tb, locKind := 1, location := x } rec
        boot)) ∧
    (∀ (ctx : BitVec 3) (kind : BitVec 4) (addr : BitVec 13), u.dieWorks x = true → (u.die x).rps.fault = false →
      exec (.rpsFault t x ctx kind addr rec boot) s = .next
        (((u.microSyncAll x).updRps x fun r =>
          { r with fault := true, faultAddr := addr, faultCtx := ctx, faultKind := kind }).fault
          { sev := .die, locKind := 1, location := x }
          { code := 0x0015, tb := u.tb, locKind := 1, location := x, detail := addr.toNat % 4096 } rec boot))) ∧
  (∀ (s u : State) (t : Tb) (x : Nat), u = s.at t →
    (∀ (h : Handling) (p : Nat × State), (u.die x).hand = some h → h.scope.sev = .die → (u.die x).st = .recovering →
      p = u.raise { code := 0x0043, tb := u.tb, locKind := 1, location := x, detail := 1 } →
      exec (.dieRecoveryTimeout t x) s = .next
        (((if h.lockKept then p.2.dieContentLost x 0x03 p.1 else p.2).dieOut x p.1).endHandling x h true)) ∧
    (∀ (h : Handling) (r : RecEnv), (u.die x).hand = some h → h.scope.sev = .die → (u.die x).st = .recovering →
      r.started = true → exec (.handlingDequeue t x (some r)) s = .next (u.dieRestart x h r)) ∧
    (∀ (h : Handling) (q : List Handling) (rec : Option RecEnv), (u.die x).hand = none → (u.die x).handQ = h :: q →
      (∀ o ∈ u.dieNums, ∀ y, (u.die o).hand = some y → u.overlap h.scope y.scope = false) →
      exec (.handlingDequeue t x rec) s = .next (
        if h.stale then u.updDie x fun y => { y with handQ := q }
        else (u.updDie x fun y => { y with handQ := q }).startHandling x h rec)) ∧
    (∀ (port : Nat) (w : State), port < 2 * u.model.dies → u.linkOk (u.linkOfPort port) = true →
      w = ((u.cutLink (u.linkOfPort port)).raise_
        { code := 0x0042, tb := u.tb, locKind := 6, location := port }).linkFell →
      exec (.bridgeDegrade t port) s = .next ((w.dieNums.filter w.unreachable).foldl (fun v x =>
        if v.dieWorks x then v.fault { sev := .die, locKind := 1, location := x }
          { code := 0x0043, tb := v.tb, locKind := 1, location := x } none none
        else match (v.die x).hand with
          | some h => if (v.die x).st = .recovering then v.recoveryLost x h 0 else v
          | none => v) w)))

/-! ### Clocks and the lock link -/

/-- R87 to R90, R93, R469: a tracked step and a relock that reach their target are answered OK and the next PLL_SET
begins, a relock that does not lock in 50 µs goes to holdover and answers HW_FAULT, NO_LOCK; HOLDOVER_EXIT locks at
the last setting; a lock loads the modulator and leaves a phase that is a free value (log entry 7); GUARD_HIT is kept,
and an event outside a relock and a holdover switch. R91, R93, R94: a pattern PLL that loses lock goes to holdover with its record, its strobes masked and its
groups' CLUSTER fault raised, its connected channels ask for still with cause 8, and a tracked step ends with
HW_FAULT; SYNC at its tick resets every named die that has kept its lock, whose first edge falls within a VCO period of
tick + 64, dies of equal settings alike (free values, log entry 7), and names the others.
Where the spec leaves room, the reading is the model's (log entry 63). -/
def Obligations.PllsLockAndLose : Prop :=
  (∀ (s u : State) (t : Tb) (x : Nat), u = s.at t →
    ((u.die x).pll.tracking = true → (u.die x).pll.startTb + (u.die x).pll.stepNs ≤ u.tb →
      exec (.trackedStepDone t x) s = .next ((u.updPll x fun p =>
        { p.upTo u.tb with set := p.goal, target := none, tracking := false }).pllAnswer x .ok 0)) ∧
    (∀ w : State, w = (u.updPll x (fun p => { p with
          set := p.goal, target := none, tracking := false, relocking := false, locked := true, holdover := false
          switchTb := if p.holdover then some u.tb else p.switchTb
          modulator := { lfsr := p.goal.seed, acc1 := 0, acc2 := 0, acc3 := 0, asOf := u.tb }, edge := none })).trigHeard x →
      ((u.die x).pll.relocking = true → u.tb ≤ (u.die x).pll.startTb + 50000 →
        exec (.relockDone t x true) s = .next (w.pllAnswer x .ok 0)) ∧
      ((u.die x).pll.holdover = true → (u.die x).pll.relocking = false → exec (.holdoverExit t x) s = .next w)) ∧
    ((u.die x).pll.relocking = true → (u.die x).pll.startTb + 50000 ≤ u.tb → exec (.relockDone t x false) s = .next
      ((u.updPll x fun p => { p with relocking := false, holdover := true, switchTb := some u.tb }).pllAnswer
        x .hwFault 0x02)) ∧
    (u.hasDie x = true → exec (.guardHit t x) s = .next (
      if (u.die x).pll.relocking = true ∨ (u.die x).pll.switchTb = some u.tb then
        u.updPll x fun p => { p with guardHit := true }
      else (u.updPll x fun p => { p with guardHit := true }).raise_
        { code := 0x0020, tb := u.tb, locKind := 1, location := x }))) ∧
  (∀ (s u : State) (t : Tb), u = s.at t →
    (∀ (x : Nat) (w : State), u.hasDie x = true → (u.die x).pll.locked = true →
      w = (((((u.updPll x fun p => { p with
          holdover := true, switchTb := some u.tb, locked := false, synced := false, tracking := false, lol := true
          lolTb := u.tb, lolCnt := inc32 p.lolCnt }).syncLost x).updClusters (fun k _ => dieOfCluster k == x) fun _ c =>
            { c with seq := { c.seq with allMasked := true } }).fault { sev := .cluster, locKind := 1, location := x }
          { code := 0x0021, tb := u.tb, locKind := 1, location := x, detail := u.tb } none none).lolStill x) →
      exec (.pllLol t x) s = .next (if (u.die x).pll.tracking then w.pllAnswer x .hwFault 0x03 else w)) ∧
    (∀ (tag : BitVec 12) (wk : Work) (mask lost : BitVec 8) (tick : Tb) (bad good : List Nat) (w : State),
      u.work? tag = some wk → wk.kind = .pllSync mask lost tick → wk.done = none → tick ≤ u.tb →
      bad = (bitsOf mask).filter (fun x => hasBit lost x || !(u.die x).pll.locked) →
      good = (bitsOf mask).filter (fun x => !(hasBit lost x || !(u.die x).pll.locked)) →
      w = good.foldl (fun v x => v.updPll x fun p => { p with
          modulator := { lfsr := p.set.seed, acc1 := 0, acc2 := 0, acc3 := 0, asOf := tick }, syncTb := tick, synced := true
          edge := some ((tick : Rat) + 64 + fraction (Config.freeValue (u.free +
            (good.find? fun y => (u.die y).pll.set == (u.die x).pll.set).getD x)) *
              (if p.set.mult = 0 then 0 else 10 / p.set.mult)) })
        { u with free := u.free + 8 } →
      exec (.rippleSync t tag) s = .next
        (({ w with ripple := { w.ripple with sync := w.ripple.sync.assert (tick - 6) 1 } } : State).finish tag
          (if bad = [] then .ok else .hwFault) (if bad = [] then 0 else 0x03) (resultOf [(0x10, (maskOf 8 bad).toNat)]) 0)))

/-- R102: a frame is taken where its CRC holds: its port is up, its MGMT nibble joins the port's superframe, and R105: its
event words reach the lock link in their order; one whose CRC fails is counted and is an LL_FAULT (R106). R102, R103: a
superframe whose 32 nibbles have come and whose CRC holds is kept; one by UP gives a FOLLOWER its transit, offset, phase
and alignment, the phase trimmed by at most 1 ps for each µs since the last trim (R104), and goes on by DN. R106: a port
that hears no valid frame goes down with LL_FAULT. R105: events whose act time has come act on the spanning groups of
their slot. Frames that carry events and have begun have left by then (R102).
Where the spec leaves room, the reading is the model's (log entries 64 and 77). -/
def Obligations.LockLinkMoves : Prop :=
  (∀ (s u : State) (t : Tb) (dn : Bool) (f : BitVec 80), u = (s.at t).linkSent → u.link.role ≠ 0 → f.toNat % 4 = 2 →
    (linkCrc f.toNat 9 ≠ f.toNat / 2 ^ 72 →
      exec (.llFrame t dn f) s = .next ((u.updLink fun l =>
        if dn then { l with crcCnt := inc32 l.crcCnt, mgmtDn := [] }
        else { l with crcCnt := inc32 l.crcCnt, mgmtUp := [] }).linkFault dn 0)) ∧
    (∀ put : List (BitVec 4) → List (BitVec 4),
      (∀ xs, put xs = xs.drop (xs.length - 31) ++ [BitVec.ofNat 4 (f.toNat / 2 ^ 66)]) →
      linkCrc f.toNat 9 = f.toNat / 2 ^ 72 →
      exec (.llFrame t dn f) s = .next
        (((List.range 4).filterMap fun i => evWord (f.toNat / 2 ^ (2 + 16 * i) % 2 ^ 16) u.tb).foldl
          (fun v e => v.linkEvent dn e)
          (u.updLink fun l => if dn then { l with dn := true, mgmtDn := put l.mgmtDn }
            else { l with up := true, mgmtUp := put l.mgmtUp })))) ∧
  (∀ (s u : State) (t : Tb) (sf : BitVec 128) (err : BitVec 16), u = s.at t → u.link.role ≠ 0 →
    linkCrc sf.toNat 15 = sf.toNat / 2 ^ 120 →
    (u.link.mgmtDn = nibblesOf sf → exec (.llSuperframe t true sf err) s =
      .next (u.updLink fun l => { l with sfDn := some (sf.setWidth 64, u.tb - 256), mgmtDn := [] })) ∧
    (u.link.mgmtUp = nibblesOf sf → u.link.role ≠ 2 → exec (.llSuperframe t false sf err) s =
      .next (u.updLink fun l => { l with sfUp := some (sf.setWidth 64, u.tb - 256), mgmtUp := [] })) ∧
    (u.link.mgmtUp = nibblesOf sf → u.link.role = 2 → ∃ (v : State) (n : Int),
      exec (.llSuperframe t false sf err) s = .next v ∧
      v = { u with link := v.link
                   out := { u.out with relayed := u.out.relayed ++ [v.link.superframe true (roundUp u.tb 256)] } } ∧
      v.link.sfUp = some (sf.setWidth 64, u.tb - 256) ∧ v.link.mgmtUp = [] ∧
      v.link.transit = echoTransit (sf.toNat / 2 ^ 64 % 256) (sf.toNat / 2 ^ 72 % 2 ^ 16) (u.tb - 256) % 2 ^ 24 ∧
      v.link.offset = ((sf.toNat % 2 ^ 64 + (v.link.transit + 64) / 128 : Nat) : Int) - (u.tb - 256 : Nat) ∧
      (n.natAbs : Int) ≤ max 0 (((u.tb : Rat) - u.link.trimTb) * 2048 / 10 ^ 6).floor ∧
      v.link.phaseErr = BitVec.ofInt 16 (err.toInt - n) ∧ v.link.trim = u.link.trim + n ∧
      (v.link.aligned = true ↔ v.link.up = true ∧ v.link.offset = 0 ∧ v.link.phaseErr.toInt.natAbs ≤ 20 ∧
        v.link.returned = false))) ∧
  (∀ (s u : State) (t : Tb) (dn : Bool), u = s.at t → u.link.role ≠ 0 → (if dn then u.link.dn else u.link.up) = true →
    exec (.llLinkLost t dn) s = .next
      ((u.updLink fun l => if dn then { l with dn := false, aligned := false, mgmtDn := [] }
        else { l with up := false, aligned := false, returned := true, mgmtUp := [] }).linkFault dn 2)) ∧
  (∀ (s v : State) (t : Tb), v = (s.at t).linkSent.linkOverdue → exec (.llEventAct t) s = .next
    ((v.link.evs.filter fun e => decide (e.t8 + 8 * v.link.lat ≤ v.tb)).foldl
      (fun w e => (w.slotGroups e.slot).foldl (fun w g => w.actEvent g e (e.t8 + 8 * v.link.lat)) w)
      (v.updLink fun l => { l with evs := v.link.evs.filter fun e => !decide (e.t8 + 8 * v.link.lat ≤ v.tb) })))

/-! ### Triggers -/

/-- R28, R126, R160, R163: a TRIG_IN ball that changes sets its level, asserts its line on a rise, and reaches every
cluster's branch and trigger sources; ARM is asserted 6 ns before its tick, at which the named engines at rest arm and
are answered; a spanning group sends the event instead. R26, R27, R162 to R167: FIRE is acted on 6 ns after its tick
by every member, or by a cluster in no group alone; at the hold-off's end an engine goes to REARM while it may fire
again, else to DONE, and REARM ends 1,000 ns later; at its tick a disarm puts the named engines to IDLE, closes their
windows and answers.
Where the spec leaves room, the reading is the model's (log entry 37). -/
def Obligations.TriggersArmAndFire : Prop :=
  (∀ (s u : State) (t : Tb), u = s.at t →
    (∀ (line : BitVec 2) (level : Bool) (w : State), hasBit u.ripple.trigLv line.toNat ≠ level →
      w = { u with ripple := { u.ripple with
        trigLv := if level then setBit u.ripple.trigLv line.toNat else clearBit u.ripple.trigLv line.toNat
        trigIn := if level then u.ripple.trigIn.modify line.toNat (fun l => l.assert (u.tb + 3) 1) else u.ripple.trigIn } } →
      exec (.trigInEdge t line level) s = .next (w.clusterNums.foldl (fun v k =>
        if ((v.srcEvent k (4 + line.toNat) 0 ((v.tb : Nat) : Rat) level).trig k).source.toNat = 5 + line.toNat then
          (v.srcEvent k (4 + line.toNat) 0 ((v.tb : Nat) : Rat) level).trigSee k
            ((v.srcEvent k (4 + line.toNat) 0 ((v.tb : Nat) : Rat) level).tb + 9)
            (v.srcEvent k (4 + line.toNat) 0 ((v.tb : Nat) : Rat) level).tb (some level)
        else v.srcEvent k (4 + line.toNat) 0 ((v.tb : Nat) : Rat) level) w)) ∧
    (∀ (kind : BitVec 1) (id : Nat) (ks : List Nat) (a : Tb), ks = (if kind = 0 then u.membersOf id else [id]) →
      (∃ k ∈ ks, (u.trig k).armAt ≠ none) → a = maxOf (ks.filterMap fun k => (u.trig k).armAt) →
      (kind = 0 → (u.group id).span = true → a ≤ u.tb + 6 →
        exec (.rippleArm t kind id) s = .next (u.lineUp id lnArm (a - 6) 1)) ∧
      (kind = 0 → (u.group id).span = false → a ≤ u.tb →
        exec (.rippleArm t kind id) s = .next (((u.lineUp id lnArm (a - 6) 1).armAll ks a).trigReplies 0 id false)) ∧
      (kind = 1 → a ≤ u.tb → exec (.rippleArm t kind id) s = .next ((u.armAll ks a).trigReplies 1 id false)))) ∧
  (∀ (s u : State) (t : Tb), u = s.at t →
    (∀ (id : Nat) (l : Line) (rest : List Line) (v : State), v = (u.membersOf id).foldl (fun v k => v.trigFlush k v.tb) u →
      v.ripple.fire.getD id [] = l :: rest → l.at_ + 6 ≤ v.tb →
      exec (.rippleFire t 0 id) s = .next
        ((({ v with ripple := { v.ripple with fire := v.ripple.fire.set id rest } } : State).fireSource (v.membersOf id)
          l.at_ l.len).fireAll (v.membersOf id) (some id) l.at_ l.len (l.at_ + 6) false)) ∧
    (∀ (k : Nat) (l : Line) (rest : List Line) (v : State), v = u.trigFlush k u.tb →
      (v.trig k).mine.foldl (fun ls p => addLine ls p.1 1) [] = l :: rest → v.groupOf k = none → l.at_ + 6 ≤ v.tb →
      exec (.rippleFire t 1 k) s = .next (v.fireAll [k] none l.at_ l.len (l.at_ + 6) false)) ∧
    (∀ (k : Nat) (e : Tb), (u.trig k).holdEnd = some e → (u.trig k).state = .holdoff → e ≤ u.tb →
      exec (.holdoffEnd t k) s = .next (u.updTrig k fun g =>
        if g.rearm = true ∧ (g.max = 0 ∨ g.count < g.max.toNat) then
          { g with state := .rearm, rearmEnd := e + 1000, holdEnd := none, holdStop := some e }
        else { g.stopIgnoring e with state := .done, holdEnd := none })) ∧
    (∀ k : Nat, (u.trig k).state = .rearm → (u.trig k).rearmEnd ≤ u.tb →
      exec (.rearmEnd t k) s =
        .next ((u.updTrig k fun g => g.stopIgnoring g.rearmEnd).armEngine k (u.trig k).rearmEnd)) ∧
    (∀ (kind : BitVec 1) (id : Nat) (ks : List Nat),
      ks = (if kind = 0 then u.membersOf id else [id]).filter (fun k =>
        (u.trig k).disarmAt.any fun x => decide (x ≤ u.tb)) → ks ≠ [] →
      exec (.disarmTick t kind id) s = .next ((ks.foldl (fun v k =>
        ((v.trigFlush k (((v.trig k).disarmAt).getD u.tb - 1)).updTrig k fun g =>
          { g.stopIgnoring (((v.trig k).disarmAt).getD u.tb) with
            state := .idle, disarmAt := none, holdEnd := none }).stopWindows k) u).trigReplies kind.toNat id true)))

/-! ### Measurement, capture and fails -/

/-- R51, R144 to R148, R376: at its tick a pending reference code reaches its DAC, corrected by the coefficients of that
instant, and its command is answered; an averaged sample of a present channel, the first since its settings or its last,
is corrected, averaged and packed into the channel's record, its SETTLE and OPEN being those of its conversions' instants,
its QUANTITY and RANGE those of the last one; CLAMP_HIT and OVR stick, CLAMP_LIVE shows a stage that regulates at its clamp, and
the sample goes to capture, reduction, triggers and waiting commands.
Where the spec leaves room, the reading is the model's (log entry 6). -/
def Obligations.SamplesAreTaken : Prop :=
  ∀ (s u : State) (t : Tb), u = s.at t →
    (∀ x : Nat, exec (.refdacUpdate t x) s = .next
      (((u.die x).refdac.filter fun r => r.pending && r.tick == u.tb).foldl (fun v r => v.finish r.cmd .ok 0 0 0)
        (u.updDie x fun y => { y with refdac := y.refdac.mapIdx fun j r =>
          if r.pending = true ∧ r.tick = u.tb then
            { r with code := r.shadow, pending := false, out := u.refDacCode x j r.shadow.toNat }
          else r }))) ∧
    (∀ (n avg : Nat) (codes : List (BitVec 18)) (clamp hit live last : Bool) (stamp : Tb) (ps : List PinPast)
        (cs : List (Nat × Bool)) (p : PinPast) (x : RedSample) (w : Word) (value : Nat),
      u.hasChan n = true → avg = (u.chan n).meas.avgM1.toNat + 1 → codes.length = avg →
      (avg - 1) * 1000 + 30 ≤ u.tb → stamp = (u.tb - 30 - (avg - 1) * 1000) / (avg * 1000) * (avg * 1000) →
      (u.chan n).meas.avgFrom ≤ stamp → ((u.chan n).meas.last = 0 ∨ (u.chan n).meas.lastTb < stamp) →
      ps = (List.range avg).map (fun j => (u.chan n).pastAt (stamp + 1000 * j + 30)) →
      p = (u.chan n).pastAt (stamp + 1000 * (avg - 1) + 30) →
      cs = (ps.zip codes).map (fun y =>
        (u.sarCode n (sarCurrent y.1.mode (u.chan n).meas.sel) y.1.range.toNat y.2.toNat,
          overrange (sarCurrent y.1.mode (u.chan n).meas.sel) y.2.toNat
            (u.sarCode n (sarCurrent y.1.mode (u.chan n).meas.sel) y.1.range.toNat y.2.toNat))) →
      value = ((cs.map (·.1)).sum * 64 + avg / 2) / avg →
      x = { lane := n % 8, charge := false, stamp, value, ovr := cs.any (·.2), settle := ps.any (·.settle)
            clamp := clamp && ps.any fun y => y.mode == .fv || y.mode == .fi, open_ := ps.any fun y => !y.closed } →
      w = sampleWord value x.ovr x.settle x.clamp x.open_ (sarCurrent p.mode (u.chan n).meas.sel) p.range.toNat →
      exec (.sarSample t n codes clamp hit live last) s = .next ((u.updChan n fun c => { c with
          meas := { c.meas with lastTb := stamp, last := w, ovr := c.meas.ovr || x.ovr }
          st := { c.st with clampLive := live && ((c.present u.tb).mode == .fv || (c.present u.tb).mode == .fi) }
          fl := { c.fl with clampHit := c.fl.clampHit || ((clamp || hit) && ps.any fun y => y.mode == .fv || y.mode == .fi) ||
            (live && ((c.present u.tb).mode == .fv || (c.present u.tb).mode == .fi)) } }).deliverSar n stamp (stamp + (avg - 1) * 1000) value w
        x last))

/-- R149 to R152, R374: the charge increment of a closed interval of a channel that was connected in it is corrected, carries its remainder on, and is
added with saturation after a clear that is due; its flags are what the channel was in the interval, its RANGE that of the
interval's end; it goes to capture and reduction. A channel that was open in all of it, and a gang member, give none. R157,
R167: a switch that has opened closes the stream's record. A clear at its tick zeroes the named lanes' registers, or
those of a run, and a command's clear is answered. That an increment that ends at or before a clear is not counted again is the
model's reading.
Where the spec leaves room, the reading is the model's (log entry 10). -/
def Obligations.ChargeIsCounted : Prop :=
  ∀ (s u : State) (t : Tb), u = s.at t →
    (∀ (n m : Nat) (dq : Int) (ovr clamp hit live last : Bool), u.hasChan n = true → (u.chan n).st.gangMember = true →
      exec (.chargeIncrement t n m dq ovr clamp hit live last) s = .next u) ∧
    (∀ (n m k l : Nat) (dq : Int) (ovr clamp hit live last : Bool) (v : State) (stamp : Tb) (ps : List PinPast),
      u.hasChan n = true → k = n / 8 → l = n % 8 → (u.chan n).st.gangMember = false → stamp = m * 100000 →
      stamp + 100030 ≤ u.tb → (u.chan n).meas.chgTb < stamp + 100000 → v = u.capOpened n 0 (stamp + 30) →
      ps = (v.chan n).spans v.tb (stamp + 30) (stamp + 100030) →
      ((∀ p ∈ ps, p.closed = false) → exec (.chargeIncrement t n m dq ovr clamp hit live last) s = .next (v.endBatch k last)) ∧
      (∀ (q frac : Int) (x : RedSample) (w : BitVec 64) (y z : State), (∃ p ∈ ps, p.closed = true) →
        (q, frac) = chargeCorrect (v.pairOf n (0x0E0 + 8 * ((u.chan n).pastAt (stamp + 100029)).range.toNat))
          (u.chan n).meas.frac dq →
        x = { lane := l, charge := true, stamp, value := q, ovr, settle := ps.any (·.settle)
              clamp := (clamp || hit) && ps.any fun p => p.mode == .fv || p.mode == .fi
              open_ := ps.any fun p => !p.closed } →
        w = chargeWord q x.open_ x.settle ovr x.clamp (ps.any fun p => !(p.mode == .fv || p.mode == .fi))
          ((v.chan n).pastAt (stamp + 100029)).range.toNat →
        y = v.updChan n (fun c => { c with
          meas := { (if c.meas.clearAt.any fun b => decide (b ≤ stamp) then c.meas.clearCharge (c.meas.clearAt.getD 0)
            else c.meas).countCharge q (stamp + 100000) with frac }
          st := { c.st with clampLive := live && ((c.present v.tb).mode == .fv || (c.present v.tb).mode == .fi) }
          fl := { c.fl with clampHit := c.fl.clampHit || x.clamp ||
            (live && ((c.present v.tb).mode == .fv || (c.present v.tb).mode == .fi)) } }) →
        z = (y.capSample k (8 + l) stamp w).capOpened n (stamp + 30) (stamp + 100030) →
        (∀ r, z.runOfCluster k = some r → exec (.chargeIncrement t n m dq ovr clamp hit live last) s =
          .next ((z.feedRed k r.group x).endBatch k last)) ∧
        (z.runOfCluster k = none → exec (.chargeIncrement t n m dq ovr clamp hit live last) s =
          .next (z.endBatch k last)))) ∧
    (∀ (tag : BitVec 12) (w : Work), u.work? tag = some w → w.done = none →
      (∀ (k : Nat) (lanes : BitVec 8) (b : Tb), w.kind = .chargeClear k lanes b → b ≤ u.tb →
        exec (.chargeClearTick t tag) s = .next ((u.updChans (fun n _ => ((bitsOf lanes).map (chanOf k)).contains n)
          fun _ c => { c with meas := { c.meas with chg := 0, clearAt := none, cleared := b } }).finish tag .ok 0 0 0)) ∧
      (∀ r : Run, w.kind = .run → u.run? tag = some r → exec (.chargeClearTick t tag) s = .next
        (u.updChans (fun n c => r.mapped.contains n && c.meas.clearAt.any fun b => decide (b ≤ u.tb)) fun _ c =>
          { c with meas := { c.meas with chg := 0, clearAt := none, cleared := c.meas.clearAt.getD 0 } })))

/-- R155, R157 to R159, R328: at its tick a stream starts, or closes its record and stops, and the commands whose streams
have all done so are answered; a CONTINUOUS record closes 100 ms after its first stamp; GAP and drain act where the
stream's share and ring let them. R174, R175, R178, R183, R184: the window of a recipe that has started opens at its
time, and the close pass that is due runs; the flags that they write reach branch and trigger sources.
Where the spec leaves room, the reading is the model's (log entries 35 and 36). -/
def Obligations.CaptureAndRecipesStep : Prop :=
  (∀ (s u : State) (t : Tb) (k i : Nat), u = s.at t →
    (∀ tick, (u.cap k i).startAt = some tick → tick ≤ u.tb → exec (.captureStartTick t k i) s = .next
      ((u.updCap k i fun c => { c with active := true, startAt := none }).capReplies k)) ∧
    (∀ tick, (u.cap k i).stopAt = some tick → tick ≤ u.tb → exec (.captureStopTick t k i) s = .next
      (((u.capStopNow k i).updCap k i fun c => { c with stopAt := none }).capReplies k)) ∧
    (∀ r, (u.cap k i).mode = 1 → (u.cap k i).openRec = some r → r.first + 100000000 ≤ u.tb →
      exec (.recordCloseTimeout t k i) s = .next (u.updCap k i fun c => c.close k i 0)) ∧
    exec (.gapRecord t k i) s = .next (u.gapNow k i) ∧
    exec (.captureDrain t k i) s = .next (u.drainNow k i)) ∧
  (∀ (s u : State) (t : Tb) (k i : Nat), u = s.at t →
    ((∃ w ∈ (u.red k).windows, w.recipe = i ∧ w.isOpen = false ∧ w.insts = [] ∧ w.start ≤ u.tb) →
      exec (.windowOpen t k i) s = .next ((u.openWindow k i).flagEvents k (u.red k).flags)) ∧
    (∀ r, u.runOfCluster k = some r → u.passDue k i = true →
      exec (.closePass t k i) s = .next (((u.closePass k r.group i).flagEvents k (u.red k).flags).lastPass k)))

/-- R168 to R170: a vector whose judged strobe fails on digital lanes counts on each lane, becomes the cluster's first fail where none is held,
enters the fail log or counts as lost where the FIFO is full or the die takes no log, marks the segment, and is a source event of each lane,
which the trigger engine sees after a clock crossing of free length (log entry 7).
Where the spec leaves room, the reading is the model's (log entries 53 and 71). -/
def Obligations.FailsAreRecorded : Prop :=
  ∀ (s u : State) (t : Tb) (k copy : Nat) (above below : BitVec 8) (full : Bool) (a : At) (l0 : Nat) (ls : List Nat)
      (time : Rat) (tb vec : Nat) (w v : State),
    u = s.at t → u.atSeg k .running = some a → u.failing a k above below = l0 :: ls → copy < a.q.copies →
    time = u.strobeTime a k l0 copy → tb = (time / 2048).floor.toNat → vec = a.q.vecs - a.q.copies + copy →
    w = (u.updChans (fun n _ => clusterOf n == k && (l0 :: ls).contains (laneOf n)) (fun _ c =>
      { c with meas := { c.meas with fails := inc32 c.meas.fails } })).updCluster k (fun c => { c with
        ff := if c.ff.valid then c.ff else
          { vec, tb, fine := time.floor.toNat % 2048, mask := maskOf 8 (l0 :: ls), valid := true, seg := a.q.seg, above
            below, expect := BitVec.ofNat 16
              (((List.range 8).map fun l => compareCode a.q.word l * 2 ^ (2 * l)).sum) }
        flog := if full || !u.logKept k then { c.flog with ovf := inc32 c.flog.ovf }
          else c.flog.add (failEntry tb vec (maskOf 8 (l0 :: ls)))
        seq := { c.seq with
          failSeg := c.seq.failSeg ||| maskOf 8 (l0 :: ls), failRun := c.seq.failRun ||| maskOf 8 (l0 :: ls)
          failTb := tb } }) →
    v = (if full = false ∧ u.logKept k = true then
        w.houseAsk (dieOfCluster k) (w.logAddr k ((w.cluster k).flog.wr - 1)) 16 else w) →
    exec (.failLogEntry t k copy above below full) s = .next ((l0 :: ls).foldl (fun y l =>
      (((y.crossing (tick (y.strobeTime a k l copy / 2048)) ((4 * (v.die (dieOfCluster k)).pll.pat).ceil.toNat + 3)).2.srcEvent
        k 9 l (y.strobeTime a k l copy / 2048) true).srcEvent k 10 l (y.strobeTime a k l copy / 2048) true).pulseTo k 10 l
          (y.crossing (tick (y.strobeTime a k l copy / 2048)) ((4 * (v.die (dieOfCluster k)).pll.pat).ceil.toNat + 3)).1
          (tick (y.strobeTime a k l copy / 2048))) v)

/-! ### Runs and their segments -/

/-- R198, R201, R252: at A an accepted run whose channels are connected and free of faults, on a group that runs nothing
and with its start conditions as at acceptance, has its clusters' memories and settings loaded; else it is revoked,
with FAULT or START; R136, R261: its prefill entries ask the die's DRAM. R113, R119, R132, R152, R168 to R170, R186, R188: at S a run whose clusters are all ARMED begins:
its result records are created, the counters, masks, logs and timers of its clusters are cleared, its channels go to
their off drive state with empty queues, its charge registers clear at the next interval where the image asks, and
every member starts segment 0 at its die's first edge.
Where the spec leaves room, the reading is the model's (log entries 70 and 75). -/
def Obligations.RunsArmAndBegin : Prop :=
  (∀ (s u : State) (t : Tb) (tag : BitVec 12) (x : Run), u = s.at t → u.run? tag = some x → x.state = .accepted →
    x.a ≤ u.tb →
    ((∃ n ∈ x.mapped, u.connected n = false ∨ (u.chan n).faulted = true) →
      exec (.runArm t tag) s = .next (u.runFinal tag .revoked 0x04 0)) ∧
    ((∀ n ∈ x.mapped, u.connected n = true ∧ (u.chan n).faulted = false) →
      (((u.running x.group).isSome = true ∨ (u.startErr (u.imgRd x.image) x.group).isSome = true) →
        exec (.runArm t tag) s = .next (u.runFinal tag .revoked 0x08 0)) ∧
      (u.running x.group = none → u.startErr (u.imgRd x.image) x.group = none →
        ∀ (load : Nat → Nat) (v : State),
          (∀ k, load k = ((((u.image? x.image).map (·.loads)).getD []).lookup k).getD 0) →
          v = (imgMap (u.imgRd x.image)).foldl State.armSettings
            (u.updClusters (fun k _ => (u.runClusters x).contains k) fun k c =>
              armCluster x (u.imgRd x.image) k (u.fixedSize x k) (load k) c) →
          exec (.runArm t tag) s = .next (((v.runClusters x).foldl (fun v k => (prefills (u.imgRd x.image) k).foldl
            (fun v i => v.springAsk x k i (springOf (u.imgRd x.image) k i) x.s) v) v).updRun tag fun x =>
              { x with state := .arming })))) ∧
  (∀ (s u₀ u w : State) (t : Tb) (tag : BitVec 12) (phase : BitVec 32) (x : Run) (r : Rd) (ks ds own gang : List Nat)
      (edge : Nat → Rat),
    u₀ = s.at t → u = (if (u₀.die (ds.headD 0)).pll.holdover then u₀
      else u₀.updPll (ds.headD 0) fun p => p.show_ x.s phase) → u₀.run? tag = some x → x.state = .arming →
    x.s ≤ u₀.tb → ks = u₀.runClusters x →
    (∀ k ∈ ks, (u₀.seq k).state = .armed) → r = u₀.imgRd x.image → ds = (ks.map dieOfCluster).eraseDups →
    (∀ y, edge y = u.firstEdge x ds y) → own = imgChannels r →
    gang = (imgMap r).flatMap (fun m => ((bitsOf m.lanes).filter m.isMember).map (chanOf m.k)) →
    w = (((({ u with results := (u.results.filter fun y => y.group != x.group) ++
        [{ group := x.group, s := x.s, image := x.image, hists := []
           recs := (own.filter fun n => !gang.contains n).map fun n => ResRec.init n x.s }] } : State).updRun tag fun x =>
        { x with state := .running, firstVec := maxOf (ds.map fun y => (edge y).ceil.toNat) }).updClusters
        (fun k _ => ks.contains k) fun _ c => beginCluster c).updChans (fun n _ => x.mapped.contains n) fun n c =>
        { c with
          drive := if c.cfg.termEn then .term else .off, override := none, wave := none, waveNext := none, queue := []
          faulted := false, meas := { c.meas with fails := 0 }
          lastEdge := edge (n / 64) * 2048 - 1000000, lastStrobe := edge (n / 64) * 2048 - 1000000
          prevStrobe := edge (n / 64) * 2048 - 1000000 }) →
    exec (.runBegin t tag phase) s = .next (ks.foldl (fun v k => v.startSegment x k 0 (edge (dieOfCluster k)) true)
      (if (imgHdr r).clearCharge then w.updChans (fun n _ => own.contains n) fun _ c =>
        { c with meas := { c.meas with clearAt := some (roundUp x.s 100000) } } else w)))

/-- R121 to R124, R138, R139, R142, R175: at its end a segment that needs no decision, or has its own, is followed by the segment
that R123 names, the windows that end with it closed, or the cluster is done; a stop that waits takes effect when the master reaches
it; the abort of an underrun that has waited for the segment's end follows there.
Where the spec leaves room, the reading is the model's (log entry 53). -/
def Obligations.SegmentsFollow : Prop :=
  ∀ (s u : State) (t : Tb) (k : Nat) (a : At), u = s.at t → u.atSeg k .running = some a → tick a.endAt ≤ u.tb →
    (∀ tb, a.q.underTb = some tb → a.r.state ≠ .ending →
      exec (.segmentStart t k) s = .next (u.abortGroup a.r.group .hwFault 0x05 a.q.underSeq)) ∧
    (a.q.underTb = none → (a.e.brEn = true → a.q.decided ≠ none) →
      (∀ tb st detail, a.r.stopTb = some (tb, st, detail) → u.masterOf a.r.group = some k → (tb : Rat) ≤ a.endAt →
        exec (.segmentStart t k) s = .next (u.stopAll a.r a.endAt st detail)) ∧
      (∀ v : State, (∀ tb st detail, a.r.stopTb = some (tb, st, detail) →
          ¬ (u.masterOf a.r.group = some k ∧ (tb : Rat) ≤ a.endAt)) →
        v = u.updSeq k (fun q => { q with watch := (
          q.watch.filter (fun w => decide (a.endAt ≤ w.1 + u.latency k (u.brAt a.r k w.2.1))) ++
            if a.e.brEn && a.q.decided == some false && !a.q.lateDone then [(a.endAt, a.e.branch, a.q.seg)] else []) }) →
        (nextSegment (u.placed a.r k secSegments) (u.placed a.r k secBranches) a.e a.q.seg a.q.loops
            (a.q.decided.getD false) = none →
          exec (.segmentStart t k) s = .next (v.pathDone a.r k a.endAt)) ∧
        (∀ i loops, nextSegment (u.placed a.r k secSegments) (u.placed a.r k secBranches) a.e a.q.seg a.q.loops
            (a.q.decided.getD false) = some (i, loops) →
          exec (.segmentStart t k) s = .next (((v.closeWindows k (fun w =>
            (v.recipe k w.recipe).endMode == 0 || ((v.recipe k w.recipe).endMode == 1 && (v.recipe k w.recipe).endSeg == i))
            (tick a.endAt)).updSeq k fun q => { q with loops }).startSegment a.r k i a.endAt false))))

/-- R26, R93, R142, R188, R190, R191: a started run whose members are done and whose last passes can run is closed with its records and its final
reply; a run past its time is aborted with TIMEOUT; a cluster that has seen ABORT stops, in holdover without a second still; a segment past its
length and margin faults its cluster.
Where the spec leaves room, the reading is the model's (log entries 41 and 65). -/
def Obligations.RunsEnd : Prop :=
  ∀ (s u : State) (t : Tb), u = s.at t →
    (∀ (tag : BitVec 12) (r : Run), u.run? tag = some r → r.started = true →
      (∀ k ∈ u.runClusters r, (u.seq k).state = .done ∧ u.passesReady k = true) → r.endTb ≤ u.tb →
      exec (.runEnd t tag) s = .next ((((u.runClusters r).map fun k => (k, (u.red k).flags)).foldl
        (fun v p => v.flagEvents p.1 p.2) (u.runClose tag)).endClusterHandlings)) ∧
    (∀ (tag : BitVec 12) (r : Run), u.run? tag = some r → r.started = true → r.state ≠ .ending →
      (r.firstVec + r.d + r.heldBy u.tb ≤ u.tb ∨ r.firstVec + 259200000000000 ≤ u.tb) →
      (∃ k ∈ u.runClusters r, (u.seq k).state ≠ .done) →
      exec (.runLimit t tag) s = .next (u.abortGroup r.group .timeout 0x02 0)) ∧
    (∀ (k : Nat) (r : Run) (l : Line) (v : State), u.runOfCluster k = some r → l = u.ripple.abort.getD r.group Line.none →
      r.state = .ending → r.outcome ≠ none → 0 < l.len → r.s ≤ l.at_ → l.at_ + 6 ≤ u.tb →
      v = u.updSeq k (fun q => { q with defer := false }) →
      exec (.rippleAbort t k) s = .next (
        if (u.die (dieOfCluster k)).pll.holdover then v.clusterStop r k else v.clusterAbort r k 1 (faultEnd r.result))) ∧
    (∀ (k : Nat) (a : At), u.atSeg k .running = some a → a.r.state ≠ .ending →
      a.endAt + ((imgHdr (u.imgRd a.r.image)).margin : Rat) < (u.tb : Rat) →
      exec (.segWatchdog t k) s = .next (u.fault { sev := .cluster, locKind := 2, location := k }
        { code := 0x0034, tb := u.tb, locKind := 2, location := k, run := some a.r.tag, detail := a.q.seg } none none))

/-- R127 to R129: the decision of a segment with a branch is taken from the events that it has seen: each whose worst-case time is over by the
decision clock, none from after it, and of those between the ones that clock crossing let through; with a deferred request, and from
every instant since the segment's start where the entry latches; BR_LAST shows it; a deferred request is used up with JUMP_DEFERRED, and an event
that a false decision could not see makes its late request.
Where the spec leaves room, the reading is the model's (log entry 37). -/
def Obligations.BranchesAreDecided : Prop :=
  ∀ (s u v : State) (t : Tb) (k : Nat) (seen : List Bool) (a : At) (b : BrEntry) (td lat : Rat)
      (taken hidden : List SrcEvent) (result unsure : Bool),
    u = s.at t → u.atSeg k .running = some a → b = u.brAt a.r k a.e.branch → a.e.brEn = true → a.q.decided = none →
    a.q.underTb = none → td = a.endAt - a.q.period - decideLead a.q.period → tick td ≤ u.tb → lat = u.latency k b →
    (taken, hidden) = splitSeen (td - lat) td seen (a.q.srcLog.filter b.watches) →
    (result = true ↔ a.q.defer = true ∨ b.cond taken td = true ∨
      (b.latch = true ∧ (b.cond taken a.q.since = true ∨
        ∃ e ∈ taken, a.q.since ≤ e.origin ∧ b.cond taken e.origin = true))) →
    (unsure = true ↔ ∃ e ∈ a.q.srcLog, b.watches e = true ∧ e.origin ≤ td ∧ td < e.origin + lat) →
    v = u.updSeq k (fun q => { q with
      decided := some result
      br := { branch := a.e.branch, result, uncertain := unsure, deferred := a.q.defer } }) →
    (∀ e ∈ a.q.srcLog, b.watches e = true → (e.origin ≤ td - lat → e ∈ taken) ∧
      (td - lat < e.origin → td < e.origin → e ∈ hidden)) ∧
    (a.q.defer = true → exec (.branchDecision t k seen) s = .next ((v.updSeq k fun q => { q with
      defer := false, deferCnt := inc32 q.deferCnt, fl := { q.fl with jumpDeferred := true } }).raise_
        { code := 0x0030, tb := a.q.deferTb, locKind := 2, location := k, run := some a.r.tag
          detail := a.q.seg + a.q.deferSeg * 2 ^ 16 })) ∧
    (a.q.defer = false → result = true → exec (.branchDecision t k seen) s = .next v) ∧
    (∀ log, log = a.q.srcLog.filter b.watches → a.q.defer = false → result = false →
      (lateEvent b log hidden a.endAt = none → exec (.branchDecision t k seen) s = .next v) ∧
      (∀ e, lateEvent b log hidden a.endAt = some e → exec (.branchDecision t k seen) s =
        .next ((v.updSeq k fun q => { q with lateDone := true }).lateRequest k b a.q.seg e.origin)))

/-- R110, R111, R113, R135: a token that its cluster decodes next has its effect: vectors of a dictionary word, of the last word or of a literal
word, nothing, the other stream buffer, a timer started from its constant or stopped, strobes masked or unmasked, an event line
pulsed; and the decoder moves past it. -/
def Obligations.TokensAct : Prop :=
  ∀ (s u : State) (t : Tb) (k : Nat) (a : At) (tok : Token), u = s.at t → u.decoding k = some (a, tok) →
    (∀ copies index, tok = .dict copies index → exec (.dict t k) s =
      .next ((u.produce k copies (BitVec.ofNat 32 (rd (u.vsramRd k) (4 * index) 4)) a).advance k 2 a)) ∧
    (∀ n, tok = .repeat_ n → exec (.repeatTok t k) s = .next ((u.produce k n a.q.word a).advance k 2 a)) ∧
    (tok = .literal → exec (.literal t k) s =
      .next ((u.produce k 1 (BitVec.ofNat 32 (rd (u.vsramRd k) (a.q.ptr + 2) 4)) a).advance k 6 a)) ∧
    (∀ arg, tok = .control 0 arg → exec (.nop t k) s = .next (u.advance k 2 a)) ∧
    (∀ arg, tok = .control 1 arg → exec (.swap t k) s =
      .next (if a.e.streamed then u.leaveBuffer k a else u.advance k 2 a)) ∧
    (∀ arg, tok = .control 2 arg → exec (.timerStart t k) s = .next ((u.setTimer k (arg % 4) a.q.nextVec fun m =>
      { m with
        running := true
        expiry := tick a.q.nextVec + timerConst (u.placed a.r k secBranches) (arg / 4) }).advance k 2 a)) ∧
    (∀ arg, tok = .control 3 arg → exec (.timerStop t k) s =
      .next ((u.setTimer k (arg % 4) a.q.nextVec fun m => { m with running := false }).advance k 2 a)) ∧
    (∀ arg, tok = .control 4 arg → exec (.maskStrobe t k) s =
      .next ((u.updSeq k fun q => { q with strobeMask := q.strobeMask ||| BitVec.ofNat 8 arg }).advance k 2 a)) ∧
    (∀ arg, tok = .control 5 arg → exec (.unmaskStrobe t k) s =
      .next ((u.updSeq k fun q => { q with strobeMask := q.strobeMask &&& ~~~(BitVec.ofNat 8 arg) }).advance k 2 a)) ∧
    (∀ arg, tok = .control 6 arg → exec (.seqEvent t k) s =
      .next ((u.pulseTo k 9 (arg % 4) u.tb u.tb).advance k 2 a))

/-- R44, R45, R113, R131, R132: a timer of a running cluster that reaches its count expires and its level is seen; at its instant a channel outside
runs applies the first group that waits, the host's forces that are due having joined it, and answers a force that this completes; one of a
running cluster steps its waveform first, counts an empty queue where a code was due, and underruns where its waveform has none.
Where the spec leaves room, the reading is the model's (log entries 54 and 55). -/
def Obligations.TimersAndCodesStep : Prop :=
  ∀ (s u : State) (t : Tb), u = s.at t →
    (∀ (k : Nat) (j : BitVec 2) (m : Timer), (u.seq k).state = .running → m = (u.seq k).timers.getD j.toNat default →
      m.running = true → m.expiry ≤ u.tb → exec (.clusterTimerExpiry t k j) s = .next ((u.updSeq k fun q =>
        { q with timers := q.timers.modify j.toNat fun m =>
          { m with running := false, expired := true, stamp := m.expiry } }).timerLevel k j.toNat true (m.expiry : Rat))) ∧
    (∀ n : Nat, u.hasChan n = true → (u.chan n).isInstant u.tb = true →
      (∀ active : Bool, (∀ r, u.runOfCluster (n / 8) = some r → n ∉ r.mapped) →
        (active = true ↔ (u.chan n).forces ≠ [] ∨ ∃ e ∈ (u.chan n).queue, e.owner.isSome = true) →
        exec (.dacUpdateInstant t n) s = .next ((u.updChan n fun c =>
          match takeGroup (c.join u.tb).queue with
          | some (g, rest) =>
            if (c.join u.tb).st.still && g.all (fun e => e.owner.isNone) then { c.join u.tb with queue := rest }
            else { (c.join u.tb).applyGroup g with queue := rest }
          | none => if active then (c.join u.tb).countEmpty else c.join u.tb).forceReplies
            ((u.chan n).forcesTaken u.tb))) ∧
      (∀ (r : Run) (v : State), u.runOfCluster (n / 8) = some r → n ∈ r.mapped → (u.seq (n / 8)).state = .running →
        (∀ tb, (u.seq (n / 8)).underTb = some tb → exec (.dacUpdateInstant t n) s = .next (u.updChan n Chan.heldInstant)) ∧
        ((u.seq (n / 8)).underTb = none → v = (u.updChan n fun c => c.join u.tb).waveInstant r (n / 8) n →
          (∀ tb, (v.seq (n / 8)).underTb = some tb →
            exec (.dacUpdateInstant t n) s = .next (v.updChan n Chan.heldInstant)) ∧
          ∀ w : State, (v.seq (n / 8)).underTb = none → w = (v.updChan n fun c =>
            match takeGroup c.queue with
            | some (g, rest) => { c.applyGroup g with queue := rest, levelDue := false }
            | none => if c.levelDue || c.wave.any fun w => !w.ended then
                { c with fl := { c.fl with queueEmpty := true }, qEmpty := inc32 c.qEmpty } else c).forceReplies
                  ((u.chan n).forcesTaken u.tb) →
            exec (.dacUpdateInstant t n) s =
              .next (if (v.chan n).starved then w.underrun (n / 8) (w.tb : Nat) true else w))))

/-- R135, R136, R138, R272: at σ + ISSUE an entry whose destination has room is issued, and fails a STRETCH run at once where its die has lost
the content; one that completes lands its bytes, those to a waveform ring in the order of their space, and the last of a prefill arms its
cluster; one that misses its DEADLINE is late. R140: a late entry of a STRETCH run sets its hold time, and the last to complete its end.
Where the spec leaves room, the reading is the model's (log entry 53). -/
def Obligations.SpringsFlow : Prop :=
  ∀ (s u : State) (t : Tb) (k i : Nat) (r : Run) (x : SpringQ), u = s.at t →
    (u.runOfCluster k = some r → (u.seq k).springs.find? (fun x => x.entry == i && !x.issued) = some x →
      tick x.sigma + (u.springAtEntry r k i).issue ≤ u.tb → u.springRoom r k (u.springAtEntry r k i) = true →
      ∀ v, v = (u.updSeq k fun q => q.issue (u.springAtEntry r k i) fun x => x.entry == i && !x.issued).springAsk r k i
          (u.springAtEntry r k i) (tick x.sigma + (u.springAtEntry r k i).deadline) →
      exec (.springIssue t k i) s = .next (if r.stretch && !v.springFrom r k then v.stretchFails r k else v)) ∧
    (u.springRun k = some r → (u.seq k).springs.find? (fun x => x.entry == i && x.issued) = some x →
      u.springFrom r k = true → (u.seq k).landsNext (u.springAtEntry r k i) x.at_ = true →
      ∀ v, v = (u.springLand r k (u.springAtEntry r k i) x.at_).updSeq k (fun q => { q with
          springs := q.springs.erase x
          state := if r.state = .arming ∧ (q.springs.erase x).isEmpty = true then .armed else q.state }) →
      exec (.springComplete t k i) s = .next (if x.late then v.lateOver r else v)) ∧
    (u.runOfCluster k = some r → (u.seq k).springs.find? (fun x => x.entry == i && !x.late) = some x →
      u.springDue r k x ≤ u.tb → exec (.springLate t k i) s = .next ((u.updSeq k fun q => { q with
        springs := updSpring (fun x => x.entry == i && !x.late) (fun x => { x with late := true }) q.springs
        fl := { q.fl with springLate := true }, lateCnt := inc32 q.lateCnt }).updRun r.tag
          (fun r => r.beLate (u.springDue r k x + 10000)) |>.raise_ { code := 0x0031, tb := u.tb, locKind := 2, location := k, run := some r.tag, detail := i }))

/-- R140, R203: HOLD for a late entry reaches the running members of a die of a STRETCH run, too late it fails the stretch; a member enters
HOLD at its boundary; RESUME names 10 µs after the TB at which every late entry was complete, the promise is broken, and a hold above 100 ms fails; at
its time a member resumes with its timeline shifted; holds above 100 ms in all fail.
Where the spec leaves room, the reading is the model's (log entry 54). -/
def Obligations.HoldsStretchTheRun : Prop :=
  ∀ (s u : State) (t : Tb) (g : Nat) (r : Run), u = s.at t →
    (∀ (h : Tb) (x k : Nat) (ks : List Nat), u.running g = some r → r.stretch = true → r.state ≠ .ending → h ∈ r.holds →
      (u.runClusters r).filter (fun k => dieOfCluster k == x && ((u.seq k).state == .running &&
        (u.seq k).holdAt != some h && decide ((u.seq k).holdTb < h))) = k :: ks →
      exec (.hold t g h x) s = .next (if h < u.tb then u.stretchFails r k
        else (k :: ks).foldl (fun v k => v.updSeq k fun q => { q with holdAt := some h }) u)) ∧
    (∀ (k : Nat) (a : At) (h : Tb), u.atSeg k .running = some a → a.q.holdAt = some h → h ≤ u.tb → a.r.state ≠ .ending →
      a.q.underTb = none → exec (.holdEntry t k) s = .next ((u.updSeq k fun q =>
        { q with state := .hold, holdTb := h, holdAt := none
                 resumeAt := q.resumeAt.filter fun r => decide (h ≤ r) }).updRun a.r.tag fun r =>
          { r with state := .hold })) ∧
    (∀ (ks : List Nat) (h c : Tb) (v : State), u.running g = some r → r.holdTb = some h → r.lateEnd = some c →
      r.state ≠ .ending →
      ks = (u.runClusters r).filter (fun k => (u.seq k).state == .running || (u.seq k).state == .hold) →
      v = ((ks.foldl (fun v k => v.updSeq k fun q =>
          { q with resumeAt := some (c + 10000), resumeTb := c + 10000, fl := { q.fl with stretched := true } }) u).raise_
          { code := 0x0033, tb := h, locKind := 4, location := g, run := some r.tag, detail := c + 10000 }).updRun
            r.tag (fun y => { y with
              broken := true, stretched := true, held := y.held + (c + 10000 - h), holdTb := none, lateEnd := none }) →
      exec (.resume t g) s = .next (if 100000000 < c + 10000 - h then v.stretchFails r (ks.head?.getD 0) else v)) ∧
    (∀ (k : Nat) (a : At) (e : Tb) (v : State), u.atSeg k .hold = some a → a.q.resumeAt = some e → e ≤ u.tb →
      a.r.state ≠ .ending → a.q.period ≠ 0 →
      v = u.shiftTimeline a.r k ((((e - a.q.holdTb : Nat) : Rat) / a.q.period).ceil * a.q.period) (e - a.q.holdTb) →
      exec (.timelineResume t k) s = .next (
        if (v.runClusters a.r).any fun j => (v.seq j).state == .hold then v
        else v.updRun a.r.tag fun x => { x with state := .running })) ∧
    (u.running g = some r → r.stretch = true → r.state ≠ .ending →
      100000000 < r.held + (match r.holdTb with | some h => u.tb - h | none => 0) →
      exec (.stretchLimit t g) s = .next (u.stretchFails r ((u.runClusters r).head?.getD 0)))

/-! ### The RPS, DRAM and thermal units -/

/-- R20, R63, R258, R262 to R266, R269 to R271, R273, R417, R418, R430: a request of a context that works ends with its lanes'
effects and its reply; at a maintenance window the frame before it has served its data slots, at most two of the RFMs that are due
issue, and a retraining takes its step; a retraining interval that has passed wants a retraining; re-forming ends with an empty
address space and the records and logs of the running runs created again; a rank that nothing holds awake powers down; the oldest
request past AGE_LIMIT is promoted and counted while the age margin holds credit; a full retrain ends with its training, the caps of its state, and its replies. Class 3 commands whose turn has come then start.
Where the spec leaves room, the reading is the model's (log entries 25, 66, 69 and 81). -/
def Obligations.DieUnitsStep : Prop :=
  ∀ (s u : State) (t : Tb) (x : Nat), u = s.at t →
    (∀ (c : Nat) (kelvin : BitVec 8) (q : RpsReq), (u.ctx x c).cur = some q → (u.die x).rps.loading = false →
      (u.die x).rps.fault = false →
      exec (.rpsDone t x c kelvin) s = .next ((u.rpsEnd x c kelvin).calRouted x q).pump3) ∧
    (∀ (ch : Nat) (mr4 mr4b : Option (BitVec 3)) (pass : BitVec 2) (n due : Nat) (wake : BitVec 2) (v₀ v : State),
      u.windowEnds x ch = true →
      v₀ = (u.updDram x fun y => { y with reqs := y.reqs.filter (u.dramStands x) }).updDram x (fun y =>
        (y.serveFrame ch (u.tb - 400)).refreshed ch (u.tb - 400)) →
      n = (v₀.die x).dram.windows.getD ch 0 + 1 → due = (v₀.die x).dram.rfmDue.getD ch 0 →
      v = v₀.updDram x (fun y => { y with
        windows := y.windows.set ch (if 64 ≤ n then 0 else n)
        rfmDue := y.rfmDue.set ch (due - 2)
        rfmCnt := min (y.rfmCnt + min 2 due) (2 ^ 32 - 1)
        lowPower := y.lowPower.mapIdx fun i b => b && !(i / 2 == ch && hasBit wake (i % 2)) }) →
      (n < 64 → exec (.maintenanceWindow t x ch mr4 mr4b pass wake) s =
        .next (v.retrainWindow x ch (u.tb - 400) pass).pump3) ∧
      (∀ r, 64 ≤ n → (v₀.die x).dram.rateOf mr4 mr4b = some r → exec (.maintenanceWindow t x ch mr4 mr4b pass wake) s =
        .next ((v.updDram x fun y => { y with
          rates := y.rates.set ch r
          mult := BitVec.ofNat 2 (maxOf (y.channels.map fun c => (y.rates.set ch r).getD c 0)) }).retrainWindow x ch
            (u.tb - 400) pass).pump3) ∧
      (64 ≤ n → (v₀.die x).dram.rateOf mr4 mr4b = none → ∃ lane < 4, exec (.maintenanceWindow t x ch mr4 mr4b pass wake) s =
        .next (({ v with free := v.free + 1 } : State).dramOffline x (lane + 4 * ch)).pump3)) ∧
    (u.hasDie x = true → (u.die x).dram.trainTb + (u.die x).dram.inUse 0 u.tb 2 * 1000000 ≤ u.tb →
      ((u.die x).dram.st = .full ∨ (u.die x).dram.st = .half) →
      exec (.retrainInterval t x) s = .next (u.updDram x fun y =>
        if y.retraining = true ∨ y.wanted.isSome = true then y else { y with wanted := some u.tb })) ∧
    (u.hasDie x = true → (u.die x).dram.st = .half → (u.die x).dram.reforming = true →
      exec (.reformDone t x) s = .next (((u.updDram x fun y => { y with reforming := false, mem := [] }).updClusters
        (fun k _ => dieOfCluster k == x) fun _ c => { c with flog := { c.flog with wr := 0, kept := [] } }).recordsAgain
          x)) ∧
    (∀ ch rank : Nat, u.hasDie x = true → ((u.die x).dram.st = .full ∨ (u.die x).dram.st = .half) → ch < 2 →
      hasBit (u.die x).dram.chOk ch = true → (rank = 0 ∨ rank = 1 ∧ (u.die x).dram.ranksM1 = true) →
      (u.die x).dram.inUse ch u.tb 1 ≠ 0 → (u.die x).dram.rankIdle ch rank u.tb = true → u.ranksHeld x = false →
      exec (.dramPowerDown t x ch rank) s =
        .next (u.updDram x fun y => { y with lowPower := y.lowPower.set (2 * ch + rank) true })) ∧
    (∀ (y : Dram) (v : State), u.hasDie x = true → ((u.die x).dram.st = .full ∨ (u.die x).dram.st = .half) →
      v = (u.updDram x fun y => { y with reqs := y.reqs.filter (u.dramStands x) }) → y = (v.die x).dram.gain u.tb →
      (∀ i, y.aged u.tb = some i → 64 ≤ y.credit .age → exec (.agePromotion t x) s = .next (v.updDram x fun _ => { y with
        reqs := y.reqs.modify i fun q => { q with promoted := true }
        promoteCnt := min (y.promoteCnt + 1) (2 ^ 32 - 1) })) ∧
      ((y.aged u.tb = none ∨ y.credit .age < 64) → exec (.agePromotion t x) s = .next (v.updDram x fun _ => y))) ∧
    (∀ env : DramEnv, u.hasDie x = true → (u.die x).dram.fullRun = true → exec (.fullRetrainDone t x env) s = .next
      (((u.trainDie x env (u.die x).thm.formed).updDie x fun y =>
        if y.st = .active then y else { y with bwCap := 0, springCap := 0 }).retrainReplies x (u.die x).dram.waiters).pump3)

/-- R269, R395 to R402, R407: a watch that is due asks for a junction conversion; a junction conversion that ends gives its reading with its
offset to the registers and the watch, to the commands that wait, and to the thermal state; an external one to the external
register; a grace period that ends in THROTTLE takes the next enforcement step.
Where the spec leaves room, the reading is the model's (log entry 67). -/
def Obligations.ThermalUnitsStep : Prop :=
  ∀ (s u : State) (t : Tb) (x : Nat), u = s.at t →
    (u.dieWorks x = true → (u.die x).thm.watching = true → (u.die x).thm.watchMs ≠ 0 →
      (u.die x).thm.watchTb + (u.die x).thm.watchMs.toNat * 1000000 ≤ u.tb →
      exec (.thermalWatch t x) s = .next (u.updThm x fun y => { y.ask 0 [] u.tb with watchTb := u.tb })) ∧
    (∀ (raw : Option (BitVec 16)) (rec : Option RecEnv) (boot : Option BootEnv) (c : Conv) (cs : List Conv)
        (v : BitVec 16) (tb : Tb) (w : State),
      (u.die x).thm.convs = c :: cs → u.dieWorks x = true → tb = (u.die x).thm.convTb → tb ≤ u.tb →
      (raw = none → v = 0x8000) →
      (∀ r, raw = some r → v = BitVec.ofInt 16 (max (-32767) (min 32767 (r.toInt + u.thermalOffset x c.sensor)))) →
      w = u.updThm x (fun y => { y with convs := cs, convTb := y.convTb + 1200000 }) →
      (c.sensor = 0 → exec (.thermalConversion t x raw rec boot) s = .next
        (((w.watchReading x v tb).thermalReplies x v tb c.tags).thermalMove x v tb rec boot)) ∧
      (c.sensor ≠ 0 → (u.die x).thm.extType ≠ 0 → exec (.thermalConversion t x raw rec boot) s = .next
        ((w.updThm x fun y => { y with text := v, extTb := tb }).thermalReplies x v tb c.tags))) ∧
    (u.hasDie x = true → (u.die x).st = .active → (u.die x).thm.st = .throttle → (u.die x).thm.graceTb ≠ 0 →
      (u.die x).thm.steps < 4 → (u.die x).thm.graceTb ≤ u.tb →
      exec (.graceExpiry t x) s = .next (u.enforce x))

/-! ### The serial port -/

/-- R349, R356, R361, R366, R368, R369, R372: a foreign select is recorded and releases the transaction in progress, which fails after its eighth
attempt; once the back-off is over the operation goes on; a poll that finds the flash idle completes it; one busy past its limit fails; the oldest J
event is appended when no program is in progress and the bus is free; the slave's select preempts the master, and its
release lets it go on.
Where the spec leaves room, the reading is the model's (log entry 68). -/
def Obligations.SerialPortSteps : Prop :=
  ∀ (s u : State) (t : Tb), u = s.at t →
    (∀ w, w = u.updSerial (fun x => { x with
        mmf := true, mmfLive := true, mmfCnt := inc32 x.mmfCnt, mmfTb := u.tb, busy := false }) →
      ((u.serial.ops = [] ∨ u.serial.busy = false) → exec (.mmf t) s = .next w.pump3) ∧
      (∀ o os, u.serial.ops = o :: os → u.serial.busy = true →
        ∀ v, v = (if o.mmf then w else w.raise_ { code := 0x0080, tb := w.tb }) →
        exec (.mmf t) s = .next (if 8 ≤ u.serial.attempt then v.opFails.pump3
          else ((v.updOp fun o => { o with mmf := true }).updSerial fun x => { x with attempt := x.attempt + 1 }).pump3))) ∧
    (∀ idle : Bool, u.serial.mmfLive = true →
      (u.serial.attempt = 0 ∨ u.serial.mmfTb + 100000 * 2 ^ (u.serial.attempt - 1) ≤ u.tb ∧ idle = true) →
      exec (.mmfBackoffExpiry t idle) s = .next (u.updSerial fun x => { x with mmfLive := false }).goOp.pump3) ∧
    (u.serial.busy = true → u.serial.mmfLive = false → u.serial.slvActive = false →
      exec (.flashOpDone t) s = .next u.opStep.pump3) ∧
    (∀ o os, u.serial.ops = o :: os → u.serial.busy = true →
      o.started + (if (o.cur u.serial.page).1 then u.serial.eraseMax * 1000 else 5000000) ≤ u.tb →
      exec (.xipTimeout t) s = .next (u.updSerial fun x => { x with xipTo := true }).opFails.pump3) ∧
    (∀ o os tag w, u.serial.ops = o :: os → u.serial.busy = false → u.serial.slvActive = true → o.tag = some tag →
      u.work? tag = some w → w.promise < u.tb → exec (.xipTimeout t) s = .next u.opFails.pump3) ∧
    (∀ e es, u.ev.jobs = e :: es → u.serial.mmfLive = false → u.serial.slvActive = false →
      (u.serial.busy = true → ∀ o os, u.serial.ops = o :: os → (o.cur u.serial.page).1 = true) →
      ∀ w, w = (u.updEv fun v => { v with jobs := es }).journalPut e →
      exec (.journalAppend t) s =
        .next (if w.serial.busy then w.updOp fun o => { o with started := w.tb } else w.goOp).pump3) ∧
    (∀ sent : Bool, u.serial.slvActive = false → exec (.spSlvSelNFall t sent) s = .next (u.updSerial fun x => { x with
      slvActive := true, slvRdy := true, busy := false
      slvPreempt := if x.busy = true ∧ sent = false then min (x.slvPreempt + 1) (2 ^ 32 - 1) else x.slvPreempt })) ∧
    (∀ cut : Bool, u.serial.slvActive = true → exec (.spSlvSelNRise t cut) s = .next (u.updSerial fun x => { x with
      slvActive := false, slvRdy := false, slvFraming := x.slvFraming || cut }).goOp.pump3)

/-- R289, R333, R368, R370, R371: a frame that the selected slave receives whole, with its count and CRC right, is answered by its
OP: ECHO with its arguments, STATUS with the boot and die words, REG_READ with the burst, THERMAL with the named dies where the part has them, STILL
after the unheld channels are asked to disconnect and, where asked, every run is aborted.
Where the spec leaves room, the reading is the model's (log entries 44 and 68). -/
def Obligations.ManagementFramesAreAnswered : Prop :=
  ∀ (s u : State) (t : Tb) (h : Word) (args : List Word), u = s.at t → u.serial.slvActive = true →
    0x10 ≤ u.boot.stage.toNat → h.toNat / 2 ^ 28 = 0xB → h.toNat / 256 % 256 = args.length → args.length ≤ 62 →
    frameCrc h args = h.toNat % 256 →
    (h.toNat / 2 ^ 24 % 16 = 0 → args.length ≤ 61 → exec (.slvEcho t (h :: args)) s =
      .next (u.slaveReply (replyFrame h .ok 0 args.length args))) ∧
    (h.toNat / 2 ^ 24 % 16 = 1 → args = [] → exec (.slvStatus t [h]) s = .next (u.slaveReply (replyFrame h .ok 0 11
      ([u.boot.statusWord, wordAt u.partWords 0x1000, u.boot.fwVersion] ++ (List.range 8).map u.slaveDie)))) ∧
    (∀ (a b : Word) (st : Status) (ws : List Word) (n : Nat) (lat : Latches) (v : State),
      h.toNat / 2 ^ 24 % 16 = 2 → args = [a, b] → u.boot.ready = true → 1 ≤ b.toNat / 256 % 256 →
      b.toNat / 256 % 256 ≤ 60 →
      u.burstRead [] (a.toNat + 2 ^ 32 * (b.toNat % 256)) (b.toNat / 256 % 256) = (st, ws, n, lat, v) →
      exec (.slvRegRead t [h, a, b]) s = .next (v.slaveReply (replyFrame h st 0 n ws))) ∧
    (∀ m : Word, h.toNat / 2 ^ 24 % 16 = 3 → args = [m] → u.boot.ready = true → exec (.slvThermal t [h, m]) s =
      .next (u.slaveReply (
        if ∀ x ∈ bitsOf (m.setWidth 8), u.hasDie x = true then
          replyFrame h .ok 0 (bitsOf (m.setWidth 8)).length ((bitsOf (m.setWidth 8)).map u.slaveDie)
        else replyFrame h .badArg 0 0 []))) ∧
    (∀ m : Word, h.toNat / 2 ^ 24 % 16 = 4 → args = [m] → u.boot.ready = true → exec (.slvStill t [h, m]) s =
      .next ((if hasBit m 0 then u.disconnectUnheld.hostAbortAll 0 else u.disconnectUnheld).slaveReply
        (replyFrame h .ok 0 0 [])))

/-! ### Transfers and verification -/

/-- R213, R221, R246, R247, R249, R261, R281, R298, R313, R328: a transfer begins at its start on its channel, on an idle one where
that is busy, and asks its die's DRAM for its accesses, or is late; the last one that completes gives a read its reply and a load its checks; a DEADLINE stops a transfer with what it moved; a
verification ends with VERIFIED, or with a failure and LOADED. Which of several failures is the first is a free value (log entry 7).
Where the spec leaves room, the reading is the model's (log entries 38, 59 and 60). -/
def Obligations.TransfersMove : Prop :=
  ∀ (s u : State) (t : Tb) (tag : BitVec 12), u = s.at t →
    (∀ (x : Nat) (header : List Byte) (b : Bulk) (idle : Nat → Bool) (v : Nat → State),
      u.bulks.find? (fun b => b.tag == tag && b.die == x) = some b → b.moving = false → b.done = false →
      b.start ≤ u.tb → (∀ c, idle c = !(u.bulks.any fun y => y.channel == c && y.moving && !y.done)) →
      (∀ c, v c = ((u.updBulk tag x fun b => { b with moving := true, channel := c }).updWork tag fun w =>
        { w with moving := true }).bulkRequest tag b) →
      exec (.bulkTransferStart t tag x header) s = .next (
        match (if idle b.channel then some b.channel else (List.range 8).find? idle) with
        | some c => if ((v c).work? tag).any fun w => w.opcode == 0x0020 then (v c).loadHeader tag b.source header else v c
        | none => u.updBulk tag x fun b => { b with late := true })) ∧
    (∀ (x : Nat) (data : List Byte) (w : Work) (b : Bulk) (v : State), u.work? tag = some w →
      u.bulks.find? (fun b => b.tag == tag && b.die == x) = some b → b.moving = true → b.done = false →
      v = { u.updBulk tag x (fun b => { b with done := true, moved := b.bytes }) with
        dma := u.dma.modify b.channel fun _ => { doneKib := b.bytes / 1024 } } →
      exec (.bulkComplete t tag x data) s = .next (
        if w.opcode = 0x0020 then v.loadMoved tag b.source data (v.bulkLate w)
        else if (v.bulksOf tag).all (·.done) then (v.readMoved w b (v.bulkLate w)).dropBulks tag else v)) ∧
    (∀ (moved : Nat) (w : Work), u.work? tag = some w → w.kind = .bulk → w.done = none → w.deadline ≠ 0 →
      w.deadline ≤ u.tb → exec (.bulkDeadlineStop t tag moved) s =
        .next (u.bulkStop w .timeout 0x04 1 (min moved ((u.bulksOf tag).map (·.bytes)).sum) 0)) ∧
    (∀ (w : Work) (id : Nat) (v : State), u.work? tag = some w → w.kind = .verify id → w.done = none →
      (∃ i, u.image? id = some i ∧ i.state = .verifying) → v = { u with free := u.free + 1 } →
      (verifyFails (u.imgRd id) = [] → exec (.verificationDone t tag) s =
        .next ((v.updImage id fun i => { i with state := .verified, loads := imgRedLoads (u.imgRd id) }).finish
          tag .ok 0 0 0)) ∧
      (verifyFails (u.imgRd id) ≠ [] → ∃ f ∈ verifyFails (u.imgRd id), exec (.verificationDone t tag) s =
        .next ((v.updImage id fun i => { i with state := .loaded }).finish tag .badArg f.detail f.result 0)))

/-! ### The whole block -/

/-- The queue is served first in, first out: with a command in front, a step is that command's effect on the state with
the queue's rest. -/
def Obligations.StepRunsFront : Prop :=
  ∀ (s : State) (c : Instr) (cs : List Instr), s.pending = c :: cs → step s = exec c { s with pending := cs }

/-- With no command waiting, a step is one tick of the time base (R80), after which class 3 work whose turn has come
starts (R217). That an idle step is a tick is the model's choice (log entry 2). -/
def Obligations.IdleStepIsATick : Prop :=
  ∀ s : State, s.pending = [] → step s = .next (s.at (s.tb + 1)).pump3

/-- Every step of the block has a next state: no command faults and none is refused by the model.
Where the spec leaves room, the reading is the model's (log entry 1). -/
def Obligations.StepAlwaysGoesOn : Prop := ∀ s : State, s.goesOn

/-- Every step keeps every memory in its canonical form: the flash, each die's DRAM and calibration RAM, each cluster's
SRAMs and recipe store. -/
def Obligations.StepKeepsCanonical : Prop := ∀ s t : State, s.canonical → step s = .next t → t.canonical

/-- Every step keeps the numbers of dies, clusters, channels, inlets, outlets and lock groups (R1, R7, R199, R292). -/
def Obligations.StepKeepsSized : Prop := ∀ s t : State, s.sized → step s = .next t → t.sized

/-- After a reset every memory is in its canonical form and every bank has its size. What it leaves: TB stands at 0 (R80), every channel is still and open (R78), the horizons have their values
and the weir's counters are 0 (R223), every ring is disabled (R292), the window and the diagnostic window are at rest
(R300, R304), the serial port has its timings (R373), nothing is accepted, and PERST_N is low (R434).
Where the spec leaves room, the reading is the model's (log entries 3, 4 and 5). -/
def Obligations.ResetIsInOrder : Prop :=
  ∀ (m : Model) (s : State), s = State.resetOf m →
    (s.canonical ∧ s.sized) ∧
    (s.tb = 0 ∧ s.model = m ∧ s.pending = [] ∧ s.works = [] ∧ s.runs = [] ∧ s.images = [] ∧ s.tags = []) ∧
    (∀ n, (s.chan n).st.still = true ∧ s.connected n = false ∧ (s.chan n).st.inRun = false) ∧
    (s.weir.horizonRun = 10000 ∧ s.weir.horizonBulk = 1000000 ∧ s.weir.decideMax = 0 ∧ s.weir.decideLate = 0 ∧
      ∀ i, s.weir.refuse.getD i 0 = 0 ∧ s.weir.accept.getD i 0 = 0) ∧
    ((∀ i, (s.inlet i).enable = false ∧ (s.inlet i).index = 0) ∧
      (∀ o, (s.outlet o).enable = false ∧ (s.outlet o).index = 0) ∧ s.evRing.enable = false ∧
      ∀ o, o < 16 → (s.outlet o).vector = o) ∧
    (s.diag.busy = false ∧ s.diag.count = 1 ∧ s.pci.apBad = false ∧ s.serial.div = 160 ∧ s.serial.selLead = 4 ∧
      s.serial.selLag = 4 ∧ s.serial.selIdle = 20 ∧ s.boot.ready = false ∧ s.boot.perstLow = true) ∧
    (∀ g, (s.group g).members = 0 ∧ s.runsOf g = [])

/-- R5: the numbers of clusters, lanes and channels in their local and global forms, and of lock groups, on every
model. -/
def Obligations.ItemsAreNumbered : Prop :=
  (∀ d c l : Nat, d < 8 → c < 8 → l < 8 →
    chanOf (d * 8 + c) l = d * 64 + c * 8 + l ∧ chanOf (d * 8 + c) l < 512 ∧ dieOfCluster (d * 8 + c) = d ∧
      d * 8 + c < 64 ∧ clusterOf (d * 64 + c * 8 + l) = d * 8 + c ∧ laneOf (d * 64 + c * 8 + l) = l) ∧
  ∀ m : Model, (State.resetOf m).groups.length = 32 ∧ (State.resetOf m).dies.length = 8

/-- R47: what a level code stands for, as a voltage with its step and its 0 V, and as a clamp current; and which of the
two the clamps give the power of a channel in FV and in FI (R55, R208). -/
def Obligations.LevelsStandForValues : Prop :=
  (∀ code : BitVec 16, levelV code.toNat = -3 + (code.toNat : Rat) * 12 / 65536) ∧
  (∀ n : Nat, levelV (n + 1) - levelV n = 12 / 65536) ∧ levelV 0x4000 = 0 ∧
  (∀ (code : BitVec 16) (fs : Rat), levelI code.toNat fs = ((code.toNat : Rat) - 32768) / 32768 * (5 / 4) * fs) ∧
  ∀ (range m : Nat) (force : BitVec 18) (vih vil vtt voh vol hi lo : BitVec 16) (x : Codes) (fs : Rat),
    x = { force, levels := [vih, vil, vtt, voh, vol, hi, lo] } → fs = fullScale range →
    chargeOf .fv range x m =
      (m : Rat) * min (max (max (levelI hi.toNat fs) (-levelI hi.toNat fs)) (max (levelI lo.toNat fs) (-levelI lo.toNat fs)))
        (21 / 20 * fs)
      * max (23 / 2 - forceV force.toNat) (forceV force.toNat + 5) ∧
    chargeOf .fi range x m = (m : Rat) * min (max (forceI force.toNat fs) (-forceI force.toNat fs)) (21 / 20 * fs)
      * max (23 / 2 - levelV lo.toNat) (levelV hi.toNat + 5)

/-- R308, R311: a received mailbox command that fails a check of its descriptor is answered with a single reply, which
gives back a tag of its own; it has no other effect. -/
def Obligations.DescriptorChecksAnswer : Prop :=
  ∀ (s u : State) (c : Instr) (d : Desc) (own : Bool) (st : Status) (e : Nat),
    s.received c = some (d, own, u) → u.descErr d c own = some (st, e) → exec c s = .next (u.single d own st e 0)

/-- R209, R210: a command of class 1 to 3 that finds all the tags of its classes used, or an outlet with room for fewer
than two replies, is answered and has no effect: nothing changes but what answering takes. -/
def Obligations.NoRoomNoEffect : Prop :=
  ∀ (s u : State) (c : Instr) (d : Desc) (own : Bool),
    s.received c = some (d, own, u) → d.cls ≠ 0 → (4032 < u.heavyTags ∨ u.room d.h.inlet.toNat < 2) →
    ∃ v, exec c s = .next v ∧ v.mute = u.mute ∧ (v.bulks = u.bulks ∨ v.bulks = u.bulks.filter fun b => b.tag != d.h.tag)

/-- R212: work is accepted at a candidate start that fits, within its horizon and its DEADLINE; an AT start is that
candidate and is not before the earliest start, and no candidate before the start of other work fits. The EARLIEST of
a refusal is a candidate that fits. -/
def Obligations.WeirDecisionHolds : Prop :=
  ∀ (s : State) (tab : List Resv) (a : Ask),
    (∀ (c p : Tb) (gs : List Grant), s.weirDecide tab a = .accept c p gs →
      a.fit c = .inr (p, gs) ∧ (a.deadline = 0 ∨ p ≤ a.deadline) ∧ (∀ h, a.horizon = some h → c ≤ s.tb + h) ∧
        (∀ t, a.atTb = some t → c = t ∧ a.s0 ≤ t) ∧
        (a.atTb = none → c ∈ candidates tab a a.s0 ∧
          ∀ b ∈ candidates tab a a.s0, b < c → ∃ x, a.fit b = .inl x)) ∧
    (∀ r : Refuse, s.weirDecide tab a = .refuse r →
      (∀ e, r.earliest = some e → e ∈ candidates tab a a.s0 ++ candidates tab a (a.atTb.getD a.s0) ∧
        ∃ p gs, a.fit e = .inr (p, gs)) ∧
      r.status ∈ [Status.refusedTime, .refusedBandwidth, .refusedPower])

/-- R213: the transfers of one command are all granted at its start, each at a rate from 250 to 6,250 MB/s with the
window that the rate gives, on a DMA channel that holds fewer than 16 transfers and carries none in that window; no two
of them share a channel. -/
def Obligations.GrantsKeepTheirLimits : Prop :=
  ∀ (s : State) (start : Tb) (asks : List BulkAsk) (tab : List Resv) (gs : List Grant),
    s.grants start asks tab [] = .inr gs →
    gs.map (·.ask) = asks ∧ gs.Pairwise (fun a b => a.channel ≠ b.channel) ∧
      ∀ g ∈ gs, 250 ≤ g.rate ∧ g.rate ≤ 6250 ∧ g.stop = start + ceilDiv (g.ask.bytes * 1000) g.rate + 20000 ∧
        g.channel < 8 ∧ s.queuedOn g.channel < 16 ∧
        ∀ x ∈ tab, x.chan = some g.channel → x.meets start g.stop = false

/-- A canonical memory gives back what was written to it and nothing else changes; a block written at once is the same as its bytes
written one after the other; a cleared span reads as nothing
written. R362, R363: the flash keeps, of a programmed byte, the bits that both the old and the new byte have, and an
erased span reads all ones; every other byte of the flash and all the rest of the state stay. -/
def Obligations.MemoriesReadBack : Prop :=
  (∀ (d : Byte) (m : Mem) (a : Nat) (bs : List Byte) (x : Nat), Mem.wf d m = true →
    Mem.get d (Mem.setBytes d m a bs) x = if a ≤ x ∧ x < a + bs.length then bs.getD (x - a) 0 else Mem.get d m x) ∧
  (∀ (d : Byte) (m : Mem) (a : Nat) (bs : List Byte), Mem.wf d m = true → Mem.put d m a bs = Mem.setBytes d m a bs) ∧
  (∀ (d : Byte) (m : Mem) (a n x : Nat),
    Mem.get d (Mem.clear m a n) x = if a ≤ x ∧ x < a + n then d else Mem.get d m x) ∧
  (∀ (s : State) (off : Nat) (bs : List Byte) (x : Nat), Mem.wf flashByte s.serial.flash = true →
    (s.flashProgram off bs).flashRd x =
      if off ≤ x ∧ x < off + bs.length then s.flashRd x &&& bs.getD (x - off) 0 else s.flashRd x) ∧
  (∀ (s : State) (off n x : Nat),
    (s.flashErase off n).flashRd x = if off ≤ x ∧ x < off + n then 0xFF else s.flashRd x) ∧
  (∀ (s : State) (off n : Nat) (bs : List Byte),
    ({ s.flashProgram off bs with serial := s.serial } : State) = s ∧
      ({ s.flashErase off n with serial := s.serial } : State) = s)

/-- R318, R348: an EPOCH_MARK or PART_RECOVERY always enters the device queue, and one in it stays; the other records
never fill more than 1,008 entries. An INFO event below MIN_SEVERITY is filtered and counted. Where the other entries
are full, an INFO event is dropped, and an event of higher severity takes the place of the newest INFO event or is
dropped; each drop is counted, sets EVENT_OVF and marks the next record. A record that enters carries the next SEQ.
Where the spec leaves room, the reading is the model's (log entry 23). -/
def Obligations.DeviceQueueKeepsItsMarks : Prop :=
  ∀ (s t : State) (e : NewEvent) (n : Nat) (others : List Event → List Event),
    others = (fun q => q.filter fun x => !x.kept) → s.arrive e = (n, t) →
    (s.ev.queue.filter (·.kept) ⊆ t.ev.queue) ∧
    ((others s.ev.queue).length ≤ 1008 → (others t.ev.queue).length ≤ 1008) ∧
    (e.code = evEpochMark ∨ e.code = evPartRecovery →
      t = s.enqueue e ∧ n = s.ev.seqNext) ∧
    (e.code ≠ evEpochMark → e.code ≠ evPartRecovery →
      (evSev e.code = .info → s.ev.minSev = true → t = s.updEv fun v => { v with filterCnt := inc32 v.filterCnt }) ∧
      ((evSev e.code ≠ .info ∨ s.ev.minSev = false) →
        ((others s.ev.queue).length < 1008 → t = s.enqueue e ∧ n = s.ev.seqNext) ∧
        (1008 ≤ (others s.ev.queue).length →
          t.ev.ovfCnt = inc32 s.ev.ovfCnt ∧ t.ev.ovfBefore = true ∧ t.pci.intEventOvf = true ∧
          (evSev e.code = .info → n = 0 ∧ t.ev.queue = s.ev.queue) ∧
          (evSev e.code ≠ .info → (∀ x ∈ others s.ev.queue, x.sev ≠ .info) → n = 0 ∧ t.ev.queue = s.ev.queue) ∧
          (∀ (a b : List Event) (x : Event), evSev e.code ≠ .info → s.ev.queue = a ++ x :: b → x.sev = .info →
            x.kept = false → (∀ y ∈ others b, y.sev ≠ .info) →
            n = s.ev.seqNext ∧ t.ev.queue = a ++ b ++ [e.record s.ev.seqNext s.boot.epoch])))) ∧
    (1 ≤ s.ev.seqNext → 1 ≤ t.ev.seqNext)

/-- R219: after the final replies that may go have gone, each formed one that is left waits for an earlier accepted
command of the same inlet and lock group whose final reply is not formed; the commands keep their order.
Where the spec leaves room, the reading is the model's (log entry 51). -/
def Obligations.FinalRepliesKeepOrder : Prop :=
  ∀ (s t : State), t = s.settle →
    t.works.Sublist s.works ∧ (∀ w ∈ s.works, w.done = none → w ∈ t.works) ∧
    ∀ (i : Nat) (w : Work), t.works[i]? = some w → w.done.isSome = true →
      w.group.isSome = true ∧
        ∃ (j : Nat) (e : Work), j < i ∧ t.works[j]? = some e ∧ e.inlet = w.inlet ∧ e.group = w.group ∧ e.done = none

/-- R224: every refusal with a REFUSED_* status counts once on its inlet under its status and carries the new count in
COUNT; a single reply, which answers a state check, counts nothing. -/
def Obligations.RefusalsAreCounted : Prop :=
  (∀ (s : State) (d : Desc) (r : Refuse) (x n : Nat), (refuseIndex r.status) = some x →
    n = inc32 (s.weir.refuse.getD (d.h.inlet.toNat * 5 + x) 0) →
    s.refuse d r = ({ s with weir :=
        { s.weir with refuse := s.weir.refuse.set (d.h.inlet.toNat * 5 + x) n } } : State).post d.h.inlet.toNat
      { opcode := BitVec.ofNat 16 d.op, status := r.status, detail := BitVec.ofNat 8 r.detail, tag := d.h.tag,
        epoch := s.boot.epoch, tb := r.earliest.getD (2 ^ 64 - 1), result := resultOf [(0x10, r.die),
          (0x11, d.h.inlet.toNat), (0x12, r.block), (0x14, r.required % 2 ^ 32), (0x18, r.available % 2 ^ 32),
          (0x1C, n)] } true 0) ∧
  (refuseIndex .refusedTime = some 0 ∧ refuseIndex .refusedBandwidth = some 1 ∧ refuseIndex .refusedPower = some 2 ∧
    refuseIndex .refusedSlots = some 3 ∧ refuseIndex .refusedUncal = some 4) ∧
  (∀ (s : State) (d : Desc) (own : Bool) (st : Status) (e : Nat) (r : BitVec 128),
    (s.single d own st e r).weir = s.weir)
end

