-- ==== Sys2Proof/Laws/Mem.lean ====
section
/-! SUPPORT. Every memory operation keeps the canonical form, and the memories after reset have it. -/

namespace Sys2Proof.Machine

/-- Every entry of a memory that a write gives is the written one or an old one. -/
theorem Mem.mem_set {d v : Byte} {m : Mem} {a : Nat} {c : Host.Cell} (h : c ∈ Mem.set d m a v) :
    c = (a, v) ∨ c ∈ m := by
  induction m with
  | nil => unfold Mem.set at h; split at h <;> simp_all
  | cons e m ih =>
    unfold Mem.set at h
    split at h
    · split at h <;> simp_all
    · split at h
      · split at h <;> simp_all
        grind
      · simp only [List.mem_cons] at h
        rcases h with rfl | h
        · simp
        · rcases ih h with h | h <;> simp [h]

/-- A written memory is canonical where it was. -/
theorem Mem.wf_set {d v : Byte} {m : Mem} {a : Nat} (h : Mem.wf d m = true) : Mem.wf d (Mem.set d m a v) = true := by
  induction m with
  | nil => unfold Mem.set; split <;> simp_all [Mem.wf]
  | cons e m ih =>
    simp only [Mem.wf, Bool.and_eq_true, bne_iff_ne, ne_eq, List.all_eq_true, decide_eq_true_eq] at h
    obtain ⟨⟨h0, h1⟩, h2⟩ := h
    unfold Mem.set
    split
    · next hlt =>
      split
      · simp [Mem.wf, h0, h2]; exact fun a b hb => h1 (a, b) hb
      · next hv =>
        simp only [Mem.wf, Bool.and_eq_true, bne_iff_ne, ne_eq, List.all_eq_true, decide_eq_true_eq, List.mem_cons]
        refine ⟨⟨hv, fun x hx => ?_⟩, ⟨⟨h0, h1⟩, h2⟩⟩
        rcases hx with rfl | hx
        · exact hlt
        · exact Nat.lt_trans hlt (h1 x hx)
    · split
      · next heq =>
        split
        · exact h2
        · next hv =>
          simp only [Mem.wf, Bool.and_eq_true, bne_iff_ne, ne_eq, List.all_eq_true, decide_eq_true_eq]
          exact ⟨⟨hv, fun x hx => heq ▸ h1 x hx⟩, h2⟩
      · simp only [Mem.wf, Bool.and_eq_true, bne_iff_ne, ne_eq, List.all_eq_true, decide_eq_true_eq]
        refine ⟨⟨h0, fun x hx => ?_⟩, ih h2⟩
        rcases Mem.mem_set hx with rfl | hx
        · simp; omega
        · exact h1 x hx

/-- A memory is canonical after bytes are written where it was. -/
theorem Mem.wf_setBytes {d : Byte} {bs : List Byte} {m : Mem} {a : Nat} (h : Mem.wf d m = true) :
    Mem.wf d (Mem.setBytes d m a bs) = true := by
  induction bs generalizing m a with
  | nil => exact h
  | cons v vs ih => exact ih (Mem.wf_set h)

/-- A memory is canonical after a span is cleared where it was. -/
theorem Mem.wf_clear {d : Byte} {m : Mem} {lo n : Nat} (h : Mem.wf d m = true) :
    Mem.wf d (Mem.clear m lo n) = true := by
  induction m with
  | nil => exact h
  | cons e m ih =>
    simp only [Mem.wf, Bool.and_eq_true, bne_iff_ne, ne_eq, List.all_eq_true, decide_eq_true_eq] at h
    obtain ⟨⟨h0, h1⟩, h2⟩ := h
    unfold Mem.clear at *
    rw [List.filter_cons]
    split
    · simp only [Mem.wf, Bool.and_eq_true, bne_iff_ne, ne_eq, List.all_eq_true, decide_eq_true_eq]
      exact ⟨⟨h0, fun x hx => h1 x (List.mem_filter.mp hx).1⟩, ih h2⟩
    · exact ih h2

/-- The canonical form, said of all entries at once. -/
theorem Mem.wf_iff {d : Byte} {m : Mem} :
    Mem.wf d m = true ↔ m.Pairwise (fun a b => a.1 < b.1) ∧ ∀ c ∈ m, c.2 ≠ d := by
  induction m with
  | nil => simp [Mem.wf]
  | cons e m ih =>
    simp only [Mem.wf, Bool.and_eq_true, bne_iff_ne, ne_eq, List.all_eq_true, decide_eq_true_eq, ih,
      List.pairwise_cons, List.mem_cons, forall_eq_or_imp]
    constructor
    · rintro ⟨⟨h0, h1⟩, h2, h3⟩; exact ⟨⟨h1, h2⟩, h0, h3⟩
    · rintro ⟨⟨h1, h2⟩, h0, h3⟩; exact ⟨⟨h0, h1⟩, h2, h3⟩

/-- The entries of a run of bytes stand in its span and are no byte an unlisted address reads as. -/
theorem Mem.mem_ofBytes {d : Byte} {vs : List Byte} {a : Nat} {c : Host.Cell} (h : c ∈ Mem.ofBytes d a vs) :
    a ≤ c.1 ∧ c.1 < a + vs.length ∧ c.2 ≠ d := by
  induction vs generalizing a with
  | nil => cases h
  | cons v vs ih =>
    unfold Mem.ofBytes at h
    simp only [List.length_cons]
    split at h
    · have := ih h; exact ⟨by omega, by omega, this.2.2⟩
    · next hv =>
      rcases List.mem_cons.mp h with rfl | h
      · exact ⟨Nat.le_refl _, by omega, hv⟩
      · have := ih h; exact ⟨by omega, by omega, this.2.2⟩

/-- The entries of a run of bytes are canonical. -/
theorem Mem.wf_ofBytes {d : Byte} {vs : List Byte} {a : Nat} : Mem.wf d (Mem.ofBytes d a vs) = true := by
  rw [Mem.wf_iff]
  refine ⟨?_, fun c h => (Mem.mem_ofBytes h).2.2⟩
  induction vs generalizing a with
  | nil => exact .nil
  | cons v vs ih =>
    unfold Mem.ofBytes
    split
    · exact ih
    · exact List.pairwise_cons.mpr ⟨fun c h => (Mem.mem_ofBytes h).1, ih⟩

/-- A memory is canonical after a block of bytes is written where it was. -/
theorem Mem.wf_put {d : Byte} {vs : List Byte} {m : Mem} {a : Nat} (h : Mem.wf d m = true) :
    Mem.wf d (Mem.put d m a vs) = true := by
  obtain ⟨h0, h1⟩ := Mem.wf_iff.mp h
  rw [Mem.wf_iff, Mem.put]
  refine ⟨List.pairwise_append.mpr ⟨List.pairwise_append.mpr ⟨h0.filter _, (Mem.wf_iff.mp Mem.wf_ofBytes).1, ?_⟩,
    h0.filter _, ?_⟩, ?_⟩
  · intro x hx y hy
    have := of_decide_eq_true (List.mem_filter.mp hx).2
    have := (Mem.mem_ofBytes hy).1
    omega
  · intro x hx y hy
    have hy := of_decide_eq_true (List.mem_filter.mp hy).2
    rcases List.mem_append.mp hx with hx | hx
    · have := of_decide_eq_true (List.mem_filter.mp hx).2; omega
    · have := (Mem.mem_ofBytes hx).2.1; omega
  · intro c hc
    rcases List.mem_append.mp hc with hc | hc
    · rcases List.mem_append.mp hc with hc | hc
      · exact h1 c (List.mem_filter.mp hc).1
      · exact (Mem.mem_ofBytes hc).2.2
    · exact h1 c (List.mem_filter.mp hc).1

/-- An empty memory is canonical. -/
@[simp] theorem Mem.wf_nil (d : Byte) : Mem.wf d [] = true := rfl

end Sys2Proof.Machine
end

