-- ==== Sys2Proof/Laws/State.lean ====
section
/-! SUPPORT. What each update of the state does to each field of it, and the reading of one part after a change of one
part. -/

namespace Sys2Proof.Machine

/-! ### `State.updChan` -/

@[simp] theorem State.updChan_tb (s : State) (n : Nat) (f : Chan → Chan) : (s.updChan n f).tb = s.tb := rfl
@[simp] theorem State.updChan_model (s : State) (n : Nat) (f : Chan → Chan) : (s.updChan n f).model = s.model := rfl
@[simp] theorem State.updChan_boot (s : State) (n : Nat) (f : Chan → Chan) : (s.updChan n f).boot = s.boot := rfl
@[simp] theorem State.updChan_otp (s : State) (n : Nat) (f : Chan → Chan) : (s.updChan n f).otp = s.otp := rfl
@[simp] theorem State.updChan_ident (s : State) (n : Nat) (f : Chan → Chan) : (s.updChan n f).ident = s.ident := rfl
@[simp] theorem State.updChan_pci (s : State) (n : Nat) (f : Chan → Chan) : (s.updChan n f).pci = s.pci := rfl
@[simp] theorem State.updChan_ptm (s : State) (n : Nat) (f : Chan → Chan) : (s.updChan n f).ptm = s.ptm := rfl
@[simp] theorem State.updChan_diag (s : State) (n : Nat) (f : Chan → Chan) : (s.updChan n f).diag = s.diag := rfl
@[simp] theorem State.updChan_latBar (s : State) (n : Nat) (f : Chan → Chan) : (s.updChan n f).latBar = s.latBar := rfl
@[simp] theorem State.updChan_latDiag (s : State) (n : Nat) (f : Chan → Chan) :
    (s.updChan n f).latDiag = s.latDiag := rfl
@[simp] theorem State.updChan_frozen (s : State) (n : Nat) (f : Chan → Chan) : (s.updChan n f).frozen = s.frozen := rfl
@[simp] theorem State.updChan_inlets (s : State) (n : Nat) (f : Chan → Chan) : (s.updChan n f).inlets = s.inlets := rfl
@[simp] theorem State.updChan_outlets (s : State) (n : Nat) (f : Chan → Chan) :
    (s.updChan n f).outlets = s.outlets := rfl
@[simp] theorem State.updChan_evRing (s : State) (n : Nat) (f : Chan → Chan) : (s.updChan n f).evRing = s.evRing := rfl
@[simp] theorem State.updChan_ev (s : State) (n : Nat) (f : Chan → Chan) : (s.updChan n f).ev = s.ev := rfl
@[simp] theorem State.updChan_tags (s : State) (n : Nat) (f : Chan → Chan) : (s.updChan n f).tags = s.tags := rfl
@[simp] theorem State.updChan_works (s : State) (n : Nat) (f : Chan → Chan) : (s.updChan n f).works = s.works := rfl
@[simp] theorem State.updChan_weir (s : State) (n : Nat) (f : Chan → Chan) : (s.updChan n f).weir = s.weir := rfl
@[simp] theorem State.updChan_bulks (s : State) (n : Nat) (f : Chan → Chan) : (s.updChan n f).bulks = s.bulks := rfl
@[simp] theorem State.updChan_dma (s : State) (n : Nat) (f : Chan → Chan) : (s.updChan n f).dma = s.dma := rfl
@[simp] theorem State.updChan_runs (s : State) (n : Nat) (f : Chan → Chan) : (s.updChan n f).runs = s.runs := rfl
@[simp] theorem State.updChan_groups (s : State) (n : Nat) (f : Chan → Chan) : (s.updChan n f).groups = s.groups := rfl
@[simp] theorem State.updChan_images (s : State) (n : Nat) (f : Chan → Chan) : (s.updChan n f).images = s.images := rfl
@[simp] theorem State.updChan_nextImage (s : State) (n : Nat) (f : Chan → Chan) :
    (s.updChan n f).nextImage = s.nextImage := rfl
@[simp] theorem State.updChan_results (s : State) (n : Nat) (f : Chan → Chan) :
    (s.updChan n f).results = s.results := rfl
@[simp] theorem State.updChan_dies (s : State) (n : Nat) (f : Chan → Chan) : (s.updChan n f).dies = s.dies := rfl
@[simp] theorem State.updChan_clusters (s : State) (n : Nat) (f : Chan → Chan) :
    (s.updChan n f).clusters = s.clusters := rfl
@[simp] theorem State.updChan_chans (s : State) (n : Nat) (f : Chan → Chan) :
    (s.updChan n f).chans = s.chans.modify n f := rfl
@[simp] theorem State.updChan_link (s : State) (n : Nat) (f : Chan → Chan) : (s.updChan n f).link = s.link := rfl
@[simp] theorem State.updChan_ripple (s : State) (n : Nat) (f : Chan → Chan) : (s.updChan n f).ripple = s.ripple := rfl
@[simp] theorem State.updChan_serial (s : State) (n : Nat) (f : Chan → Chan) : (s.updChan n f).serial = s.serial := rfl
@[simp] theorem State.updChan_cal (s : State) (n : Nat) (f : Chan → Chan) : (s.updChan n f).cal = s.cal := rfl
@[simp] theorem State.updChan_out (s : State) (n : Nat) (f : Chan → Chan) : (s.updChan n f).out = s.out := rfl
@[simp] theorem State.updChan_free (s : State) (n : Nat) (f : Chan → Chan) : (s.updChan n f).free = s.free := rfl
@[simp] theorem State.updChan_pending (s : State) (n : Nat) (f : Chan → Chan) :
    (s.updChan n f).pending = s.pending := rfl

/-! ### `State.updChans` -/

@[simp] theorem State.updChans_tb (s : State) (p : Nat → Chan → Bool) (f : Nat → Chan → Chan) :
    (s.updChans p f).tb = s.tb := rfl
@[simp] theorem State.updChans_model (s : State) (p : Nat → Chan → Bool) (f : Nat → Chan → Chan) :
    (s.updChans p f).model = s.model := rfl
@[simp] theorem State.updChans_boot (s : State) (p : Nat → Chan → Bool) (f : Nat → Chan → Chan) :
    (s.updChans p f).boot = s.boot := rfl
@[simp] theorem State.updChans_otp (s : State) (p : Nat → Chan → Bool) (f : Nat → Chan → Chan) :
    (s.updChans p f).otp = s.otp := rfl
@[simp] theorem State.updChans_ident (s : State) (p : Nat → Chan → Bool) (f : Nat → Chan → Chan) :
    (s.updChans p f).ident = s.ident := rfl
@[simp] theorem State.updChans_pci (s : State) (p : Nat → Chan → Bool) (f : Nat → Chan → Chan) :
    (s.updChans p f).pci = s.pci := rfl
@[simp] theorem State.updChans_ptm (s : State) (p : Nat → Chan → Bool) (f : Nat → Chan → Chan) :
    (s.updChans p f).ptm = s.ptm := rfl
@[simp] theorem State.updChans_diag (s : State) (p : Nat → Chan → Bool) (f : Nat → Chan → Chan) :
    (s.updChans p f).diag = s.diag := rfl
@[simp] theorem State.updChans_latBar (s : State) (p : Nat → Chan → Bool) (f : Nat → Chan → Chan) :
    (s.updChans p f).latBar = s.latBar := rfl
@[simp] theorem State.updChans_latDiag (s : State) (p : Nat → Chan → Bool) (f : Nat → Chan → Chan) :
    (s.updChans p f).latDiag = s.latDiag := rfl
@[simp] theorem State.updChans_frozen (s : State) (p : Nat → Chan → Bool) (f : Nat → Chan → Chan) :
    (s.updChans p f).frozen = s.frozen := rfl
@[simp] theorem State.updChans_inlets (s : State) (p : Nat → Chan → Bool) (f : Nat → Chan → Chan) :
    (s.updChans p f).inlets = s.inlets := rfl
@[simp] theorem State.updChans_outlets (s : State) (p : Nat → Chan → Bool) (f : Nat → Chan → Chan) :
    (s.updChans p f).outlets = s.outlets := rfl
@[simp] theorem State.updChans_evRing (s : State) (p : Nat → Chan → Bool) (f : Nat → Chan → Chan) :
    (s.updChans p f).evRing = s.evRing := rfl
@[simp] theorem State.updChans_ev (s : State) (p : Nat → Chan → Bool) (f : Nat → Chan → Chan) :
    (s.updChans p f).ev = s.ev := rfl
@[simp] theorem State.updChans_tags (s : State) (p : Nat → Chan → Bool) (f : Nat → Chan → Chan) :
    (s.updChans p f).tags = s.tags := rfl
@[simp] theorem State.updChans_works (s : State) (p : Nat → Chan → Bool) (f : Nat → Chan → Chan) :
    (s.updChans p f).works = s.works := rfl
@[simp] theorem State.updChans_weir (s : State) (p : Nat → Chan → Bool) (f : Nat → Chan → Chan) :
    (s.updChans p f).weir = s.weir := rfl
@[simp] theorem State.updChans_bulks (s : State) (p : Nat → Chan → Bool) (f : Nat → Chan → Chan) :
    (s.updChans p f).bulks = s.bulks := rfl
@[simp] theorem State.updChans_dma (s : State) (p : Nat → Chan → Bool) (f : Nat → Chan → Chan) :
    (s.updChans p f).dma = s.dma := rfl
@[simp] theorem State.updChans_runs (s : State) (p : Nat → Chan → Bool) (f : Nat → Chan → Chan) :
    (s.updChans p f).runs = s.runs := rfl
@[simp] theorem State.updChans_groups (s : State) (p : Nat → Chan → Bool) (f : Nat → Chan → Chan) :
    (s.updChans p f).groups = s.groups := rfl
@[simp] theorem State.updChans_images (s : State) (p : Nat → Chan → Bool) (f : Nat → Chan → Chan) :
    (s.updChans p f).images = s.images := rfl
@[simp] theorem State.updChans_nextImage (s : State) (p : Nat → Chan → Bool) (f : Nat → Chan → Chan) :
    (s.updChans p f).nextImage = s.nextImage := rfl
@[simp] theorem State.updChans_results (s : State) (p : Nat → Chan → Bool) (f : Nat → Chan → Chan) :
    (s.updChans p f).results = s.results := rfl
@[simp] theorem State.updChans_dies (s : State) (p : Nat → Chan → Bool) (f : Nat → Chan → Chan) :
    (s.updChans p f).dies = s.dies := rfl
@[simp] theorem State.updChans_clusters (s : State) (p : Nat → Chan → Bool) (f : Nat → Chan → Chan) :
    (s.updChans p f).clusters = s.clusters := rfl
@[simp] theorem State.updChans_chans (s : State) (p : Nat → Chan → Bool) (f : Nat → Chan → Chan) :
    (s.updChans p f).chans = s.chans.mapIdx fun n c => if p n c then f n c else c := rfl
@[simp] theorem State.updChans_link (s : State) (p : Nat → Chan → Bool) (f : Nat → Chan → Chan) :
    (s.updChans p f).link = s.link := rfl
@[simp] theorem State.updChans_ripple (s : State) (p : Nat → Chan → Bool) (f : Nat → Chan → Chan) :
    (s.updChans p f).ripple = s.ripple := rfl
@[simp] theorem State.updChans_serial (s : State) (p : Nat → Chan → Bool) (f : Nat → Chan → Chan) :
    (s.updChans p f).serial = s.serial := rfl
@[simp] theorem State.updChans_cal (s : State) (p : Nat → Chan → Bool) (f : Nat → Chan → Chan) :
    (s.updChans p f).cal = s.cal := rfl
@[simp] theorem State.updChans_out (s : State) (p : Nat → Chan → Bool) (f : Nat → Chan → Chan) :
    (s.updChans p f).out = s.out := rfl
@[simp] theorem State.updChans_free (s : State) (p : Nat → Chan → Bool) (f : Nat → Chan → Chan) :
    (s.updChans p f).free = s.free := rfl
@[simp] theorem State.updChans_pending (s : State) (p : Nat → Chan → Bool) (f : Nat → Chan → Chan) :
    (s.updChans p f).pending = s.pending := rfl

/-! ### `State.updCluster` -/

@[simp] theorem State.updCluster_tb (s : State) (k : Nat) (f : Cluster → Cluster) : (s.updCluster k f).tb = s.tb := rfl
@[simp] theorem State.updCluster_model (s : State) (k : Nat) (f : Cluster → Cluster) :
    (s.updCluster k f).model = s.model := rfl
@[simp] theorem State.updCluster_boot (s : State) (k : Nat) (f : Cluster → Cluster) :
    (s.updCluster k f).boot = s.boot := rfl
@[simp] theorem State.updCluster_otp (s : State) (k : Nat) (f : Cluster → Cluster) :
    (s.updCluster k f).otp = s.otp := rfl
@[simp] theorem State.updCluster_ident (s : State) (k : Nat) (f : Cluster → Cluster) :
    (s.updCluster k f).ident = s.ident := rfl
@[simp] theorem State.updCluster_pci (s : State) (k : Nat) (f : Cluster → Cluster) :
    (s.updCluster k f).pci = s.pci := rfl
@[simp] theorem State.updCluster_ptm (s : State) (k : Nat) (f : Cluster → Cluster) :
    (s.updCluster k f).ptm = s.ptm := rfl
@[simp] theorem State.updCluster_diag (s : State) (k : Nat) (f : Cluster → Cluster) :
    (s.updCluster k f).diag = s.diag := rfl
@[simp] theorem State.updCluster_latBar (s : State) (k : Nat) (f : Cluster → Cluster) :
    (s.updCluster k f).latBar = s.latBar := rfl
@[simp] theorem State.updCluster_latDiag (s : State) (k : Nat) (f : Cluster → Cluster) :
    (s.updCluster k f).latDiag = s.latDiag := rfl
@[simp] theorem State.updCluster_frozen (s : State) (k : Nat) (f : Cluster → Cluster) :
    (s.updCluster k f).frozen = s.frozen := rfl
@[simp] theorem State.updCluster_inlets (s : State) (k : Nat) (f : Cluster → Cluster) :
    (s.updCluster k f).inlets = s.inlets := rfl
@[simp] theorem State.updCluster_outlets (s : State) (k : Nat) (f : Cluster → Cluster) :
    (s.updCluster k f).outlets = s.outlets := rfl
@[simp] theorem State.updCluster_evRing (s : State) (k : Nat) (f : Cluster → Cluster) :
    (s.updCluster k f).evRing = s.evRing := rfl
@[simp] theorem State.updCluster_ev (s : State) (k : Nat) (f : Cluster → Cluster) : (s.updCluster k f).ev = s.ev := rfl
@[simp] theorem State.updCluster_tags (s : State) (k : Nat) (f : Cluster → Cluster) :
    (s.updCluster k f).tags = s.tags := rfl
@[simp] theorem State.updCluster_works (s : State) (k : Nat) (f : Cluster → Cluster) :
    (s.updCluster k f).works = s.works := rfl
@[simp] theorem State.updCluster_weir (s : State) (k : Nat) (f : Cluster → Cluster) :
    (s.updCluster k f).weir = s.weir := rfl
@[simp] theorem State.updCluster_bulks (s : State) (k : Nat) (f : Cluster → Cluster) :
    (s.updCluster k f).bulks = s.bulks := rfl
@[simp] theorem State.updCluster_dma (s : State) (k : Nat) (f : Cluster → Cluster) :
    (s.updCluster k f).dma = s.dma := rfl
@[simp] theorem State.updCluster_runs (s : State) (k : Nat) (f : Cluster → Cluster) :
    (s.updCluster k f).runs = s.runs := rfl
@[simp] theorem State.updCluster_groups (s : State) (k : Nat) (f : Cluster → Cluster) :
    (s.updCluster k f).groups = s.groups := rfl
@[simp] theorem State.updCluster_images (s : State) (k : Nat) (f : Cluster → Cluster) :
    (s.updCluster k f).images = s.images := rfl
@[simp] theorem State.updCluster_nextImage (s : State) (k : Nat) (f : Cluster → Cluster) :
    (s.updCluster k f).nextImage = s.nextImage := rfl
@[simp] theorem State.updCluster_results (s : State) (k : Nat) (f : Cluster → Cluster) :
    (s.updCluster k f).results = s.results := rfl
@[simp] theorem State.updCluster_dies (s : State) (k : Nat) (f : Cluster → Cluster) :
    (s.updCluster k f).dies = s.dies := rfl
@[simp] theorem State.updCluster_clusters (s : State) (k : Nat) (f : Cluster → Cluster) :
    (s.updCluster k f).clusters = s.clusters.modify k f := rfl
@[simp] theorem State.updCluster_chans (s : State) (k : Nat) (f : Cluster → Cluster) :
    (s.updCluster k f).chans = s.chans := rfl
@[simp] theorem State.updCluster_link (s : State) (k : Nat) (f : Cluster → Cluster) :
    (s.updCluster k f).link = s.link := rfl
@[simp] theorem State.updCluster_ripple (s : State) (k : Nat) (f : Cluster → Cluster) :
    (s.updCluster k f).ripple = s.ripple := rfl
@[simp] theorem State.updCluster_serial (s : State) (k : Nat) (f : Cluster → Cluster) :
    (s.updCluster k f).serial = s.serial := rfl
@[simp] theorem State.updCluster_cal (s : State) (k : Nat) (f : Cluster → Cluster) :
    (s.updCluster k f).cal = s.cal := rfl
@[simp] theorem State.updCluster_out (s : State) (k : Nat) (f : Cluster → Cluster) :
    (s.updCluster k f).out = s.out := rfl
@[simp] theorem State.updCluster_free (s : State) (k : Nat) (f : Cluster → Cluster) :
    (s.updCluster k f).free = s.free := rfl
@[simp] theorem State.updCluster_pending (s : State) (k : Nat) (f : Cluster → Cluster) :
    (s.updCluster k f).pending = s.pending := rfl

/-! ### `State.updClusters` -/

@[simp] theorem State.updClusters_tb (s : State) (p : Nat → Cluster → Bool) (f : Nat → Cluster → Cluster) :
    (s.updClusters p f).tb = s.tb := rfl
@[simp] theorem State.updClusters_model (s : State) (p : Nat → Cluster → Bool) (f : Nat → Cluster → Cluster) :
    (s.updClusters p f).model = s.model := rfl
@[simp] theorem State.updClusters_boot (s : State) (p : Nat → Cluster → Bool) (f : Nat → Cluster → Cluster) :
    (s.updClusters p f).boot = s.boot := rfl
@[simp] theorem State.updClusters_otp (s : State) (p : Nat → Cluster → Bool) (f : Nat → Cluster → Cluster) :
    (s.updClusters p f).otp = s.otp := rfl
@[simp] theorem State.updClusters_ident (s : State) (p : Nat → Cluster → Bool) (f : Nat → Cluster → Cluster) :
    (s.updClusters p f).ident = s.ident := rfl
@[simp] theorem State.updClusters_pci (s : State) (p : Nat → Cluster → Bool) (f : Nat → Cluster → Cluster) :
    (s.updClusters p f).pci = s.pci := rfl
@[simp] theorem State.updClusters_ptm (s : State) (p : Nat → Cluster → Bool) (f : Nat → Cluster → Cluster) :
    (s.updClusters p f).ptm = s.ptm := rfl
@[simp] theorem State.updClusters_diag (s : State) (p : Nat → Cluster → Bool) (f : Nat → Cluster → Cluster) :
    (s.updClusters p f).diag = s.diag := rfl
@[simp] theorem State.updClusters_latBar (s : State) (p : Nat → Cluster → Bool) (f : Nat → Cluster → Cluster) :
    (s.updClusters p f).latBar = s.latBar := rfl
@[simp] theorem State.updClusters_latDiag (s : State) (p : Nat → Cluster → Bool) (f : Nat → Cluster → Cluster) :
    (s.updClusters p f).latDiag = s.latDiag := rfl
@[simp] theorem State.updClusters_frozen (s : State) (p : Nat → Cluster → Bool) (f : Nat → Cluster → Cluster) :
    (s.updClusters p f).frozen = s.frozen := rfl
@[simp] theorem State.updClusters_inlets (s : State) (p : Nat → Cluster → Bool) (f : Nat → Cluster → Cluster) :
    (s.updClusters p f).inlets = s.inlets := rfl
@[simp] theorem State.updClusters_outlets (s : State) (p : Nat → Cluster → Bool) (f : Nat → Cluster → Cluster) :
    (s.updClusters p f).outlets = s.outlets := rfl
@[simp] theorem State.updClusters_evRing (s : State) (p : Nat → Cluster → Bool) (f : Nat → Cluster → Cluster) :
    (s.updClusters p f).evRing = s.evRing := rfl
@[simp] theorem State.updClusters_ev (s : State) (p : Nat → Cluster → Bool) (f : Nat → Cluster → Cluster) :
    (s.updClusters p f).ev = s.ev := rfl
@[simp] theorem State.updClusters_tags (s : State) (p : Nat → Cluster → Bool) (f : Nat → Cluster → Cluster) :
    (s.updClusters p f).tags = s.tags := rfl
@[simp] theorem State.updClusters_works (s : State) (p : Nat → Cluster → Bool) (f : Nat → Cluster → Cluster) :
    (s.updClusters p f).works = s.works := rfl
@[simp] theorem State.updClusters_weir (s : State) (p : Nat → Cluster → Bool) (f : Nat → Cluster → Cluster) :
    (s.updClusters p f).weir = s.weir := rfl
@[simp] theorem State.updClusters_bulks (s : State) (p : Nat → Cluster → Bool) (f : Nat → Cluster → Cluster) :
    (s.updClusters p f).bulks = s.bulks := rfl
@[simp] theorem State.updClusters_dma (s : State) (p : Nat → Cluster → Bool) (f : Nat → Cluster → Cluster) :
    (s.updClusters p f).dma = s.dma := rfl
@[simp] theorem State.updClusters_runs (s : State) (p : Nat → Cluster → Bool) (f : Nat → Cluster → Cluster) :
    (s.updClusters p f).runs = s.runs := rfl
@[simp] theorem State.updClusters_groups (s : State) (p : Nat → Cluster → Bool) (f : Nat → Cluster → Cluster) :
    (s.updClusters p f).groups = s.groups := rfl
@[simp] theorem State.updClusters_images (s : State) (p : Nat → Cluster → Bool) (f : Nat → Cluster → Cluster) :
    (s.updClusters p f).images = s.images := rfl
@[simp] theorem State.updClusters_nextImage (s : State) (p : Nat → Cluster → Bool) (f : Nat → Cluster → Cluster) :
    (s.updClusters p f).nextImage = s.nextImage := rfl
@[simp] theorem State.updClusters_results (s : State) (p : Nat → Cluster → Bool) (f : Nat → Cluster → Cluster) :
    (s.updClusters p f).results = s.results := rfl
@[simp] theorem State.updClusters_dies (s : State) (p : Nat → Cluster → Bool) (f : Nat → Cluster → Cluster) :
    (s.updClusters p f).dies = s.dies := rfl
@[simp] theorem State.updClusters_clusters (s : State) (p : Nat → Cluster → Bool) (f : Nat → Cluster → Cluster) :
    (s.updClusters p f).clusters = s.clusters.mapIdx fun k c => if p k c then f k c else c := rfl
@[simp] theorem State.updClusters_chans (s : State) (p : Nat → Cluster → Bool) (f : Nat → Cluster → Cluster) :
    (s.updClusters p f).chans = s.chans := rfl
@[simp] theorem State.updClusters_link (s : State) (p : Nat → Cluster → Bool) (f : Nat → Cluster → Cluster) :
    (s.updClusters p f).link = s.link := rfl
@[simp] theorem State.updClusters_ripple (s : State) (p : Nat → Cluster → Bool) (f : Nat → Cluster → Cluster) :
    (s.updClusters p f).ripple = s.ripple := rfl
@[simp] theorem State.updClusters_serial (s : State) (p : Nat → Cluster → Bool) (f : Nat → Cluster → Cluster) :
    (s.updClusters p f).serial = s.serial := rfl
@[simp] theorem State.updClusters_cal (s : State) (p : Nat → Cluster → Bool) (f : Nat → Cluster → Cluster) :
    (s.updClusters p f).cal = s.cal := rfl
@[simp] theorem State.updClusters_out (s : State) (p : Nat → Cluster → Bool) (f : Nat → Cluster → Cluster) :
    (s.updClusters p f).out = s.out := rfl
@[simp] theorem State.updClusters_free (s : State) (p : Nat → Cluster → Bool) (f : Nat → Cluster → Cluster) :
    (s.updClusters p f).free = s.free := rfl
@[simp] theorem State.updClusters_pending (s : State) (p : Nat → Cluster → Bool) (f : Nat → Cluster → Cluster) :
    (s.updClusters p f).pending = s.pending := rfl

/-! ### `State.updDie` -/

@[simp] theorem State.updDie_tb (s : State) (d : Nat) (f : Die → Die) : (s.updDie d f).tb = s.tb := rfl
@[simp] theorem State.updDie_model (s : State) (d : Nat) (f : Die → Die) : (s.updDie d f).model = s.model := rfl
@[simp] theorem State.updDie_boot (s : State) (d : Nat) (f : Die → Die) : (s.updDie d f).boot = s.boot := rfl
@[simp] theorem State.updDie_otp (s : State) (d : Nat) (f : Die → Die) : (s.updDie d f).otp = s.otp := rfl
@[simp] theorem State.updDie_ident (s : State) (d : Nat) (f : Die → Die) : (s.updDie d f).ident = s.ident := rfl
@[simp] theorem State.updDie_pci (s : State) (d : Nat) (f : Die → Die) : (s.updDie d f).pci = s.pci := rfl
@[simp] theorem State.updDie_ptm (s : State) (d : Nat) (f : Die → Die) : (s.updDie d f).ptm = s.ptm := rfl
@[simp] theorem State.updDie_diag (s : State) (d : Nat) (f : Die → Die) : (s.updDie d f).diag = s.diag := rfl
@[simp] theorem State.updDie_latBar (s : State) (d : Nat) (f : Die → Die) : (s.updDie d f).latBar = s.latBar := rfl
@[simp] theorem State.updDie_latDiag (s : State) (d : Nat) (f : Die → Die) : (s.updDie d f).latDiag = s.latDiag := rfl
@[simp] theorem State.updDie_frozen (s : State) (d : Nat) (f : Die → Die) : (s.updDie d f).frozen = s.frozen := rfl
@[simp] theorem State.updDie_inlets (s : State) (d : Nat) (f : Die → Die) : (s.updDie d f).inlets = s.inlets := rfl
@[simp] theorem State.updDie_outlets (s : State) (d : Nat) (f : Die → Die) : (s.updDie d f).outlets = s.outlets := rfl
@[simp] theorem State.updDie_evRing (s : State) (d : Nat) (f : Die → Die) : (s.updDie d f).evRing = s.evRing := rfl
@[simp] theorem State.updDie_ev (s : State) (d : Nat) (f : Die → Die) : (s.updDie d f).ev = s.ev := rfl
@[simp] theorem State.updDie_tags (s : State) (d : Nat) (f : Die → Die) : (s.updDie d f).tags = s.tags := rfl
@[simp] theorem State.updDie_works (s : State) (d : Nat) (f : Die → Die) : (s.updDie d f).works = s.works := rfl
@[simp] theorem State.updDie_weir (s : State) (d : Nat) (f : Die → Die) : (s.updDie d f).weir = s.weir := rfl
@[simp] theorem State.updDie_bulks (s : State) (d : Nat) (f : Die → Die) : (s.updDie d f).bulks = s.bulks := rfl
@[simp] theorem State.updDie_dma (s : State) (d : Nat) (f : Die → Die) : (s.updDie d f).dma = s.dma := rfl
@[simp] theorem State.updDie_runs (s : State) (d : Nat) (f : Die → Die) : (s.updDie d f).runs = s.runs := rfl
@[simp] theorem State.updDie_groups (s : State) (d : Nat) (f : Die → Die) : (s.updDie d f).groups = s.groups := rfl
@[simp] theorem State.updDie_images (s : State) (d : Nat) (f : Die → Die) : (s.updDie d f).images = s.images := rfl
@[simp] theorem State.updDie_nextImage (s : State) (d : Nat) (f : Die → Die) :
    (s.updDie d f).nextImage = s.nextImage := rfl
@[simp] theorem State.updDie_results (s : State) (d : Nat) (f : Die → Die) : (s.updDie d f).results = s.results := rfl
@[simp] theorem State.updDie_dies (s : State) (d : Nat) (f : Die → Die) :
    (s.updDie d f).dies = s.dies.modify d f := rfl
@[simp] theorem State.updDie_clusters (s : State) (d : Nat) (f : Die → Die) :
    (s.updDie d f).clusters = s.clusters := rfl
@[simp] theorem State.updDie_chans (s : State) (d : Nat) (f : Die → Die) : (s.updDie d f).chans = s.chans := rfl
@[simp] theorem State.updDie_link (s : State) (d : Nat) (f : Die → Die) : (s.updDie d f).link = s.link := rfl
@[simp] theorem State.updDie_ripple (s : State) (d : Nat) (f : Die → Die) : (s.updDie d f).ripple = s.ripple := rfl
@[simp] theorem State.updDie_serial (s : State) (d : Nat) (f : Die → Die) : (s.updDie d f).serial = s.serial := rfl
@[simp] theorem State.updDie_cal (s : State) (d : Nat) (f : Die → Die) : (s.updDie d f).cal = s.cal := rfl
@[simp] theorem State.updDie_out (s : State) (d : Nat) (f : Die → Die) : (s.updDie d f).out = s.out := rfl
@[simp] theorem State.updDie_free (s : State) (d : Nat) (f : Die → Die) : (s.updDie d f).free = s.free := rfl
@[simp] theorem State.updDie_pending (s : State) (d : Nat) (f : Die → Die) : (s.updDie d f).pending = s.pending := rfl

/-! ### `State.updGroup` -/

@[simp] theorem State.updGroup_tb (s : State) (g : Nat) (f : Group → Group) : (s.updGroup g f).tb = s.tb := rfl
@[simp] theorem State.updGroup_model (s : State) (g : Nat) (f : Group → Group) : (s.updGroup g f).model = s.model := rfl
@[simp] theorem State.updGroup_boot (s : State) (g : Nat) (f : Group → Group) : (s.updGroup g f).boot = s.boot := rfl
@[simp] theorem State.updGroup_otp (s : State) (g : Nat) (f : Group → Group) : (s.updGroup g f).otp = s.otp := rfl
@[simp] theorem State.updGroup_ident (s : State) (g : Nat) (f : Group → Group) : (s.updGroup g f).ident = s.ident := rfl
@[simp] theorem State.updGroup_pci (s : State) (g : Nat) (f : Group → Group) : (s.updGroup g f).pci = s.pci := rfl
@[simp] theorem State.updGroup_ptm (s : State) (g : Nat) (f : Group → Group) : (s.updGroup g f).ptm = s.ptm := rfl
@[simp] theorem State.updGroup_diag (s : State) (g : Nat) (f : Group → Group) : (s.updGroup g f).diag = s.diag := rfl
@[simp] theorem State.updGroup_latBar (s : State) (g : Nat) (f : Group → Group) :
    (s.updGroup g f).latBar = s.latBar := rfl
@[simp] theorem State.updGroup_latDiag (s : State) (g : Nat) (f : Group → Group) :
    (s.updGroup g f).latDiag = s.latDiag := rfl
@[simp] theorem State.updGroup_frozen (s : State) (g : Nat) (f : Group → Group) :
    (s.updGroup g f).frozen = s.frozen := rfl
@[simp] theorem State.updGroup_inlets (s : State) (g : Nat) (f : Group → Group) :
    (s.updGroup g f).inlets = s.inlets := rfl
@[simp] theorem State.updGroup_outlets (s : State) (g : Nat) (f : Group → Group) :
    (s.updGroup g f).outlets = s.outlets := rfl
@[simp] theorem State.updGroup_evRing (s : State) (g : Nat) (f : Group → Group) :
    (s.updGroup g f).evRing = s.evRing := rfl
@[simp] theorem State.updGroup_ev (s : State) (g : Nat) (f : Group → Group) : (s.updGroup g f).ev = s.ev := rfl
@[simp] theorem State.updGroup_tags (s : State) (g : Nat) (f : Group → Group) : (s.updGroup g f).tags = s.tags := rfl
@[simp] theorem State.updGroup_works (s : State) (g : Nat) (f : Group → Group) : (s.updGroup g f).works = s.works := rfl
@[simp] theorem State.updGroup_weir (s : State) (g : Nat) (f : Group → Group) : (s.updGroup g f).weir = s.weir := rfl
@[simp] theorem State.updGroup_bulks (s : State) (g : Nat) (f : Group → Group) : (s.updGroup g f).bulks = s.bulks := rfl
@[simp] theorem State.updGroup_dma (s : State) (g : Nat) (f : Group → Group) : (s.updGroup g f).dma = s.dma := rfl
@[simp] theorem State.updGroup_runs (s : State) (g : Nat) (f : Group → Group) : (s.updGroup g f).runs = s.runs := rfl
@[simp] theorem State.updGroup_groups (s : State) (g : Nat) (f : Group → Group) :
    (s.updGroup g f).groups = s.groups.modify g f := rfl
@[simp] theorem State.updGroup_images (s : State) (g : Nat) (f : Group → Group) :
    (s.updGroup g f).images = s.images := rfl
@[simp] theorem State.updGroup_nextImage (s : State) (g : Nat) (f : Group → Group) :
    (s.updGroup g f).nextImage = s.nextImage := rfl
@[simp] theorem State.updGroup_results (s : State) (g : Nat) (f : Group → Group) :
    (s.updGroup g f).results = s.results := rfl
@[simp] theorem State.updGroup_dies (s : State) (g : Nat) (f : Group → Group) : (s.updGroup g f).dies = s.dies := rfl
@[simp] theorem State.updGroup_clusters (s : State) (g : Nat) (f : Group → Group) :
    (s.updGroup g f).clusters = s.clusters := rfl
@[simp] theorem State.updGroup_chans (s : State) (g : Nat) (f : Group → Group) : (s.updGroup g f).chans = s.chans := rfl
@[simp] theorem State.updGroup_link (s : State) (g : Nat) (f : Group → Group) : (s.updGroup g f).link = s.link := rfl
@[simp] theorem State.updGroup_ripple (s : State) (g : Nat) (f : Group → Group) :
    (s.updGroup g f).ripple = s.ripple := rfl
@[simp] theorem State.updGroup_serial (s : State) (g : Nat) (f : Group → Group) :
    (s.updGroup g f).serial = s.serial := rfl
@[simp] theorem State.updGroup_cal (s : State) (g : Nat) (f : Group → Group) : (s.updGroup g f).cal = s.cal := rfl
@[simp] theorem State.updGroup_out (s : State) (g : Nat) (f : Group → Group) : (s.updGroup g f).out = s.out := rfl
@[simp] theorem State.updGroup_free (s : State) (g : Nat) (f : Group → Group) : (s.updGroup g f).free = s.free := rfl
@[simp] theorem State.updGroup_pending (s : State) (g : Nat) (f : Group → Group) :
    (s.updGroup g f).pending = s.pending := rfl

/-! ### `State.updInlet` -/

@[simp] theorem State.updInlet_tb (s : State) (i : Nat) (f : Inlet → Inlet) : (s.updInlet i f).tb = s.tb := rfl
@[simp] theorem State.updInlet_model (s : State) (i : Nat) (f : Inlet → Inlet) : (s.updInlet i f).model = s.model := rfl
@[simp] theorem State.updInlet_boot (s : State) (i : Nat) (f : Inlet → Inlet) : (s.updInlet i f).boot = s.boot := rfl
@[simp] theorem State.updInlet_otp (s : State) (i : Nat) (f : Inlet → Inlet) : (s.updInlet i f).otp = s.otp := rfl
@[simp] theorem State.updInlet_ident (s : State) (i : Nat) (f : Inlet → Inlet) : (s.updInlet i f).ident = s.ident := rfl
@[simp] theorem State.updInlet_pci (s : State) (i : Nat) (f : Inlet → Inlet) : (s.updInlet i f).pci = s.pci := rfl
@[simp] theorem State.updInlet_ptm (s : State) (i : Nat) (f : Inlet → Inlet) : (s.updInlet i f).ptm = s.ptm := rfl
@[simp] theorem State.updInlet_diag (s : State) (i : Nat) (f : Inlet → Inlet) : (s.updInlet i f).diag = s.diag := rfl
@[simp] theorem State.updInlet_latBar (s : State) (i : Nat) (f : Inlet → Inlet) :
    (s.updInlet i f).latBar = s.latBar := rfl
@[simp] theorem State.updInlet_latDiag (s : State) (i : Nat) (f : Inlet → Inlet) :
    (s.updInlet i f).latDiag = s.latDiag := rfl
@[simp] theorem State.updInlet_frozen (s : State) (i : Nat) (f : Inlet → Inlet) :
    (s.updInlet i f).frozen = s.frozen := rfl
@[simp] theorem State.updInlet_inlets (s : State) (i : Nat) (f : Inlet → Inlet) :
    (s.updInlet i f).inlets = s.inlets.modify i f := rfl
@[simp] theorem State.updInlet_outlets (s : State) (i : Nat) (f : Inlet → Inlet) :
    (s.updInlet i f).outlets = s.outlets := rfl
@[simp] theorem State.updInlet_evRing (s : State) (i : Nat) (f : Inlet → Inlet) :
    (s.updInlet i f).evRing = s.evRing := rfl
@[simp] theorem State.updInlet_ev (s : State) (i : Nat) (f : Inlet → Inlet) : (s.updInlet i f).ev = s.ev := rfl
@[simp] theorem State.updInlet_tags (s : State) (i : Nat) (f : Inlet → Inlet) : (s.updInlet i f).tags = s.tags := rfl
@[simp] theorem State.updInlet_works (s : State) (i : Nat) (f : Inlet → Inlet) : (s.updInlet i f).works = s.works := rfl
@[simp] theorem State.updInlet_weir (s : State) (i : Nat) (f : Inlet → Inlet) : (s.updInlet i f).weir = s.weir := rfl
@[simp] theorem State.updInlet_bulks (s : State) (i : Nat) (f : Inlet → Inlet) : (s.updInlet i f).bulks = s.bulks := rfl
@[simp] theorem State.updInlet_dma (s : State) (i : Nat) (f : Inlet → Inlet) : (s.updInlet i f).dma = s.dma := rfl
@[simp] theorem State.updInlet_runs (s : State) (i : Nat) (f : Inlet → Inlet) : (s.updInlet i f).runs = s.runs := rfl
@[simp] theorem State.updInlet_groups (s : State) (i : Nat) (f : Inlet → Inlet) :
    (s.updInlet i f).groups = s.groups := rfl
@[simp] theorem State.updInlet_images (s : State) (i : Nat) (f : Inlet → Inlet) :
    (s.updInlet i f).images = s.images := rfl
@[simp] theorem State.updInlet_nextImage (s : State) (i : Nat) (f : Inlet → Inlet) :
    (s.updInlet i f).nextImage = s.nextImage := rfl
@[simp] theorem State.updInlet_results (s : State) (i : Nat) (f : Inlet → Inlet) :
    (s.updInlet i f).results = s.results := rfl
@[simp] theorem State.updInlet_dies (s : State) (i : Nat) (f : Inlet → Inlet) : (s.updInlet i f).dies = s.dies := rfl
@[simp] theorem State.updInlet_clusters (s : State) (i : Nat) (f : Inlet → Inlet) :
    (s.updInlet i f).clusters = s.clusters := rfl
@[simp] theorem State.updInlet_chans (s : State) (i : Nat) (f : Inlet → Inlet) : (s.updInlet i f).chans = s.chans := rfl
@[simp] theorem State.updInlet_link (s : State) (i : Nat) (f : Inlet → Inlet) : (s.updInlet i f).link = s.link := rfl
@[simp] theorem State.updInlet_ripple (s : State) (i : Nat) (f : Inlet → Inlet) :
    (s.updInlet i f).ripple = s.ripple := rfl
@[simp] theorem State.updInlet_serial (s : State) (i : Nat) (f : Inlet → Inlet) :
    (s.updInlet i f).serial = s.serial := rfl
@[simp] theorem State.updInlet_cal (s : State) (i : Nat) (f : Inlet → Inlet) : (s.updInlet i f).cal = s.cal := rfl
@[simp] theorem State.updInlet_out (s : State) (i : Nat) (f : Inlet → Inlet) : (s.updInlet i f).out = s.out := rfl
@[simp] theorem State.updInlet_free (s : State) (i : Nat) (f : Inlet → Inlet) : (s.updInlet i f).free = s.free := rfl
@[simp] theorem State.updInlet_pending (s : State) (i : Nat) (f : Inlet → Inlet) :
    (s.updInlet i f).pending = s.pending := rfl

/-! ### `State.updOutlet` -/

@[simp] theorem State.updOutlet_tb (s : State) (o : Nat) (f : Ring → Ring) : (s.updOutlet o f).tb = s.tb := rfl
@[simp] theorem State.updOutlet_model (s : State) (o : Nat) (f : Ring → Ring) : (s.updOutlet o f).model = s.model := rfl
@[simp] theorem State.updOutlet_boot (s : State) (o : Nat) (f : Ring → Ring) : (s.updOutlet o f).boot = s.boot := rfl
@[simp] theorem State.updOutlet_otp (s : State) (o : Nat) (f : Ring → Ring) : (s.updOutlet o f).otp = s.otp := rfl
@[simp] theorem State.updOutlet_ident (s : State) (o : Nat) (f : Ring → Ring) : (s.updOutlet o f).ident = s.ident := rfl
@[simp] theorem State.updOutlet_pci (s : State) (o : Nat) (f : Ring → Ring) : (s.updOutlet o f).pci = s.pci := rfl
@[simp] theorem State.updOutlet_ptm (s : State) (o : Nat) (f : Ring → Ring) : (s.updOutlet o f).ptm = s.ptm := rfl
@[simp] theorem State.updOutlet_diag (s : State) (o : Nat) (f : Ring → Ring) : (s.updOutlet o f).diag = s.diag := rfl
@[simp] theorem State.updOutlet_latBar (s : State) (o : Nat) (f : Ring → Ring) :
    (s.updOutlet o f).latBar = s.latBar := rfl
@[simp] theorem State.updOutlet_latDiag (s : State) (o : Nat) (f : Ring → Ring) :
    (s.updOutlet o f).latDiag = s.latDiag := rfl
@[simp] theorem State.updOutlet_frozen (s : State) (o : Nat) (f : Ring → Ring) :
    (s.updOutlet o f).frozen = s.frozen := rfl
@[simp] theorem State.updOutlet_inlets (s : State) (o : Nat) (f : Ring → Ring) :
    (s.updOutlet o f).inlets = s.inlets := rfl
@[simp] theorem State.updOutlet_outlets (s : State) (o : Nat) (f : Ring → Ring) :
    (s.updOutlet o f).outlets = s.outlets.modify o f := rfl
@[simp] theorem State.updOutlet_evRing (s : State) (o : Nat) (f : Ring → Ring) :
    (s.updOutlet o f).evRing = s.evRing := rfl
@[simp] theorem State.updOutlet_ev (s : State) (o : Nat) (f : Ring → Ring) : (s.updOutlet o f).ev = s.ev := rfl
@[simp] theorem State.updOutlet_tags (s : State) (o : Nat) (f : Ring → Ring) : (s.updOutlet o f).tags = s.tags := rfl
@[simp] theorem State.updOutlet_works (s : State) (o : Nat) (f : Ring → Ring) : (s.updOutlet o f).works = s.works := rfl
@[simp] theorem State.updOutlet_weir (s : State) (o : Nat) (f : Ring → Ring) : (s.updOutlet o f).weir = s.weir := rfl
@[simp] theorem State.updOutlet_bulks (s : State) (o : Nat) (f : Ring → Ring) : (s.updOutlet o f).bulks = s.bulks := rfl
@[simp] theorem State.updOutlet_dma (s : State) (o : Nat) (f : Ring → Ring) : (s.updOutlet o f).dma = s.dma := rfl
@[simp] theorem State.updOutlet_runs (s : State) (o : Nat) (f : Ring → Ring) : (s.updOutlet o f).runs = s.runs := rfl
@[simp] theorem State.updOutlet_groups (s : State) (o : Nat) (f : Ring → Ring) :
    (s.updOutlet o f).groups = s.groups := rfl
@[simp] theorem State.updOutlet_images (s : State) (o : Nat) (f : Ring → Ring) :
    (s.updOutlet o f).images = s.images := rfl
@[simp] theorem State.updOutlet_nextImage (s : State) (o : Nat) (f : Ring → Ring) :
    (s.updOutlet o f).nextImage = s.nextImage := rfl
@[simp] theorem State.updOutlet_results (s : State) (o : Nat) (f : Ring → Ring) :
    (s.updOutlet o f).results = s.results := rfl
@[simp] theorem State.updOutlet_dies (s : State) (o : Nat) (f : Ring → Ring) : (s.updOutlet o f).dies = s.dies := rfl
@[simp] theorem State.updOutlet_clusters (s : State) (o : Nat) (f : Ring → Ring) :
    (s.updOutlet o f).clusters = s.clusters := rfl
@[simp] theorem State.updOutlet_chans (s : State) (o : Nat) (f : Ring → Ring) : (s.updOutlet o f).chans = s.chans := rfl
@[simp] theorem State.updOutlet_link (s : State) (o : Nat) (f : Ring → Ring) : (s.updOutlet o f).link = s.link := rfl
@[simp] theorem State.updOutlet_ripple (s : State) (o : Nat) (f : Ring → Ring) :
    (s.updOutlet o f).ripple = s.ripple := rfl
@[simp] theorem State.updOutlet_serial (s : State) (o : Nat) (f : Ring → Ring) :
    (s.updOutlet o f).serial = s.serial := rfl
@[simp] theorem State.updOutlet_cal (s : State) (o : Nat) (f : Ring → Ring) : (s.updOutlet o f).cal = s.cal := rfl
@[simp] theorem State.updOutlet_out (s : State) (o : Nat) (f : Ring → Ring) : (s.updOutlet o f).out = s.out := rfl
@[simp] theorem State.updOutlet_free (s : State) (o : Nat) (f : Ring → Ring) : (s.updOutlet o f).free = s.free := rfl
@[simp] theorem State.updOutlet_pending (s : State) (o : Nat) (f : Ring → Ring) :
    (s.updOutlet o f).pending = s.pending := rfl

/-! ### `State.updPci` -/

@[simp] theorem State.updPci_tb (s : State) (f : Pci → Pci) : (s.updPci f).tb = s.tb := rfl
@[simp] theorem State.updPci_model (s : State) (f : Pci → Pci) : (s.updPci f).model = s.model := rfl
@[simp] theorem State.updPci_boot (s : State) (f : Pci → Pci) : (s.updPci f).boot = s.boot := rfl
@[simp] theorem State.updPci_otp (s : State) (f : Pci → Pci) : (s.updPci f).otp = s.otp := rfl
@[simp] theorem State.updPci_ident (s : State) (f : Pci → Pci) : (s.updPci f).ident = s.ident := rfl
@[simp] theorem State.updPci_pci (s : State) (f : Pci → Pci) :
    (s.updPci f).pci = f s.pci := rfl
@[simp] theorem State.updPci_ptm (s : State) (f : Pci → Pci) : (s.updPci f).ptm = s.ptm := rfl
@[simp] theorem State.updPci_diag (s : State) (f : Pci → Pci) : (s.updPci f).diag = s.diag := rfl
@[simp] theorem State.updPci_latBar (s : State) (f : Pci → Pci) : (s.updPci f).latBar = s.latBar := rfl
@[simp] theorem State.updPci_latDiag (s : State) (f : Pci → Pci) : (s.updPci f).latDiag = s.latDiag := rfl
@[simp] theorem State.updPci_frozen (s : State) (f : Pci → Pci) : (s.updPci f).frozen = s.frozen := rfl
@[simp] theorem State.updPci_inlets (s : State) (f : Pci → Pci) : (s.updPci f).inlets = s.inlets := rfl
@[simp] theorem State.updPci_outlets (s : State) (f : Pci → Pci) : (s.updPci f).outlets = s.outlets := rfl
@[simp] theorem State.updPci_evRing (s : State) (f : Pci → Pci) : (s.updPci f).evRing = s.evRing := rfl
@[simp] theorem State.updPci_ev (s : State) (f : Pci → Pci) : (s.updPci f).ev = s.ev := rfl
@[simp] theorem State.updPci_tags (s : State) (f : Pci → Pci) : (s.updPci f).tags = s.tags := rfl
@[simp] theorem State.updPci_works (s : State) (f : Pci → Pci) : (s.updPci f).works = s.works := rfl
@[simp] theorem State.updPci_weir (s : State) (f : Pci → Pci) : (s.updPci f).weir = s.weir := rfl
@[simp] theorem State.updPci_bulks (s : State) (f : Pci → Pci) : (s.updPci f).bulks = s.bulks := rfl
@[simp] theorem State.updPci_dma (s : State) (f : Pci → Pci) : (s.updPci f).dma = s.dma := rfl
@[simp] theorem State.updPci_runs (s : State) (f : Pci → Pci) : (s.updPci f).runs = s.runs := rfl
@[simp] theorem State.updPci_groups (s : State) (f : Pci → Pci) : (s.updPci f).groups = s.groups := rfl
@[simp] theorem State.updPci_images (s : State) (f : Pci → Pci) : (s.updPci f).images = s.images := rfl
@[simp] theorem State.updPci_nextImage (s : State) (f : Pci → Pci) : (s.updPci f).nextImage = s.nextImage := rfl
@[simp] theorem State.updPci_results (s : State) (f : Pci → Pci) : (s.updPci f).results = s.results := rfl
@[simp] theorem State.updPci_dies (s : State) (f : Pci → Pci) : (s.updPci f).dies = s.dies := rfl
@[simp] theorem State.updPci_clusters (s : State) (f : Pci → Pci) : (s.updPci f).clusters = s.clusters := rfl
@[simp] theorem State.updPci_chans (s : State) (f : Pci → Pci) : (s.updPci f).chans = s.chans := rfl
@[simp] theorem State.updPci_link (s : State) (f : Pci → Pci) : (s.updPci f).link = s.link := rfl
@[simp] theorem State.updPci_ripple (s : State) (f : Pci → Pci) : (s.updPci f).ripple = s.ripple := rfl
@[simp] theorem State.updPci_serial (s : State) (f : Pci → Pci) : (s.updPci f).serial = s.serial := rfl
@[simp] theorem State.updPci_cal (s : State) (f : Pci → Pci) : (s.updPci f).cal = s.cal := rfl
@[simp] theorem State.updPci_out (s : State) (f : Pci → Pci) : (s.updPci f).out = s.out := rfl
@[simp] theorem State.updPci_free (s : State) (f : Pci → Pci) : (s.updPci f).free = s.free := rfl
@[simp] theorem State.updPci_pending (s : State) (f : Pci → Pci) : (s.updPci f).pending = s.pending := rfl

/-! ### `State.updEv` -/

@[simp] theorem State.updEv_tb (s : State) (f : EventUnit → EventUnit) : (s.updEv f).tb = s.tb := rfl
@[simp] theorem State.updEv_model (s : State) (f : EventUnit → EventUnit) : (s.updEv f).model = s.model := rfl
@[simp] theorem State.updEv_boot (s : State) (f : EventUnit → EventUnit) : (s.updEv f).boot = s.boot := rfl
@[simp] theorem State.updEv_otp (s : State) (f : EventUnit → EventUnit) : (s.updEv f).otp = s.otp := rfl
@[simp] theorem State.updEv_ident (s : State) (f : EventUnit → EventUnit) : (s.updEv f).ident = s.ident := rfl
@[simp] theorem State.updEv_pci (s : State) (f : EventUnit → EventUnit) : (s.updEv f).pci = s.pci := rfl
@[simp] theorem State.updEv_ptm (s : State) (f : EventUnit → EventUnit) : (s.updEv f).ptm = s.ptm := rfl
@[simp] theorem State.updEv_diag (s : State) (f : EventUnit → EventUnit) : (s.updEv f).diag = s.diag := rfl
@[simp] theorem State.updEv_latBar (s : State) (f : EventUnit → EventUnit) : (s.updEv f).latBar = s.latBar := rfl
@[simp] theorem State.updEv_latDiag (s : State) (f : EventUnit → EventUnit) : (s.updEv f).latDiag = s.latDiag := rfl
@[simp] theorem State.updEv_frozen (s : State) (f : EventUnit → EventUnit) : (s.updEv f).frozen = s.frozen := rfl
@[simp] theorem State.updEv_inlets (s : State) (f : EventUnit → EventUnit) : (s.updEv f).inlets = s.inlets := rfl
@[simp] theorem State.updEv_outlets (s : State) (f : EventUnit → EventUnit) : (s.updEv f).outlets = s.outlets := rfl
@[simp] theorem State.updEv_evRing (s : State) (f : EventUnit → EventUnit) : (s.updEv f).evRing = s.evRing := rfl
@[simp] theorem State.updEv_ev (s : State) (f : EventUnit → EventUnit) :
    (s.updEv f).ev = f s.ev := rfl
@[simp] theorem State.updEv_tags (s : State) (f : EventUnit → EventUnit) : (s.updEv f).tags = s.tags := rfl
@[simp] theorem State.updEv_works (s : State) (f : EventUnit → EventUnit) : (s.updEv f).works = s.works := rfl
@[simp] theorem State.updEv_weir (s : State) (f : EventUnit → EventUnit) : (s.updEv f).weir = s.weir := rfl
@[simp] theorem State.updEv_bulks (s : State) (f : EventUnit → EventUnit) : (s.updEv f).bulks = s.bulks := rfl
@[simp] theorem State.updEv_dma (s : State) (f : EventUnit → EventUnit) : (s.updEv f).dma = s.dma := rfl
@[simp] theorem State.updEv_runs (s : State) (f : EventUnit → EventUnit) : (s.updEv f).runs = s.runs := rfl
@[simp] theorem State.updEv_groups (s : State) (f : EventUnit → EventUnit) : (s.updEv f).groups = s.groups := rfl
@[simp] theorem State.updEv_images (s : State) (f : EventUnit → EventUnit) : (s.updEv f).images = s.images := rfl
@[simp] theorem State.updEv_nextImage (s : State) (f : EventUnit → EventUnit) :
    (s.updEv f).nextImage = s.nextImage := rfl
@[simp] theorem State.updEv_results (s : State) (f : EventUnit → EventUnit) : (s.updEv f).results = s.results := rfl
@[simp] theorem State.updEv_dies (s : State) (f : EventUnit → EventUnit) : (s.updEv f).dies = s.dies := rfl
@[simp] theorem State.updEv_clusters (s : State) (f : EventUnit → EventUnit) : (s.updEv f).clusters = s.clusters := rfl
@[simp] theorem State.updEv_chans (s : State) (f : EventUnit → EventUnit) : (s.updEv f).chans = s.chans := rfl
@[simp] theorem State.updEv_link (s : State) (f : EventUnit → EventUnit) : (s.updEv f).link = s.link := rfl
@[simp] theorem State.updEv_ripple (s : State) (f : EventUnit → EventUnit) : (s.updEv f).ripple = s.ripple := rfl
@[simp] theorem State.updEv_serial (s : State) (f : EventUnit → EventUnit) : (s.updEv f).serial = s.serial := rfl
@[simp] theorem State.updEv_cal (s : State) (f : EventUnit → EventUnit) : (s.updEv f).cal = s.cal := rfl
@[simp] theorem State.updEv_out (s : State) (f : EventUnit → EventUnit) : (s.updEv f).out = s.out := rfl
@[simp] theorem State.updEv_free (s : State) (f : EventUnit → EventUnit) : (s.updEv f).free = s.free := rfl
@[simp] theorem State.updEv_pending (s : State) (f : EventUnit → EventUnit) : (s.updEv f).pending = s.pending := rfl

/-! ### `State.updBoot` -/

@[simp] theorem State.updBoot_tb (s : State) (f : Boot → Boot) : (s.updBoot f).tb = s.tb := rfl
@[simp] theorem State.updBoot_model (s : State) (f : Boot → Boot) : (s.updBoot f).model = s.model := rfl
@[simp] theorem State.updBoot_boot (s : State) (f : Boot → Boot) :
    (s.updBoot f).boot = f s.boot := rfl
@[simp] theorem State.updBoot_otp (s : State) (f : Boot → Boot) : (s.updBoot f).otp = s.otp := rfl
@[simp] theorem State.updBoot_ident (s : State) (f : Boot → Boot) : (s.updBoot f).ident = s.ident := rfl
@[simp] theorem State.updBoot_pci (s : State) (f : Boot → Boot) : (s.updBoot f).pci = s.pci := rfl
@[simp] theorem State.updBoot_ptm (s : State) (f : Boot → Boot) : (s.updBoot f).ptm = s.ptm := rfl
@[simp] theorem State.updBoot_diag (s : State) (f : Boot → Boot) : (s.updBoot f).diag = s.diag := rfl
@[simp] theorem State.updBoot_latBar (s : State) (f : Boot → Boot) : (s.updBoot f).latBar = s.latBar := rfl
@[simp] theorem State.updBoot_latDiag (s : State) (f : Boot → Boot) : (s.updBoot f).latDiag = s.latDiag := rfl
@[simp] theorem State.updBoot_frozen (s : State) (f : Boot → Boot) : (s.updBoot f).frozen = s.frozen := rfl
@[simp] theorem State.updBoot_inlets (s : State) (f : Boot → Boot) : (s.updBoot f).inlets = s.inlets := rfl
@[simp] theorem State.updBoot_outlets (s : State) (f : Boot → Boot) : (s.updBoot f).outlets = s.outlets := rfl
@[simp] theorem State.updBoot_evRing (s : State) (f : Boot → Boot) : (s.updBoot f).evRing = s.evRing := rfl
@[simp] theorem State.updBoot_ev (s : State) (f : Boot → Boot) : (s.updBoot f).ev = s.ev := rfl
@[simp] theorem State.updBoot_tags (s : State) (f : Boot → Boot) : (s.updBoot f).tags = s.tags := rfl
@[simp] theorem State.updBoot_works (s : State) (f : Boot → Boot) : (s.updBoot f).works = s.works := rfl
@[simp] theorem State.updBoot_weir (s : State) (f : Boot → Boot) : (s.updBoot f).weir = s.weir := rfl
@[simp] theorem State.updBoot_bulks (s : State) (f : Boot → Boot) : (s.updBoot f).bulks = s.bulks := rfl
@[simp] theorem State.updBoot_dma (s : State) (f : Boot → Boot) : (s.updBoot f).dma = s.dma := rfl
@[simp] theorem State.updBoot_runs (s : State) (f : Boot → Boot) : (s.updBoot f).runs = s.runs := rfl
@[simp] theorem State.updBoot_groups (s : State) (f : Boot → Boot) : (s.updBoot f).groups = s.groups := rfl
@[simp] theorem State.updBoot_images (s : State) (f : Boot → Boot) : (s.updBoot f).images = s.images := rfl
@[simp] theorem State.updBoot_nextImage (s : State) (f : Boot → Boot) : (s.updBoot f).nextImage = s.nextImage := rfl
@[simp] theorem State.updBoot_results (s : State) (f : Boot → Boot) : (s.updBoot f).results = s.results := rfl
@[simp] theorem State.updBoot_dies (s : State) (f : Boot → Boot) : (s.updBoot f).dies = s.dies := rfl
@[simp] theorem State.updBoot_clusters (s : State) (f : Boot → Boot) : (s.updBoot f).clusters = s.clusters := rfl
@[simp] theorem State.updBoot_chans (s : State) (f : Boot → Boot) : (s.updBoot f).chans = s.chans := rfl
@[simp] theorem State.updBoot_link (s : State) (f : Boot → Boot) : (s.updBoot f).link = s.link := rfl
@[simp] theorem State.updBoot_ripple (s : State) (f : Boot → Boot) : (s.updBoot f).ripple = s.ripple := rfl
@[simp] theorem State.updBoot_serial (s : State) (f : Boot → Boot) : (s.updBoot f).serial = s.serial := rfl
@[simp] theorem State.updBoot_cal (s : State) (f : Boot → Boot) : (s.updBoot f).cal = s.cal := rfl
@[simp] theorem State.updBoot_out (s : State) (f : Boot → Boot) : (s.updBoot f).out = s.out := rfl
@[simp] theorem State.updBoot_free (s : State) (f : Boot → Boot) : (s.updBoot f).free = s.free := rfl
@[simp] theorem State.updBoot_pending (s : State) (f : Boot → Boot) : (s.updBoot f).pending = s.pending := rfl

/-! ### `State.updSerial` -/

@[simp] theorem State.updSerial_tb (s : State) (f : Serial → Serial) : (s.updSerial f).tb = s.tb := rfl
@[simp] theorem State.updSerial_model (s : State) (f : Serial → Serial) : (s.updSerial f).model = s.model := rfl
@[simp] theorem State.updSerial_boot (s : State) (f : Serial → Serial) : (s.updSerial f).boot = s.boot := rfl
@[simp] theorem State.updSerial_otp (s : State) (f : Serial → Serial) : (s.updSerial f).otp = s.otp := rfl
@[simp] theorem State.updSerial_ident (s : State) (f : Serial → Serial) : (s.updSerial f).ident = s.ident := rfl
@[simp] theorem State.updSerial_pci (s : State) (f : Serial → Serial) : (s.updSerial f).pci = s.pci := rfl
@[simp] theorem State.updSerial_ptm (s : State) (f : Serial → Serial) : (s.updSerial f).ptm = s.ptm := rfl
@[simp] theorem State.updSerial_diag (s : State) (f : Serial → Serial) : (s.updSerial f).diag = s.diag := rfl
@[simp] theorem State.updSerial_latBar (s : State) (f : Serial → Serial) : (s.updSerial f).latBar = s.latBar := rfl
@[simp] theorem State.updSerial_latDiag (s : State) (f : Serial → Serial) : (s.updSerial f).latDiag = s.latDiag := rfl
@[simp] theorem State.updSerial_frozen (s : State) (f : Serial → Serial) : (s.updSerial f).frozen = s.frozen := rfl
@[simp] theorem State.updSerial_inlets (s : State) (f : Serial → Serial) : (s.updSerial f).inlets = s.inlets := rfl
@[simp] theorem State.updSerial_outlets (s : State) (f : Serial → Serial) : (s.updSerial f).outlets = s.outlets := rfl
@[simp] theorem State.updSerial_evRing (s : State) (f : Serial → Serial) : (s.updSerial f).evRing = s.evRing := rfl
@[simp] theorem State.updSerial_ev (s : State) (f : Serial → Serial) : (s.updSerial f).ev = s.ev := rfl
@[simp] theorem State.updSerial_tags (s : State) (f : Serial → Serial) : (s.updSerial f).tags = s.tags := rfl
@[simp] theorem State.updSerial_works (s : State) (f : Serial → Serial) : (s.updSerial f).works = s.works := rfl
@[simp] theorem State.updSerial_weir (s : State) (f : Serial → Serial) : (s.updSerial f).weir = s.weir := rfl
@[simp] theorem State.updSerial_bulks (s : State) (f : Serial → Serial) : (s.updSerial f).bulks = s.bulks := rfl
@[simp] theorem State.updSerial_dma (s : State) (f : Serial → Serial) : (s.updSerial f).dma = s.dma := rfl
@[simp] theorem State.updSerial_runs (s : State) (f : Serial → Serial) : (s.updSerial f).runs = s.runs := rfl
@[simp] theorem State.updSerial_groups (s : State) (f : Serial → Serial) : (s.updSerial f).groups = s.groups := rfl
@[simp] theorem State.updSerial_images (s : State) (f : Serial → Serial) : (s.updSerial f).images = s.images := rfl
@[simp] theorem State.updSerial_nextImage (s : State) (f : Serial → Serial) :
    (s.updSerial f).nextImage = s.nextImage := rfl
@[simp] theorem State.updSerial_results (s : State) (f : Serial → Serial) : (s.updSerial f).results = s.results := rfl
@[simp] theorem State.updSerial_dies (s : State) (f : Serial → Serial) : (s.updSerial f).dies = s.dies := rfl
@[simp] theorem State.updSerial_clusters (s : State) (f : Serial → Serial) :
    (s.updSerial f).clusters = s.clusters := rfl
@[simp] theorem State.updSerial_chans (s : State) (f : Serial → Serial) : (s.updSerial f).chans = s.chans := rfl
@[simp] theorem State.updSerial_link (s : State) (f : Serial → Serial) : (s.updSerial f).link = s.link := rfl
@[simp] theorem State.updSerial_ripple (s : State) (f : Serial → Serial) : (s.updSerial f).ripple = s.ripple := rfl
@[simp] theorem State.updSerial_serial (s : State) (f : Serial → Serial) :
    (s.updSerial f).serial = f s.serial := rfl
@[simp] theorem State.updSerial_cal (s : State) (f : Serial → Serial) : (s.updSerial f).cal = s.cal := rfl
@[simp] theorem State.updSerial_out (s : State) (f : Serial → Serial) : (s.updSerial f).out = s.out := rfl
@[simp] theorem State.updSerial_free (s : State) (f : Serial → Serial) : (s.updSerial f).free = s.free := rfl
@[simp] theorem State.updSerial_pending (s : State) (f : Serial → Serial) : (s.updSerial f).pending = s.pending := rfl

/-! ### `State.updLink` -/

@[simp] theorem State.updLink_tb (s : State) (f : LockLink → LockLink) : (s.updLink f).tb = s.tb := rfl
@[simp] theorem State.updLink_model (s : State) (f : LockLink → LockLink) : (s.updLink f).model = s.model := rfl
@[simp] theorem State.updLink_boot (s : State) (f : LockLink → LockLink) : (s.updLink f).boot = s.boot := rfl
@[simp] theorem State.updLink_otp (s : State) (f : LockLink → LockLink) : (s.updLink f).otp = s.otp := rfl
@[simp] theorem State.updLink_ident (s : State) (f : LockLink → LockLink) : (s.updLink f).ident = s.ident := rfl
@[simp] theorem State.updLink_pci (s : State) (f : LockLink → LockLink) : (s.updLink f).pci = s.pci := rfl
@[simp] theorem State.updLink_ptm (s : State) (f : LockLink → LockLink) : (s.updLink f).ptm = s.ptm := rfl
@[simp] theorem State.updLink_diag (s : State) (f : LockLink → LockLink) : (s.updLink f).diag = s.diag := rfl
@[simp] theorem State.updLink_latBar (s : State) (f : LockLink → LockLink) : (s.updLink f).latBar = s.latBar := rfl
@[simp] theorem State.updLink_latDiag (s : State) (f : LockLink → LockLink) : (s.updLink f).latDiag = s.latDiag := rfl
@[simp] theorem State.updLink_frozen (s : State) (f : LockLink → LockLink) : (s.updLink f).frozen = s.frozen := rfl
@[simp] theorem State.updLink_inlets (s : State) (f : LockLink → LockLink) : (s.updLink f).inlets = s.inlets := rfl
@[simp] theorem State.updLink_outlets (s : State) (f : LockLink → LockLink) : (s.updLink f).outlets = s.outlets := rfl
@[simp] theorem State.updLink_evRing (s : State) (f : LockLink → LockLink) : (s.updLink f).evRing = s.evRing := rfl
@[simp] theorem State.updLink_ev (s : State) (f : LockLink → LockLink) : (s.updLink f).ev = s.ev := rfl
@[simp] theorem State.updLink_tags (s : State) (f : LockLink → LockLink) : (s.updLink f).tags = s.tags := rfl
@[simp] theorem State.updLink_works (s : State) (f : LockLink → LockLink) : (s.updLink f).works = s.works := rfl
@[simp] theorem State.updLink_weir (s : State) (f : LockLink → LockLink) : (s.updLink f).weir = s.weir := rfl
@[simp] theorem State.updLink_bulks (s : State) (f : LockLink → LockLink) : (s.updLink f).bulks = s.bulks := rfl
@[simp] theorem State.updLink_dma (s : State) (f : LockLink → LockLink) : (s.updLink f).dma = s.dma := rfl
@[simp] theorem State.updLink_runs (s : State) (f : LockLink → LockLink) : (s.updLink f).runs = s.runs := rfl
@[simp] theorem State.updLink_groups (s : State) (f : LockLink → LockLink) : (s.updLink f).groups = s.groups := rfl
@[simp] theorem State.updLink_images (s : State) (f : LockLink → LockLink) : (s.updLink f).images = s.images := rfl
@[simp] theorem State.updLink_nextImage (s : State) (f : LockLink → LockLink) :
    (s.updLink f).nextImage = s.nextImage := rfl
@[simp] theorem State.updLink_results (s : State) (f : LockLink → LockLink) : (s.updLink f).results = s.results := rfl
@[simp] theorem State.updLink_dies (s : State) (f : LockLink → LockLink) : (s.updLink f).dies = s.dies := rfl
@[simp] theorem State.updLink_clusters (s : State) (f : LockLink → LockLink) :
    (s.updLink f).clusters = s.clusters := rfl
@[simp] theorem State.updLink_chans (s : State) (f : LockLink → LockLink) : (s.updLink f).chans = s.chans := rfl
@[simp] theorem State.updLink_link (s : State) (f : LockLink → LockLink) :
    (s.updLink f).link = f s.link := rfl
@[simp] theorem State.updLink_ripple (s : State) (f : LockLink → LockLink) : (s.updLink f).ripple = s.ripple := rfl
@[simp] theorem State.updLink_serial (s : State) (f : LockLink → LockLink) : (s.updLink f).serial = s.serial := rfl
@[simp] theorem State.updLink_cal (s : State) (f : LockLink → LockLink) : (s.updLink f).cal = s.cal := rfl
@[simp] theorem State.updLink_out (s : State) (f : LockLink → LockLink) : (s.updLink f).out = s.out := rfl
@[simp] theorem State.updLink_free (s : State) (f : LockLink → LockLink) : (s.updLink f).free = s.free := rfl
@[simp] theorem State.updLink_pending (s : State) (f : LockLink → LockLink) : (s.updLink f).pending = s.pending := rfl

/-! ### `State.updOut` -/

@[simp] theorem State.updOut_tb (s : State) (f : Outputs → Outputs) : (s.updOut f).tb = s.tb := rfl
@[simp] theorem State.updOut_model (s : State) (f : Outputs → Outputs) : (s.updOut f).model = s.model := rfl
@[simp] theorem State.updOut_boot (s : State) (f : Outputs → Outputs) : (s.updOut f).boot = s.boot := rfl
@[simp] theorem State.updOut_otp (s : State) (f : Outputs → Outputs) : (s.updOut f).otp = s.otp := rfl
@[simp] theorem State.updOut_ident (s : State) (f : Outputs → Outputs) : (s.updOut f).ident = s.ident := rfl
@[simp] theorem State.updOut_pci (s : State) (f : Outputs → Outputs) : (s.updOut f).pci = s.pci := rfl
@[simp] theorem State.updOut_ptm (s : State) (f : Outputs → Outputs) : (s.updOut f).ptm = s.ptm := rfl
@[simp] theorem State.updOut_diag (s : State) (f : Outputs → Outputs) : (s.updOut f).diag = s.diag := rfl
@[simp] theorem State.updOut_latBar (s : State) (f : Outputs → Outputs) : (s.updOut f).latBar = s.latBar := rfl
@[simp] theorem State.updOut_latDiag (s : State) (f : Outputs → Outputs) : (s.updOut f).latDiag = s.latDiag := rfl
@[simp] theorem State.updOut_frozen (s : State) (f : Outputs → Outputs) : (s.updOut f).frozen = s.frozen := rfl
@[simp] theorem State.updOut_inlets (s : State) (f : Outputs → Outputs) : (s.updOut f).inlets = s.inlets := rfl
@[simp] theorem State.updOut_outlets (s : State) (f : Outputs → Outputs) : (s.updOut f).outlets = s.outlets := rfl
@[simp] theorem State.updOut_evRing (s : State) (f : Outputs → Outputs) : (s.updOut f).evRing = s.evRing := rfl
@[simp] theorem State.updOut_ev (s : State) (f : Outputs → Outputs) : (s.updOut f).ev = s.ev := rfl
@[simp] theorem State.updOut_tags (s : State) (f : Outputs → Outputs) : (s.updOut f).tags = s.tags := rfl
@[simp] theorem State.updOut_works (s : State) (f : Outputs → Outputs) : (s.updOut f).works = s.works := rfl
@[simp] theorem State.updOut_weir (s : State) (f : Outputs → Outputs) : (s.updOut f).weir = s.weir := rfl
@[simp] theorem State.updOut_bulks (s : State) (f : Outputs → Outputs) : (s.updOut f).bulks = s.bulks := rfl
@[simp] theorem State.updOut_dma (s : State) (f : Outputs → Outputs) : (s.updOut f).dma = s.dma := rfl
@[simp] theorem State.updOut_runs (s : State) (f : Outputs → Outputs) : (s.updOut f).runs = s.runs := rfl
@[simp] theorem State.updOut_groups (s : State) (f : Outputs → Outputs) : (s.updOut f).groups = s.groups := rfl
@[simp] theorem State.updOut_images (s : State) (f : Outputs → Outputs) : (s.updOut f).images = s.images := rfl
@[simp] theorem State.updOut_nextImage (s : State) (f : Outputs → Outputs) : (s.updOut f).nextImage = s.nextImage := rfl
@[simp] theorem State.updOut_results (s : State) (f : Outputs → Outputs) : (s.updOut f).results = s.results := rfl
@[simp] theorem State.updOut_dies (s : State) (f : Outputs → Outputs) : (s.updOut f).dies = s.dies := rfl
@[simp] theorem State.updOut_clusters (s : State) (f : Outputs → Outputs) : (s.updOut f).clusters = s.clusters := rfl
@[simp] theorem State.updOut_chans (s : State) (f : Outputs → Outputs) : (s.updOut f).chans = s.chans := rfl
@[simp] theorem State.updOut_link (s : State) (f : Outputs → Outputs) : (s.updOut f).link = s.link := rfl
@[simp] theorem State.updOut_ripple (s : State) (f : Outputs → Outputs) : (s.updOut f).ripple = s.ripple := rfl
@[simp] theorem State.updOut_serial (s : State) (f : Outputs → Outputs) : (s.updOut f).serial = s.serial := rfl
@[simp] theorem State.updOut_cal (s : State) (f : Outputs → Outputs) : (s.updOut f).cal = s.cal := rfl
@[simp] theorem State.updOut_out (s : State) (f : Outputs → Outputs) :
    (s.updOut f).out = f s.out := rfl
@[simp] theorem State.updOut_free (s : State) (f : Outputs → Outputs) : (s.updOut f).free = s.free := rfl
@[simp] theorem State.updOut_pending (s : State) (f : Outputs → Outputs) : (s.updOut f).pending = s.pending := rfl

/-! ### Updates of one unit of a cluster or die -/

@[simp] theorem State.updSeq_eq (s : State) (k : Nat) (f : Seq → Seq) :
    s.updSeq k f = s.updCluster k fun c => { c with seq := f c.seq } := rfl
@[simp] theorem State.updTrig_eq (s : State) (k : Nat) (f : Trig → Trig) :
    s.updTrig k f = s.updCluster k fun c => { c with trig := f c.trig } := rfl
@[simp] theorem State.updRed_eq (s : State) (k : Nat) (f : Red → Red) :
    s.updRed k f = s.updCluster k fun c => { c with red := f c.red } := rfl
@[simp] theorem State.updDram_eq (s : State) (d : Nat) (f : Dram → Dram) :
    s.updDram d f = s.updDie d fun x => { x with dram := f x.dram } := rfl
@[simp] theorem State.updThm_eq (s : State) (d : Nat) (f : Thermal → Thermal) :
    s.updThm d f = s.updDie d fun x => { x with thm := f x.thm } := rfl
@[simp] theorem State.updRps_eq (s : State) (d : Nat) (f : Rps → Rps) :
    s.updRps d f = s.updDie d fun x => { x with rps := f x.rps } := rfl
@[simp] theorem State.updPll_eq (s : State) (d : Nat) (f : Pll → Pll) :
    s.updPll d f = s.updDie d fun x => { x with pll := f x.pll } := rfl
@[simp] theorem State.updCap_eq (s : State) (k i : Nat) (f : Cap → Cap) :
    s.updCap k i f = s.updCluster k fun c => { c with caps := c.caps.modify i f } := rfl

/-! ### Reading a part after a change of a part -/

/-- Reading an entry of a bank after a change of one entry. -/
theorem getD_modify {α : Type} (xs : List α) (n m : Nat) (f : α → α) (d : α) :
    (xs.modify n f).getD m d = if n = m ∧ m < xs.length then f (xs.getD m d) else xs.getD m d := by
  simp only [List.getD_eq_getElem?_getD, List.getElem?_modify]
  by_cases h : n = m
  · subst h
    by_cases hl : n < xs.length
    · simp [hl]
    · simp [hl]
  · simp [h]

theorem State.chan_updChan (s : State) (n m : Nat) (f : Chan → Chan) :
    (s.updChan n f).chan m = if n = m ∧ m < s.chans.length then f (s.chan m) else s.chan m :=
  getD_modify _ _ _ _ _

theorem State.cluster_updCluster (s : State) (k m : Nat) (f : Cluster → Cluster) :
    (s.updCluster k f).cluster m = if k = m ∧ m < s.clusters.length then f (s.cluster m) else s.cluster m :=
  getD_modify _ _ _ _ _

theorem State.die_updDie (s : State) (d m : Nat) (f : Die → Die) :
    (s.updDie d f).die m = if d = m ∧ m < s.dies.length then f (s.die m) else s.die m :=
  getD_modify _ _ _ _ _

theorem State.group_updGroup (s : State) (g m : Nat) (f : Group → Group) :
    (s.updGroup g f).group m = if g = m ∧ m < s.groups.length then f (s.group m) else s.group m :=
  getD_modify _ _ _ _ _

theorem State.inlet_updInlet (s : State) (i m : Nat) (f : Inlet → Inlet) :
    (s.updInlet i f).inlet m = if i = m ∧ m < s.inlets.length then f (s.inlet m) else s.inlet m :=
  getD_modify _ _ _ _ _

theorem State.outlet_updOutlet (s : State) (o m : Nat) (f : Ring → Ring) :
    (s.updOutlet o f).outlet m = if o = m ∧ m < s.outlets.length then f (s.outlet m) else s.outlet m :=
  getD_modify _ _ _ _ _

@[simp] theorem State.updChan_cluster (s : State) (n : Nat) (f : Chan → Chan) (m : Nat) :
    (s.updChan n f).cluster m = s.cluster m := rfl
@[simp] theorem State.updChan_die (s : State) (n : Nat) (f : Chan → Chan) (m : Nat) :
    (s.updChan n f).die m = s.die m := rfl
@[simp] theorem State.updChan_group (s : State) (n : Nat) (f : Chan → Chan) (m : Nat) :
    (s.updChan n f).group m = s.group m := rfl
@[simp] theorem State.updChan_inlet (s : State) (n : Nat) (f : Chan → Chan) (m : Nat) :
    (s.updChan n f).inlet m = s.inlet m := rfl
@[simp] theorem State.updChan_outlet (s : State) (n : Nat) (f : Chan → Chan) (m : Nat) :
    (s.updChan n f).outlet m = s.outlet m := rfl
@[simp] theorem State.updChan_seq (s : State) (n : Nat) (f : Chan → Chan) (m : Nat) :
    (s.updChan n f).seq m = s.seq m := rfl
@[simp] theorem State.updChan_trig (s : State) (n : Nat) (f : Chan → Chan) (m : Nat) :
    (s.updChan n f).trig m = s.trig m := rfl
@[simp] theorem State.updChan_red (s : State) (n : Nat) (f : Chan → Chan) (m : Nat) :
    (s.updChan n f).red m = s.red m := rfl
@[simp] theorem State.updChans_cluster (s : State) (p : Nat → Chan → Bool) (f : Nat → Chan → Chan) (m : Nat) :
    (s.updChans p f).cluster m = s.cluster m := rfl
@[simp] theorem State.updChans_die (s : State) (p : Nat → Chan → Bool) (f : Nat → Chan → Chan) (m : Nat) :
    (s.updChans p f).die m = s.die m := rfl
@[simp] theorem State.updChans_group (s : State) (p : Nat → Chan → Bool) (f : Nat → Chan → Chan) (m : Nat) :
    (s.updChans p f).group m = s.group m := rfl
@[simp] theorem State.updChans_inlet (s : State) (p : Nat → Chan → Bool) (f : Nat → Chan → Chan) (m : Nat) :
    (s.updChans p f).inlet m = s.inlet m := rfl
@[simp] theorem State.updChans_outlet (s : State) (p : Nat → Chan → Bool) (f : Nat → Chan → Chan) (m : Nat) :
    (s.updChans p f).outlet m = s.outlet m := rfl
@[simp] theorem State.updChans_seq (s : State) (p : Nat → Chan → Bool) (f : Nat → Chan → Chan) (m : Nat) :
    (s.updChans p f).seq m = s.seq m := rfl
@[simp] theorem State.updChans_trig (s : State) (p : Nat → Chan → Bool) (f : Nat → Chan → Chan) (m : Nat) :
    (s.updChans p f).trig m = s.trig m := rfl
@[simp] theorem State.updChans_red (s : State) (p : Nat → Chan → Bool) (f : Nat → Chan → Chan) (m : Nat) :
    (s.updChans p f).red m = s.red m := rfl
@[simp] theorem State.updCluster_chan (s : State) (k : Nat) (f : Cluster → Cluster) (m : Nat) :
    (s.updCluster k f).chan m = s.chan m := rfl
@[simp] theorem State.updCluster_die (s : State) (k : Nat) (f : Cluster → Cluster) (m : Nat) :
    (s.updCluster k f).die m = s.die m := rfl
@[simp] theorem State.updCluster_group (s : State) (k : Nat) (f : Cluster → Cluster) (m : Nat) :
    (s.updCluster k f).group m = s.group m := rfl
@[simp] theorem State.updCluster_inlet (s : State) (k : Nat) (f : Cluster → Cluster) (m : Nat) :
    (s.updCluster k f).inlet m = s.inlet m := rfl
@[simp] theorem State.updCluster_outlet (s : State) (k : Nat) (f : Cluster → Cluster) (m : Nat) :
    (s.updCluster k f).outlet m = s.outlet m := rfl
@[simp] theorem State.updClusters_chan (s : State) (p : Nat → Cluster → Bool) (f : Nat → Cluster → Cluster) (m : Nat) :
    (s.updClusters p f).chan m = s.chan m := rfl
@[simp] theorem State.updClusters_die (s : State) (p : Nat → Cluster → Bool) (f : Nat → Cluster → Cluster) (m : Nat) :
    (s.updClusters p f).die m = s.die m := rfl
@[simp] theorem State.updClusters_group (s : State) (p : Nat → Cluster → Bool) (f : Nat → Cluster → Cluster) (m : Nat) :
    (s.updClusters p f).group m = s.group m := rfl
@[simp] theorem State.updClusters_inlet (s : State) (p : Nat → Cluster → Bool) (f : Nat → Cluster → Cluster) (m : Nat) :
    (s.updClusters p f).inlet m = s.inlet m := rfl
@[simp] theorem State.updClusters_outlet (s : State) (p : Nat → Cluster → Bool) (f : Nat → Cluster → Cluster) (m : Nat) :
    (s.updClusters p f).outlet m = s.outlet m := rfl
@[simp] theorem State.updDie_chan (s : State) (d : Nat) (f : Die → Die) (m : Nat) :
    (s.updDie d f).chan m = s.chan m := rfl
@[simp] theorem State.updDie_cluster (s : State) (d : Nat) (f : Die → Die) (m : Nat) :
    (s.updDie d f).cluster m = s.cluster m := rfl
@[simp] theorem State.updDie_group (s : State) (d : Nat) (f : Die → Die) (m : Nat) :
    (s.updDie d f).group m = s.group m := rfl
@[simp] theorem State.updDie_inlet (s : State) (d : Nat) (f : Die → Die) (m : Nat) :
    (s.updDie d f).inlet m = s.inlet m := rfl
@[simp] theorem State.updDie_outlet (s : State) (d : Nat) (f : Die → Die) (m : Nat) :
    (s.updDie d f).outlet m = s.outlet m := rfl
@[simp] theorem State.updDie_seq (s : State) (d : Nat) (f : Die → Die) (m : Nat) : (s.updDie d f).seq m = s.seq m := rfl
@[simp] theorem State.updDie_trig (s : State) (d : Nat) (f : Die → Die) (m : Nat) :
    (s.updDie d f).trig m = s.trig m := rfl
@[simp] theorem State.updDie_red (s : State) (d : Nat) (f : Die → Die) (m : Nat) : (s.updDie d f).red m = s.red m := rfl
@[simp] theorem State.updGroup_chan (s : State) (g : Nat) (f : Group → Group) (m : Nat) :
    (s.updGroup g f).chan m = s.chan m := rfl
@[simp] theorem State.updGroup_cluster (s : State) (g : Nat) (f : Group → Group) (m : Nat) :
    (s.updGroup g f).cluster m = s.cluster m := rfl
@[simp] theorem State.updGroup_die (s : State) (g : Nat) (f : Group → Group) (m : Nat) :
    (s.updGroup g f).die m = s.die m := rfl
@[simp] theorem State.updGroup_inlet (s : State) (g : Nat) (f : Group → Group) (m : Nat) :
    (s.updGroup g f).inlet m = s.inlet m := rfl
@[simp] theorem State.updGroup_outlet (s : State) (g : Nat) (f : Group → Group) (m : Nat) :
    (s.updGroup g f).outlet m = s.outlet m := rfl
@[simp] theorem State.updGroup_seq (s : State) (g : Nat) (f : Group → Group) (m : Nat) :
    (s.updGroup g f).seq m = s.seq m := rfl
@[simp] theorem State.updGroup_trig (s : State) (g : Nat) (f : Group → Group) (m : Nat) :
    (s.updGroup g f).trig m = s.trig m := rfl
@[simp] theorem State.updGroup_red (s : State) (g : Nat) (f : Group → Group) (m : Nat) :
    (s.updGroup g f).red m = s.red m := rfl
@[simp] theorem State.updInlet_chan (s : State) (i : Nat) (f : Inlet → Inlet) (m : Nat) :
    (s.updInlet i f).chan m = s.chan m := rfl
@[simp] theorem State.updInlet_cluster (s : State) (i : Nat) (f : Inlet → Inlet) (m : Nat) :
    (s.updInlet i f).cluster m = s.cluster m := rfl
@[simp] theorem State.updInlet_die (s : State) (i : Nat) (f : Inlet → Inlet) (m : Nat) :
    (s.updInlet i f).die m = s.die m := rfl
@[simp] theorem State.updInlet_group (s : State) (i : Nat) (f : Inlet → Inlet) (m : Nat) :
    (s.updInlet i f).group m = s.group m := rfl
@[simp] theorem State.updInlet_outlet (s : State) (i : Nat) (f : Inlet → Inlet) (m : Nat) :
    (s.updInlet i f).outlet m = s.outlet m := rfl
@[simp] theorem State.updInlet_seq (s : State) (i : Nat) (f : Inlet → Inlet) (m : Nat) :
    (s.updInlet i f).seq m = s.seq m := rfl
@[simp] theorem State.updInlet_trig (s : State) (i : Nat) (f : Inlet → Inlet) (m : Nat) :
    (s.updInlet i f).trig m = s.trig m := rfl
@[simp] theorem State.updInlet_red (s : State) (i : Nat) (f : Inlet → Inlet) (m : Nat) :
    (s.updInlet i f).red m = s.red m := rfl
@[simp] theorem State.updOutlet_chan (s : State) (o : Nat) (f : Ring → Ring) (m : Nat) :
    (s.updOutlet o f).chan m = s.chan m := rfl
@[simp] theorem State.updOutlet_cluster (s : State) (o : Nat) (f : Ring → Ring) (m : Nat) :
    (s.updOutlet o f).cluster m = s.cluster m := rfl
@[simp] theorem State.updOutlet_die (s : State) (o : Nat) (f : Ring → Ring) (m : Nat) :
    (s.updOutlet o f).die m = s.die m := rfl
@[simp] theorem State.updOutlet_group (s : State) (o : Nat) (f : Ring → Ring) (m : Nat) :
    (s.updOutlet o f).group m = s.group m := rfl
@[simp] theorem State.updOutlet_inlet (s : State) (o : Nat) (f : Ring → Ring) (m : Nat) :
    (s.updOutlet o f).inlet m = s.inlet m := rfl
@[simp] theorem State.updOutlet_seq (s : State) (o : Nat) (f : Ring → Ring) (m : Nat) :
    (s.updOutlet o f).seq m = s.seq m := rfl
@[simp] theorem State.updOutlet_trig (s : State) (o : Nat) (f : Ring → Ring) (m : Nat) :
    (s.updOutlet o f).trig m = s.trig m := rfl
@[simp] theorem State.updOutlet_red (s : State) (o : Nat) (f : Ring → Ring) (m : Nat) :
    (s.updOutlet o f).red m = s.red m := rfl
@[simp] theorem State.updPci_chan (s : State) (f : Pci → Pci) (m : Nat) : (s.updPci f).chan m = s.chan m := rfl
@[simp] theorem State.updPci_cluster (s : State) (f : Pci → Pci) (m : Nat) : (s.updPci f).cluster m = s.cluster m := rfl
@[simp] theorem State.updPci_die (s : State) (f : Pci → Pci) (m : Nat) : (s.updPci f).die m = s.die m := rfl
@[simp] theorem State.updPci_group (s : State) (f : Pci → Pci) (m : Nat) : (s.updPci f).group m = s.group m := rfl
@[simp] theorem State.updPci_inlet (s : State) (f : Pci → Pci) (m : Nat) : (s.updPci f).inlet m = s.inlet m := rfl
@[simp] theorem State.updPci_outlet (s : State) (f : Pci → Pci) (m : Nat) : (s.updPci f).outlet m = s.outlet m := rfl
@[simp] theorem State.updPci_seq (s : State) (f : Pci → Pci) (m : Nat) : (s.updPci f).seq m = s.seq m := rfl
@[simp] theorem State.updPci_trig (s : State) (f : Pci → Pci) (m : Nat) : (s.updPci f).trig m = s.trig m := rfl
@[simp] theorem State.updPci_red (s : State) (f : Pci → Pci) (m : Nat) : (s.updPci f).red m = s.red m := rfl
@[simp] theorem State.updEv_chan (s : State) (f : EventUnit → EventUnit) (m : Nat) :
    (s.updEv f).chan m = s.chan m := rfl
@[simp] theorem State.updEv_cluster (s : State) (f : EventUnit → EventUnit) (m : Nat) :
    (s.updEv f).cluster m = s.cluster m := rfl
@[simp] theorem State.updEv_die (s : State) (f : EventUnit → EventUnit) (m : Nat) : (s.updEv f).die m = s.die m := rfl
@[simp] theorem State.updEv_group (s : State) (f : EventUnit → EventUnit) (m : Nat) :
    (s.updEv f).group m = s.group m := rfl
@[simp] theorem State.updEv_inlet (s : State) (f : EventUnit → EventUnit) (m : Nat) :
    (s.updEv f).inlet m = s.inlet m := rfl
@[simp] theorem State.updEv_outlet (s : State) (f : EventUnit → EventUnit) (m : Nat) :
    (s.updEv f).outlet m = s.outlet m := rfl
@[simp] theorem State.updEv_seq (s : State) (f : EventUnit → EventUnit) (m : Nat) : (s.updEv f).seq m = s.seq m := rfl
@[simp] theorem State.updEv_trig (s : State) (f : EventUnit → EventUnit) (m : Nat) :
    (s.updEv f).trig m = s.trig m := rfl
@[simp] theorem State.updEv_red (s : State) (f : EventUnit → EventUnit) (m : Nat) : (s.updEv f).red m = s.red m := rfl
@[simp] theorem State.updBoot_chan (s : State) (f : Boot → Boot) (m : Nat) : (s.updBoot f).chan m = s.chan m := rfl
@[simp] theorem State.updBoot_cluster (s : State) (f : Boot → Boot) (m : Nat) :
    (s.updBoot f).cluster m = s.cluster m := rfl
@[simp] theorem State.updBoot_die (s : State) (f : Boot → Boot) (m : Nat) : (s.updBoot f).die m = s.die m := rfl
@[simp] theorem State.updBoot_group (s : State) (f : Boot → Boot) (m : Nat) : (s.updBoot f).group m = s.group m := rfl
@[simp] theorem State.updBoot_inlet (s : State) (f : Boot → Boot) (m : Nat) : (s.updBoot f).inlet m = s.inlet m := rfl
@[simp] theorem State.updBoot_outlet (s : State) (f : Boot → Boot) (m : Nat) :
    (s.updBoot f).outlet m = s.outlet m := rfl
@[simp] theorem State.updBoot_seq (s : State) (f : Boot → Boot) (m : Nat) : (s.updBoot f).seq m = s.seq m := rfl
@[simp] theorem State.updBoot_trig (s : State) (f : Boot → Boot) (m : Nat) : (s.updBoot f).trig m = s.trig m := rfl
@[simp] theorem State.updBoot_red (s : State) (f : Boot → Boot) (m : Nat) : (s.updBoot f).red m = s.red m := rfl
@[simp] theorem State.updSerial_chan (s : State) (f : Serial → Serial) (m : Nat) :
    (s.updSerial f).chan m = s.chan m := rfl
@[simp] theorem State.updSerial_cluster (s : State) (f : Serial → Serial) (m : Nat) :
    (s.updSerial f).cluster m = s.cluster m := rfl
@[simp] theorem State.updSerial_die (s : State) (f : Serial → Serial) (m : Nat) : (s.updSerial f).die m = s.die m := rfl
@[simp] theorem State.updSerial_group (s : State) (f : Serial → Serial) (m : Nat) :
    (s.updSerial f).group m = s.group m := rfl
@[simp] theorem State.updSerial_inlet (s : State) (f : Serial → Serial) (m : Nat) :
    (s.updSerial f).inlet m = s.inlet m := rfl
@[simp] theorem State.updSerial_outlet (s : State) (f : Serial → Serial) (m : Nat) :
    (s.updSerial f).outlet m = s.outlet m := rfl
@[simp] theorem State.updSerial_seq (s : State) (f : Serial → Serial) (m : Nat) : (s.updSerial f).seq m = s.seq m := rfl
@[simp] theorem State.updSerial_trig (s : State) (f : Serial → Serial) (m : Nat) :
    (s.updSerial f).trig m = s.trig m := rfl
@[simp] theorem State.updSerial_red (s : State) (f : Serial → Serial) (m : Nat) : (s.updSerial f).red m = s.red m := rfl
@[simp] theorem State.updLink_chan (s : State) (f : LockLink → LockLink) (m : Nat) :
    (s.updLink f).chan m = s.chan m := rfl
@[simp] theorem State.updLink_cluster (s : State) (f : LockLink → LockLink) (m : Nat) :
    (s.updLink f).cluster m = s.cluster m := rfl
@[simp] theorem State.updLink_die (s : State) (f : LockLink → LockLink) (m : Nat) : (s.updLink f).die m = s.die m := rfl
@[simp] theorem State.updLink_group (s : State) (f : LockLink → LockLink) (m : Nat) :
    (s.updLink f).group m = s.group m := rfl
@[simp] theorem State.updLink_inlet (s : State) (f : LockLink → LockLink) (m : Nat) :
    (s.updLink f).inlet m = s.inlet m := rfl
@[simp] theorem State.updLink_outlet (s : State) (f : LockLink → LockLink) (m : Nat) :
    (s.updLink f).outlet m = s.outlet m := rfl
@[simp] theorem State.updLink_seq (s : State) (f : LockLink → LockLink) (m : Nat) : (s.updLink f).seq m = s.seq m := rfl
@[simp] theorem State.updLink_trig (s : State) (f : LockLink → LockLink) (m : Nat) :
    (s.updLink f).trig m = s.trig m := rfl
@[simp] theorem State.updLink_red (s : State) (f : LockLink → LockLink) (m : Nat) : (s.updLink f).red m = s.red m := rfl
@[simp] theorem State.updOut_chan (s : State) (f : Outputs → Outputs) (m : Nat) : (s.updOut f).chan m = s.chan m := rfl
@[simp] theorem State.updOut_cluster (s : State) (f : Outputs → Outputs) (m : Nat) :
    (s.updOut f).cluster m = s.cluster m := rfl
@[simp] theorem State.updOut_die (s : State) (f : Outputs → Outputs) (m : Nat) : (s.updOut f).die m = s.die m := rfl
@[simp] theorem State.updOut_group (s : State) (f : Outputs → Outputs) (m : Nat) :
    (s.updOut f).group m = s.group m := rfl
@[simp] theorem State.updOut_inlet (s : State) (f : Outputs → Outputs) (m : Nat) :
    (s.updOut f).inlet m = s.inlet m := rfl
@[simp] theorem State.updOut_outlet (s : State) (f : Outputs → Outputs) (m : Nat) :
    (s.updOut f).outlet m = s.outlet m := rfl
@[simp] theorem State.updOut_seq (s : State) (f : Outputs → Outputs) (m : Nat) : (s.updOut f).seq m = s.seq m := rfl
@[simp] theorem State.updOut_trig (s : State) (f : Outputs → Outputs) (m : Nat) : (s.updOut f).trig m = s.trig m := rfl
@[simp] theorem State.updOut_red (s : State) (f : Outputs → Outputs) (m : Nat) : (s.updOut f).red m = s.red m := rfl

end Sys2Proof.Machine
end

