-- ==== Sys2Proof/Laws/Ops.lean ====
section
/-! SUPPORT. What the shared operations change and what they leave: time, replies, tags, accepted work, and the way of a
mailbox command up to its effect. -/

namespace Sys2Proof.Machine

/-! ### Time -/

/-- TB never falls (R83). -/
theorem State.at_tb_le (s : State) (t : Tb) : s.tb ≤ (s.at t).tb := by
  unfold State.at
  split
  · exact Nat.le_max_left _ _
  · exact Nat.le_refl _

/-! ### Replies touch nothing but what `mute` leaves out -/

theorem map_modify_same {α β : Type} (g : α → β) (f : α → α) (h : ∀ a, g (f a) = g a) (xs : List α) (n : Nat) :
    (xs.modify n f).map g = xs.map g := by
  apply List.ext_getElem?
  intro i
  simp only [List.getElem?_map, List.getElem?_modify]
  cases xs[i]? with
  | none => rfl
  | some a => by_cases hi : n = i <;> simp [hi, h]

theorem State.mute_updOutlet (s : State) (o : Nat) (f : Ring → Ring) (h : ∀ r, (f r).mute = r.mute) :
    (s.updOutlet o f).mute = s.mute := by
  simp only [State.mute, State.updOutlet, map_modify_same Ring.mute f h]

@[simp] theorem State.mute_sendMsi (s : State) (v : Nat) : (s.sendMsi v).mute = s.mute := by
  unfold State.sendMsi; split <;> rfl

@[simp] theorem State.mute_hostWrite (s : State) (a : Nat) (bs : List Byte) : (s.hostWrite a bs).mute = s.mute := rfl

@[simp] theorem State.mute_signalOutlet (s : State) (o : Nat) : (s.signalOutlet o).mute = s.mute := by
  unfold State.signalOutlet
  simp only
  split
  · rw [State.mute_sendMsi]
    exact State.mute_updOutlet (s.hostWrite _ _) o _ fun _ => rfl
  · exact State.mute_updOutlet (s.hostWrite _ _) o _ fun _ => rfl

@[simp] theorem State.mute_freeTag (s : State) (tag : BitVec 12) : (s.freeTag tag).mute = s.mute := rfl

@[simp] theorem State.bulks_freeTag (s : State) (tag : BitVec 12) :
    (s.freeTag tag).bulks = s.bulks.filter fun b => b.tag != tag := rfl

@[simp] theorem State.mute_useTag (s : State) (tag : BitVec 12) (n : Nat) : (s.useTag tag n).mute = s.mute := rfl

theorem State.mute_misc_held (s : State) : (s.misc .held).mute = s.mute := by
  unfold State.misc; rw [State.mute_sendMsi]; rfl

@[simp] theorem State.mute_writeReply (s : State) (o : Nat) (r : Reply) (last : Bool) :
    (s.writeReply o r last).mute = s.mute := by
  unfold State.writeReply
  simp only [State.mute_signalOutlet]
  have h : ∀ u : State, ((u.updOutlet o fun x => { x with index := x.index + 1 }).updPci
      fun p => { p with intOutlet := setBit p.intOutlet o }).mute = u.mute := fun u => by
    exact State.mute_updOutlet u o _ fun _ => rfl
  split
  · rw [State.mute_freeTag, h, State.mute_hostWrite]
  · rw [h, State.mute_hostWrite]

@[simp] theorem State.mute_post (s : State) (o : Nat) (r : Reply) (last : Bool) (cause : Nat) (g : Option Nat)
    (m : BitVec 8) : (s.post o r last cause g m).mute = s.mute := by
  unfold State.post
  simp only
  split
  · exact State.mute_writeReply ..
  · rw [State.mute_misc_held]; exact State.mute_updOutlet _ _ _ fun _ => rfl

@[simp] theorem State.mute_postDone (n : Nat) (s : State) (kept rest : List Work) :
    (State.postDone n s kept rest).mute = s.mute := by
  induction n generalizing s kept rest with
  | zero => rfl
  | succ n ih =>
    cases rest with
    | nil => rfl
    | cons w ws =>
      unfold State.postDone
      split
      · split
        · exact ih ..
        · rw [ih, State.mute_post]
      · exact ih ..

@[simp] theorem State.mute_settle (s : State) : s.settle.mute = s.mute := State.mute_postDone ..

@[simp] theorem State.mute_updWork (s : State) (tag : BitVec 12) (f : Work → Work) :
    (s.updWork tag f).mute = s.mute := rfl

theorem State.mute_updInlet_slot (s : State) (i : Nat) (g : Inlet → Option Fetched) :
    (s.updInlet i fun x => { x with slot := g x }).mute = s.mute := by
  have e := map_modify_same (fun x : Inlet => { x with slot := none }) (fun x => { x with slot := g x })
    (fun _ => rfl) s.inlets i
  unfold State.mute State.updInlet
  simp only
  rw [e]

@[simp] theorem State.mute_unfence (s : State) (i : Nat) : (s.unfence i).mute = s.mute := by
  unfold State.unfence
  split
  · rfl
  · exact State.mute_updInlet_slot s i _

@[simp] theorem State.mute_finishAt (s : State) (tag : BitVec 12) (st : Status) (e : Nat) (r : BitVec 128) (c : Nat)
    (tb : Tb) : (s.finishAt tag st e r c tb).mute = s.mute := by
  unfold State.finishAt
  split
  · rfl
  · simp only
    split
    · rfl
    · simp only [State.mute_unfence, State.mute_settle, State.mute_updWork]

@[simp] theorem State.mute_finish (s : State) (tag : BitVec 12) (st : Status) (e : Nat) (r : BitVec 128) (c : Nat) :
    (s.finish tag st e r c).mute = s.mute := State.mute_finishAt ..

@[simp] theorem State.mute_single (s : State) (d : Desc) (own : Bool) (st : Status) (e : Nat) (r : BitVec 128) :
    (s.single d own st e r).mute = s.mute := State.mute_post ..

@[simp] theorem State.mute_reply0 (s : State) (d : Desc) (a : Answer) : (s.reply0 d a).mute = s.mute := by
  unfold State.reply0; split
  · rfl
  · exact State.mute_single ..

@[simp] theorem State.mute_countRefusal (s : State) (i : Nat) (st : Status) :
    (s.countRefusal i st).2.mute = s.mute := by
  unfold State.countRefusal; split <;> rfl

@[simp] theorem State.mute_refuse (s : State) (d : Desc) (r : Refuse) : (s.refuse d r).mute = s.mute := by
  unfold State.refuse; simp only [State.mute_post, State.mute_countRefusal]

@[simp] theorem State.mute_accept (s : State) (d : Desc) (g : Option Nat) (dies : BitVec 8) (k : WorkKind)
    (start promise arm : Tb) : (s.accept d g dies k start promise arm).mute = s.mute := by
  have h : ∀ (u : State) (ws : List Work), ({ u with works := ws } : State).mute = u.mute := fun _ _ => rfl
  unfold State.accept
  simp only [h, State.mute_post]
  rfl

/-! ### A reply that gives back no tag leaves the transfers -/

@[simp] theorem State.bulks_sendMsi (s : State) (v : Nat) : (s.sendMsi v).bulks = s.bulks := by
  unfold State.sendMsi; split <;> rfl

@[simp] theorem State.bulks_signalOutlet (s : State) (o : Nat) : (s.signalOutlet o).bulks = s.bulks := by
  unfold State.signalOutlet; simp only; split
  · rw [State.bulks_sendMsi]; rfl
  · rfl

/-- A reply leaves the transfers, but for those of a tag that it gives back (R209). -/
theorem State.bulks_post (s : State) (o : Nat) (r : Reply) (last : Bool) (cause : Nat) (g : Option Nat) (m : BitVec 8) :
    (s.post o r last cause g m).bulks = s.bulks ∨
      last = true ∧ (s.post o r last cause g m).bulks = s.bulks.filter fun b => b.tag != r.tag := by
  unfold State.post
  simp only
  split
  · cases last
    · left; unfold State.writeReply; simp only [State.bulks_signalOutlet]; rfl
    · right; unfold State.writeReply; simp only [State.bulks_signalOutlet]; exact ⟨trivial, rfl⟩
  · left; unfold State.misc; rw [State.bulks_sendMsi]; rfl

@[simp] theorem State.bulks_post_acceptance (s : State) (o : Nat) (r : Reply) (cause : Nat) (g : Option Nat)
    (m : BitVec 8) : (s.post o r false cause g m).bulks = s.bulks := by
  rcases State.bulks_post s o r false cause g m with h | ⟨h, -⟩
  · exact h
  · cases h

/-! ### Receiving -/

/-- What `unheard` and `mute` leave together. -/
theorem State.unheard_mute_updInlet (s : State) (i : Nat) (f : Inlet → Inlet)
    (h : ∀ x : Inlet, ({ f x with slot := none, index := 0, peer := 0, announced := [], retried := false } : Inlet) =
      { x with slot := none, index := 0, peer := 0, announced := [], retried := false }) :
    (s.updInlet i f).mute.unheard = s.mute.unheard := by
  have e := map_modify_same
    (fun x : Inlet => { x with slot := none, index := 0, peer := 0, announced := [], retried := false }) f h s.inlets i
  unfold State.unheard State.mute State.updInlet
  simp only [List.map_map, Function.comp_def]
  rw [e]

theorem State.unheard_mute_ring (s : State) (i : Nat) : (s.ring i).mute.unheard = s.mute.unheard := by
  unfold State.ring; split
  · exact State.unheard_mute_updInlet s i _ fun _ => rfl
  · rfl

theorem State.unheard_mute_consume (s : State) (i : Nat) : (s.consume i).mute.unheard = s.mute.unheard := by
  have h : ∀ u : State, (u.updPci fun p => { p with lastFetch := i, l1 := false }).mute.unheard = u.mute.unheard :=
    fun _ => rfl
  unfold State.consume
  rw [h]
  exact State.unheard_mute_updInlet s i _ fun _ => rfl

theorem State.unheard_mute_fetched (s : State) (n : Nat) : (s.fetched n).mute.unheard = s.mute.unheard := rfl

@[simp] theorem State.mute_noteDecision (s : State) (t : Tb) (n : Nat) : (s.noteDecision t n).mute = s.mute := rfl

theorem State.unheard_mute_takeNext (s : State) (i : Nat) (d : Desc) :
    (s.takeNext i d).mute.unheard = s.mute.unheard := by
  have h : ∀ u : State, u.takeFree.2.mute.unheard = u.mute.unheard := fun _ => rfl
  unfold State.takeNext
  simp only [State.mute_noteDecision, State.unheard_mute_fetched, State.unheard_mute_consume, h]

/-- Receiving a descriptor touches nothing but what `mute` and `unheard` leave out. -/
theorem State.mute_receive {s u : State} {d : Desc} {own : Bool} (h : s.receive d = some (own, u)) :
    u.mute.unheard = s.mute.unheard := by
  unfold State.receive at h
  simp only at h
  split at h
  · cases h
  · split at h
    · split at h
      · cases h
        rw [State.mute_updInlet_slot _ _ fun _ => none]; rfl
      · cases h
    · have e : ((s.ring d.h.inlet.toNat).takeNext d.h.inlet.toNat d).mute.unheard = s.mute.unheard := by
        rw [State.unheard_mute_takeNext, State.unheard_mute_ring]
      split at h
      · split at h <;> cases h
        · exact e
        · rw [State.mute_useTag]; exact e
      · cases h

/-! ### The way of a mailbox command -/

/-- A command is taken in a state that differs from the one at its TB in nothing but what `mute` and `unheard` leave
out. -/
theorem State.taken_mute {s u : State} {t : Tb} {c : Instr} {d : Desc} (h : s.taken t c = some (d, u)) :
    u.mute.unheard = (s.at t).mute.unheard := by
  unfold State.taken at h
  split at h
  · cases h
  · split at h
    · next hr =>
      split at h
      · cases h; exact State.mute_receive hr
      · cases h
    · cases h

/-- What being taken says of the descriptor. -/
theorem State.taken_desc {s u : State} {t : Tb} {c : Instr} {d : Desc} (h : s.taken t c = some (d, u)) :
    descOf c = some d := by
  unfold State.taken at h
  split at h
  · cases h
  · next hd =>
    split at h
    · split at h
      · cases h; exact hd
      · cases h
    · cases h

/-- A class 0 command that is taken runs its body and answers. -/
theorem State.immediate_taken {s u : State} {t : Tb} {c : Instr} {d : Desc} (body : State → Answer × State)
    (h : s.taken t c = some (d, u)) : s.immediate t c body = (body u).2.reply0 d (body u).1 := by
  unfold State.taken at h
  unfold State.immediate
  split at h
  · cases h
  · next hd =>
    split at h
    · next hr =>
      split at h
      · next he =>
        cases h
        simp only [hd, hr, Option.isNone_iff_eq_none.mp he]
      · cases h
    · cases h

/-- A command of class 1 to 3 that is taken and passes its state checks is decided. -/
theorem State.request_taken {s u : State} {t : Tb} {c : Instr} {d : Desc} {plan : State → (Status × Nat) ⊕ Plan}
    {p : Plan} {go : State → Tb → Tb → List Grant → State} (h : s.taken t c = some (d, u)) (hp : plan u = .inr p) :
    s.request t c plan go = u.decideWork d p go := by
  unfold State.taken at h
  unfold State.request
  split at h
  · cases h
  · next hd =>
    split at h
    · next hr =>
      split at h
      · next he =>
        cases h
        simp only [hd, hr, Option.isNone_iff_eq_none.mp he, hp]
      · cases h
    · cases h

/-- A command of class 1 to 3 that is taken and fails a state check is answered at once. -/
theorem State.request_checked {s u : State} {t : Tb} {c : Instr} {d : Desc} {plan : State → (Status × Nat) ⊕ Plan}
    {st : Status} {e : Nat} {go : State → Tb → Tb → List Grant → State} (h : s.taken t c = some (d, u))
    (hp : plan u = .inl (st, e)) : s.request t c plan go = u.single d true st e 0 := by
  unfold State.taken at h
  unfold State.request
  split at h
  · cases h
  · next hd =>
    split at h
    · next hr =>
      split at h
      · next he =>
        cases h
        simp only [hd, hr, Option.isNone_iff_eq_none.mp he, hp]
      · cases h
    · cases h

/-- With room for its replies, a command's decision is the weir's. -/
theorem State.decideWork_accept {u : State} {d : Desc} {p : Plan} {go : State → Tb → Tb → List Grant → State}
    {start promise : Tb} {gs : List Grant} (hr : p.refuse = none) (hs : u.slotsFor d.h)
    (hw : u.weirDecide p.tab p.ask = .accept start promise gs) :
    u.decideWork d p go = go (u.accept d p.group p.dies p.kind start promise (p.arm start)) start promise gs := by
  have h1 : u.tagSlot = none := by unfold State.tagSlot; rw [if_neg (by have := hs.1; omega)]
  have h2 : u.outletSlot d.h.inlet.toNat = none := by
    unfold State.outletSlot; rw [if_neg (by have := hs.2; omega)]
  unfold State.decideWork
  simp [hr, h1, h2, hw]

/-- A timed command that finds its budgets free starts at its decision (R212, R214). -/
theorem State.weirDecide_timed (u : State) (tab : List Resv) (h : Hdr) (promise : Tb) (short : Tb → Option Short)
    (hs : short u.tb = none) (hd : promiseKept h promise) :
    u.weirDecide tab (u.timed h promise short) = .accept u.tb promise [] := by
  have hp : ¬ (h.deadline.toNat ≠ 0 ∧ promise > h.deadline.toNat) := by
    rintro ⟨h0, h1⟩
    rcases hd with hd | hd
    · exact h0 (by simp [hd])
    · exact Nat.not_lt.mpr hd h1
  simp [State.weirDecide, State.timed, firstFit, hp, hs]

/-- A timed command that is taken, passes its checks, finds its budgets free and keeps its DEADLINE is accepted now. -/
theorem State.request_timed {s u : State} {t : Tb} {c : Instr} {d : Desc} {plan : State → (Status × Nat) ⊕ Plan}
    {p : Plan} {promise : Tb} {short : Tb → Option Short} {go : State → Tb → Tb → List Grant → State}
    (h : s.taken t c = some (d, u)) (hp : plan u = .inr p) (hr : p.refuse = none)
    (ha : p.ask = u.timed d.h promise short) (hf : short u.tb = none) (hs : u.slotsFor d.h)
    (hd : promiseKept d.h promise) :
    s.request t c plan go = go (u.accept d p.group p.dies p.kind u.tb promise (p.arm u.tb)) u.tb promise [] := by
  rw [State.request_taken h hp]
  exact State.decideWork_accept hr hs (by rw [ha]; exact State.weirDecide_timed u _ _ _ _ hf hd)

@[simp] theorem none_orElse {α : Type} (b : Option α) : (none <|> b) = b := by cases b <;> rfl

@[simp] theorem some_orElse {α : Type} (a : α) (b : Option α) : (some a <|> b) = some a := rfl

/-- A command of class 1 to 3 that is taken: its state checks decide whether it is answered at once or decided. -/
theorem State.request_of_taken {s u : State} {t : Tb} {c : Instr} {d : Desc} (plan : State → (Status × Nat) ⊕ Plan)
    (go : State → Tb → Tb → List Grant → State) (h : s.taken t c = some (d, u)) :
    s.request t c plan go = match plan u with
      | .inl e => u.single d true e.1 e.2 0
      | .inr p => u.decideWork d p go := by
  cases hp : plan u with
  | inl e => exact State.request_checked h hp
  | inr p => exact State.request_taken h hp

/-- The decision about a timed command that finds its budgets free and keeps its DEADLINE. -/
theorem State.decideWork_timed {u : State} {d : Desc} {h : Hdr} {g : Option Nat} {m : BitVec 8} {tab : List Resv}
    {arm : Tb → Tb} {kind : WorkKind} {promise : Tb} {short : Tb → Option Short}
    (go : State → Tb → Tb → List Grant → State) (hh : d.h = h) (hf : short u.tb = none) (hs : u.slotsFor h)
    (hd : promiseKept h promise) :
    u.decideWork d { group := g, dies := m, refuse := none, ask := u.timed h promise short, tab, arm, kind } go =
      go (u.accept d g m kind u.tb promise (arm u.tb)) u.tb promise [] :=
  State.decideWork_accept (p := { group := g, dies := m, refuse := none, ask := u.timed h promise short, tab, arm, kind })
    rfl (hh ▸ hs) (State.weirDecide_timed u _ _ _ _ hf hd)

/-! ### What an acceptance leaves -/

@[simp] theorem State.accept_tb (s : State) (d : Desc) (g : Option Nat) (m : BitVec 8) (k : WorkKind) (a b c : Tb) :
    (s.accept d g m k a b c).tb = s.tb := congrArg (·.tb) (State.mute_accept s d g m k a b c)

@[simp] theorem State.accept_model (s : State) (d : Desc) (g : Option Nat) (m : BitVec 8) (k : WorkKind) (a b c : Tb) :
    (s.accept d g m k a b c).model = s.model := congrArg (·.model) (State.mute_accept s d g m k a b c)

@[simp] theorem State.accept_boot (s : State) (d : Desc) (g : Option Nat) (m : BitVec 8) (k : WorkKind) (a b c : Tb) :
    (s.accept d g m k a b c).boot = s.boot := congrArg (·.boot) (State.mute_accept s d g m k a b c)

@[simp] theorem State.accept_otp (s : State) (d : Desc) (g : Option Nat) (m : BitVec 8) (k : WorkKind) (a b c : Tb) :
    (s.accept d g m k a b c).otp = s.otp := congrArg (·.otp) (State.mute_accept s d g m k a b c)

@[simp] theorem State.accept_ident (s : State) (d : Desc) (g : Option Nat) (m : BitVec 8) (k : WorkKind) (a b c : Tb) :
    (s.accept d g m k a b c).ident = s.ident := congrArg (·.ident) (State.mute_accept s d g m k a b c)

@[simp] theorem State.accept_ptm (s : State) (d : Desc) (g : Option Nat) (m : BitVec 8) (k : WorkKind) (a b c : Tb) :
    (s.accept d g m k a b c).ptm = s.ptm := congrArg (·.ptm) (State.mute_accept s d g m k a b c)

@[simp] theorem State.accept_diag (s : State) (d : Desc) (g : Option Nat) (m : BitVec 8) (k : WorkKind) (a b c : Tb) :
    (s.accept d g m k a b c).diag = s.diag := congrArg (·.diag) (State.mute_accept s d g m k a b c)

@[simp] theorem State.accept_latBar (s : State) (d : Desc) (g : Option Nat) (m : BitVec 8) (k : WorkKind) (a b c : Tb) :
    (s.accept d g m k a b c).latBar = s.latBar := congrArg (·.latBar) (State.mute_accept s d g m k a b c)

@[simp] theorem State.accept_latDiag (s : State) (d : Desc) (g : Option Nat) (m : BitVec 8) (k : WorkKind) (a b c : Tb) :
    (s.accept d g m k a b c).latDiag = s.latDiag := congrArg (·.latDiag) (State.mute_accept s d g m k a b c)

@[simp] theorem State.accept_frozen (s : State) (d : Desc) (g : Option Nat) (m : BitVec 8) (k : WorkKind) (a b c : Tb) :
    (s.accept d g m k a b c).frozen = s.frozen := congrArg (·.frozen) (State.mute_accept s d g m k a b c)

@[simp] theorem State.accept_evRing (s : State) (d : Desc) (g : Option Nat) (m : BitVec 8) (k : WorkKind) (a b c : Tb) :
    (s.accept d g m k a b c).evRing = s.evRing := congrArg (·.evRing) (State.mute_accept s d g m k a b c)

@[simp] theorem State.accept_ev (s : State) (d : Desc) (g : Option Nat) (m : BitVec 8) (k : WorkKind) (a b c : Tb) :
    (s.accept d g m k a b c).ev = s.ev := congrArg (·.ev) (State.mute_accept s d g m k a b c)

@[simp] theorem State.accept_bulks (s : State) (d : Desc) (g : Option Nat) (m : BitVec 8) (k : WorkKind) (a b c : Tb) :
    (s.accept d g m k a b c).bulks = s.bulks := by
  unfold State.accept; exact State.bulks_post_acceptance ..

@[simp] theorem State.accept_dma (s : State) (d : Desc) (g : Option Nat) (m : BitVec 8) (k : WorkKind) (a b c : Tb) :
    (s.accept d g m k a b c).dma = s.dma := congrArg (·.dma) (State.mute_accept s d g m k a b c)

@[simp] theorem State.accept_runs (s : State) (d : Desc) (g : Option Nat) (m : BitVec 8) (k : WorkKind) (a b c : Tb) :
    (s.accept d g m k a b c).runs = s.runs := congrArg (·.runs) (State.mute_accept s d g m k a b c)

@[simp] theorem State.accept_groups (s : State) (d : Desc) (g : Option Nat) (m : BitVec 8) (k : WorkKind) (a b c : Tb) :
    (s.accept d g m k a b c).groups = s.groups := congrArg (·.groups) (State.mute_accept s d g m k a b c)

@[simp] theorem State.accept_images (s : State) (d : Desc) (g : Option Nat) (m : BitVec 8) (k : WorkKind) (a b c : Tb) :
    (s.accept d g m k a b c).images = s.images := congrArg (·.images) (State.mute_accept s d g m k a b c)

@[simp] theorem State.accept_nextImage (s : State) (d : Desc) (g : Option Nat) (m : BitVec 8) (k : WorkKind) (a b c : Tb) :
    (s.accept d g m k a b c).nextImage = s.nextImage := congrArg (·.nextImage) (State.mute_accept s d g m k a b c)

@[simp] theorem State.accept_results (s : State) (d : Desc) (g : Option Nat) (m : BitVec 8) (k : WorkKind) (a b c : Tb) :
    (s.accept d g m k a b c).results = s.results := congrArg (·.results) (State.mute_accept s d g m k a b c)

@[simp] theorem State.accept_dies (s : State) (d : Desc) (g : Option Nat) (m : BitVec 8) (k : WorkKind) (a b c : Tb) :
    (s.accept d g m k a b c).dies = s.dies := congrArg (·.dies) (State.mute_accept s d g m k a b c)

@[simp] theorem State.accept_clusters (s : State) (d : Desc) (g : Option Nat) (m : BitVec 8) (k : WorkKind) (a b c : Tb) :
    (s.accept d g m k a b c).clusters = s.clusters := congrArg (·.clusters) (State.mute_accept s d g m k a b c)

@[simp] theorem State.accept_chans (s : State) (d : Desc) (g : Option Nat) (m : BitVec 8) (k : WorkKind) (a b c : Tb) :
    (s.accept d g m k a b c).chans = s.chans := congrArg (·.chans) (State.mute_accept s d g m k a b c)

@[simp] theorem State.accept_link (s : State) (d : Desc) (g : Option Nat) (m : BitVec 8) (k : WorkKind) (a b c : Tb) :
    (s.accept d g m k a b c).link = s.link := congrArg (·.link) (State.mute_accept s d g m k a b c)

@[simp] theorem State.accept_ripple (s : State) (d : Desc) (g : Option Nat) (m : BitVec 8) (k : WorkKind) (a b c : Tb) :
    (s.accept d g m k a b c).ripple = s.ripple := congrArg (·.ripple) (State.mute_accept s d g m k a b c)

@[simp] theorem State.accept_serial (s : State) (d : Desc) (g : Option Nat) (m : BitVec 8) (k : WorkKind) (a b c : Tb) :
    (s.accept d g m k a b c).serial = s.serial := congrArg (·.serial) (State.mute_accept s d g m k a b c)

@[simp] theorem State.accept_cal (s : State) (d : Desc) (g : Option Nat) (m : BitVec 8) (k : WorkKind) (a b c : Tb) :
    (s.accept d g m k a b c).cal = s.cal := congrArg (·.cal) (State.mute_accept s d g m k a b c)

@[simp] theorem State.accept_free (s : State) (d : Desc) (g : Option Nat) (m : BitVec 8) (k : WorkKind) (a b c : Tb) :
    (s.accept d g m k a b c).free = s.free := congrArg (·.free) (State.mute_accept s d g m k a b c)

@[simp] theorem State.accept_pending (s : State) (d : Desc) (g : Option Nat) (m : BitVec 8) (k : WorkKind) (a b c : Tb) :
    (s.accept d g m k a b c).pending = s.pending := congrArg (·.pending) (State.mute_accept s d g m k a b c)

/-- The gang of a channel depends on the channels only. -/
theorem State.gangLanes_congr {a b : State} (h : a.chans = b.chans) (n : Nat) : a.gangLanes n = b.gangLanes n := by
  unfold State.gangLanes State.chan; rw [h]

/-- Whole gangs depend on the channels only. -/
theorem State.wholeGangs_congr {a b : State} (h : a.chans = b.chans) (k : Nat) (m : BitVec 8) :
    a.wholeGangs k m = b.wholeGangs k m := by
  unfold State.wholeGangs; simp only [State.gangLanes_congr h]

@[simp] theorem State.accept_wholeGangs (s : State) (d : Desc) (g : Option Nat) (m : BitVec 8) (w : WorkKind)
    (a b c : Tb) (k : Nat) (x : BitVec 8) : (s.accept d g m w a b c).wholeGangs k x = s.wholeGangs k x :=
  State.wholeGangs_congr (State.accept_chans ..) _ _

@[simp] theorem State.accept_chan (s : State) (d : Desc) (g : Option Nat) (m : BitVec 8) (w : WorkKind) (a b c : Tb)
    (n : Nat) : (s.accept d g m w a b c).chan n = s.chan n := by unfold State.chan; simp

@[simp] theorem State.accept_die (s : State) (d : Desc) (g : Option Nat) (m : BitVec 8) (w : WorkKind) (a b c : Tb)
    (n : Nat) : (s.accept d g m w a b c).die n = s.die n := by unfold State.die; simp

@[simp] theorem State.accept_cluster (s : State) (d : Desc) (g : Option Nat) (m : BitVec 8) (w : WorkKind) (a b c : Tb)
    (n : Nat) : (s.accept d g m w a b c).cluster n = s.cluster n := by unfold State.cluster; simp

@[simp] theorem State.accept_group (s : State) (d : Desc) (g : Option Nat) (m : BitVec 8) (w : WorkKind) (a b c : Tb)
    (n : Nat) : (s.accept d g m w a b c).group n = s.group n := by unfold State.group; simp

/-! ### The sizes of the banks -/

@[simp] theorem State.sized_updChan (s : State) (n : Nat) (f : Chan → Chan) : (s.updChan n f).sized ↔ s.sized := by
  simp [State.sized, State.updChan]

@[simp] theorem State.sized_updChans (s : State) (p : Nat → Chan → Bool) (f : Nat → Chan → Chan) :
    (s.updChans p f).sized ↔ s.sized := by simp [State.sized, State.updChans]

@[simp] theorem State.sized_updCluster (s : State) (n : Nat) (f : Cluster → Cluster) :
    (s.updCluster n f).sized ↔ s.sized := by simp [State.sized, State.updCluster]

@[simp] theorem State.sized_updClusters (s : State) (p : Nat → Cluster → Bool) (f : Nat → Cluster → Cluster) :
    (s.updClusters p f).sized ↔ s.sized := by simp [State.sized, State.updClusters]

@[simp] theorem State.sized_updDie (s : State) (n : Nat) (f : Die → Die) : (s.updDie n f).sized ↔ s.sized := by
  simp [State.sized, State.updDie]

@[simp] theorem State.sized_updGroup (s : State) (n : Nat) (f : Group → Group) : (s.updGroup n f).sized ↔ s.sized := by
  simp [State.sized, State.updGroup]

@[simp] theorem State.sized_updInlet (s : State) (n : Nat) (f : Inlet → Inlet) : (s.updInlet n f).sized ↔ s.sized := by
  simp [State.sized, State.updInlet]

@[simp] theorem State.sized_updOutlet (s : State) (n : Nat) (f : Ring → Ring) : (s.updOutlet n f).sized ↔ s.sized := by
  simp [State.sized, State.updOutlet]

@[simp] theorem State.sized_at (s : State) (t : Tb) : (s.at t).sized ↔ s.sized := by
  unfold State.at; split <;> simp [State.sized]

/-- Two states that differ in what answering takes only have banks of the same sizes. -/
theorem State.sized_congr_mute {a b : State} (h : a.mute = b.mute) : a.sized ↔ b.sized := by
  have hd : a.dies = b.dies := congrArg (·.dies) h
  have hk : a.clusters = b.clusters := congrArg (·.clusters) h
  have hc : a.chans = b.chans := congrArg (·.chans) h
  have hg : a.groups = b.groups := congrArg (·.groups) h
  have ho : a.outlets.length = b.outlets.length := by simpa [State.mute] using congrArg (·.outlets.length) h
  have hi : a.inlets.length = b.inlets.length := by simpa [State.mute] using congrArg (·.inlets.length) h
  simp only [State.sized, hd, hk, hc, hg, ho, hi]

/-- Two states that differ in what answering takes only have the same memories. -/
theorem State.canonical_congr_mute {a b : State} (h : a.mute = b.mute) : a.canonical ↔ b.canonical := by
  have hd : a.dies = b.dies := congrArg (·.dies) h
  have hk : a.clusters = b.clusters := congrArg (·.clusters) h
  have hs : a.serial = b.serial := congrArg (·.serial) h
  simp only [State.canonical, hd, hk, hs]

end Sys2Proof.Machine
end

