-- ==== Sys2Proof/WellFormed.lean ====
section
/-! DEFINITION. Well-formed commands: lists have the length their descriptor, register or port gives them, and numbers of
dies, channels, clusters, streams and links lie in the part's ranges (R1, R7, R16, R17). The part answers a command that is
not well formed, or leaves it without effect; no meaning relies on this check. -/

namespace Sys2Proof

/-- What a training shows: four byte lanes (R255). -/
def DramEnv.wellFormed (e : DramEnv) : Bool := e.eyes.length == 4

/-- What the world shows during a die's restart (R342). -/
def RecEnv.wellFormed (e : RecEnv) : Bool := e.dram.wellFormed && e.selfTest.length == 8

/-- What the world shows during a boot: eight stages, eight dies, 64 clusters (R436 to R443). -/
def BootEnv.wellFormed (e : BootEnv) : Bool :=
  decide (e.upTo ≤ 8) && e.stageTb.length == 8 && e.dram.length == 8 && e.dram.all DramEnv.wellFormed && e.tj.length == 8
    && e.selfTest.length == 64 && e.kelvin.all fun n => decide (n < 512)

/-- A register has a word address in BAR 0, in BAR 4 or in a die's register space (R29, R283, R284). -/
def RegAddr.wellFormed (r : RegAddr) : Bool :=
  match r with
  | .bar0 off => decide (off < 0x100000) && off % 4 == 0
  | .bar4 off => decide (off < 0x4000) && off % 4 == 0
  | .die d off => decide (d < 8) && decide (off < 0x1000000) && off % 4 == 0

/-- A well-formed command. -/
def Instr.wellFormed (i : Instr) : Bool :=
  match i with
  | .identify _ _ _ => true
  | .getStatus _ _ => true
  | .resync _ _ _ => true
  | .channelConfig _ _ _ _ _ _ _ _ _ _ => true
  | .channelConnect _ _ _ _ _ _ _ levels => levels.length == 7
  | .channelDisconnect _ _ _ _ => true
  | .channelRange _ _ _ _ _ => true
  | .channelForce _ _ _ _ _ _ levels => levels.length == 7
  | .channelMeasure _ _ _ _ => true
  | .gangSet _ _ _ _ _ _ => true
  | .refDacSet _ _ _ _ _ _ => true
  | .guardSet _ _ _ _ => true
  | .channelQuery _ _ _ => true
  | .imageLoad _ _ _ _ units => units.length == 8
  | .imageVerify _ _ _ => true
  | .imageUnload _ _ _ => true
  | .imageQuery _ _ _ => true
  | .runStart _ _ _ _ _ _ => true
  | .runStop _ _ _ _ => true
  | .runAbort _ _ _ _ => true
  | .runQuery _ _ _ _ => true
  | .trigConfig _ _ _ _ _ _ _ _ _ _ => true
  | .trigArm _ _ _ _ _ _ _ _ => true
  | .trigDisarm _ _ _ _ _ => true
  | .captureConfig _ _ _ _ _ _ _ _ _ _ _ => true
  | .captureStart _ _ _ _ _ => true
  | .captureStop _ _ _ _ _ => true
  | .captureRelease _ _ _ _ _ => true
  | .captureRead _ _ _ _ _ _ _ => true
  | .resultsRead _ _ _ _ _ _ _ _ => true
  | .failLogRead _ _ _ _ _ _ => true
  | .failLogConfig _ _ _ _ => true
  | .failClear _ _ _ _ => true
  | .chargeClear _ _ _ _ _ => true
  | .captureQuery _ _ _ _ => true
  | .lockGroupSet _ _ _ _ _ _ _ => true
  | .lockGroupQuery _ _ _ => true
  | .pllSet _ _ _ _ => true
  | .pllSync _ _ _ _ => true
  | .tbAlign _ _ => true
  | .lockLinkCfg _ _ _ _ => true
  | .weirConfig _ _ _ _ => true
  | .calRead _ _ _ _ _ _ => true
  | .calWrite _ _ _ _ len _ data => data.length == len.toNat
  | .calCommit _ _ => true
  | .calStep _ _ _ arg _ => arg.length == 12
  | .calStatus _ _ => true
  | .thermalRead _ _ _ _ => true
  | .thermalConfig _ _ _ _ _ _ _ _ _ _ _ _ _ => true
  | .thermalClear _ _ _ => true
  | .thermalStatus _ _ _ => true
  | .nvmRead _ _ _ _ _ => true
  | .nvmWrite _ _ _ len _ data => data.length == len.toNat
  | .nvmErase _ _ _ _ => true
  | .nvmStatus _ _ => true
  | .eventConfig _ _ _ _ _ => true
  | .heartbeat _ _ => true
  | .eventQuery _ _ => true
  | .patchApply _ _ => true
  | .patchQuery _ _ => true
  | .regRead _ _ _ _ _ _ => true
  | .regWrite _ _ _ count words => words.length == count.toNat
  | .dramStatus _ _ _ => true
  | .dramConfig _ _ _ _ _ _ _ _ _ => true
  | .dramRetrain _ _ _ _ => true
  | .slvEcho _ words => !words.isEmpty
  | .slvStatus _ words => !words.isEmpty
  | .slvRegRead _ words => !words.isEmpty
  | .slvThermal _ words => !words.isEmpty
  | .slvStill _ words => !words.isEmpty
  | .inletDb _ _ _ => true
  | .outletDb _ _ _ => true
  | .eventDb _ _ => true
  | .ringCfgWrite _ _ _ => true
  | .snapshot _ _ => true
  | .diagGo _ _ => true
  | .diagDataEarly _ _ => true
  | .apertureWrite _ _ _ => true
  | .registerWrite _ r _ _ => r.wellFormed
  | .rcRead _ _ r _ => r.wellFormed
  | .loReadLatch _ _ r => r.wellFormed
  | .bar2Read _ _ _ => true
  | .bar2Write _ _ _ => true
  | .d3hotEntry _ => true
  | .interfaceReset _ => true
  | .linkChange _ _ _ => true
  | .l1Entry _ => true
  | .ptmDialogue _ _ _ => true
  | .descriptorFetch _ _ bytes _ _ => bytes.length == 64
  | .hostDmaFail _ _ bytes => bytes.length == 64
  | .bulkComplete _ _ die _ => decide (die < 8)
  | .msixCoalesce _ _ => true
  | .eventPost _ => true
  | .hostWatchTimeout _ => true
  | .powerOnReset _ => true
  | .perstNAssert _ => true
  | .perstNRelease _ env => env.wellFormed
  | .bootStageTimeout _ => true
  | .fwWatchdog _ d rec boot => decide (d < 8) && rec.all RecEnv.wellFormed && boot.all BootEnv.wellFormed
  | .dieRecoveryTimeout _ d => decide (d < 8)
  | .handlingDequeue _ d rec => decide (d < 8) && rec.all RecEnv.wellFormed
  | .journalAppend _ => true
  | .protTrip _ n _ => decide (n < 512)
  | .senseDiverge _ n => decide (n < 512)
  | .overtempStage _ n _ => decide (n < 512)
  | .otFlagClear _ n _ => decide (n < 512)
  | .pllLol _ d => decide (d < 8)
  | .holdoverExit _ d => decide (d < 8)
  | .relockDone _ d _ => decide (d < 8)
  | .trackedStepDone _ d => decide (d < 8)
  | .guardHit _ d => decide (d < 8)
  | .tbpllLol _ d rec boot => decide (d < 8) && rec.all RecEnv.wellFormed && boot.all BootEnv.wellFormed
  | .rpsFault _ d _ _ _ rec boot => decide (d < 8) && rec.all RecEnv.wellFormed && boot.all BootEnv.wellFormed
  | .bridgeDegrade _ port => decide (port < 16)
  | .llFrame _ _ _ => true
  | .llSuperframe _ _ _ _ => true
  | .llEventAct _ => true
  | .llLinkLost _ _ => true
  | .trigInEdge _ _ _ => true
  | .rippleArm _ kind id => decide (id < if kind = 0 then 32 else 64)
  | .rippleFire _ kind id => decide (id < if kind = 0 then 32 else 64)
  | .holdoffEnd _ k => decide (k < 64)
  | .rearmEnd _ k => decide (k < 64)
  | .disarmTick _ kind id => decide (id < if kind = 0 then 32 else 64)
  | .rippleAbort _ k => decide (k < 64)
  | .rippleSync _ _ => true
  | .refdacUpdate _ d => decide (d < 8)
  | .chargeClearTick _ _ => true
  | .captureStartTick _ k stream => decide (k < 64) && decide (stream < 16)
  | .captureStopTick _ k stream => decide (k < 64) && decide (stream < 16)
  | .runArm _ _ => true
  | .runBegin _ _ _ => true
  | .segmentStart _ k => decide (k < 64)
  | .runEnd _ _ => true
  | .branchDecision _ k _ => decide (k < 64)
  | .dict _ k => decide (k < 64)
  | .repeatTok _ k => decide (k < 64)
  | .literal _ k => decide (k < 64)
  | .nop _ k => decide (k < 64)
  | .swap _ k => decide (k < 64)
  | .timerStart _ k => decide (k < 64)
  | .timerStop _ k => decide (k < 64)
  | .maskStrobe _ k => decide (k < 64)
  | .unmaskStrobe _ k => decide (k < 64)
  | .seqEvent _ k => decide (k < 64)
  | .clusterTimerExpiry _ k _ => decide (k < 64)
  | .failLogEntry _ k _ _ _ _ => decide (k < 64)
  | .dacUpdateInstant _ n => decide (n < 512)
  | .springIssue _ k _ => decide (k < 64)
  | .springComplete _ k _ => decide (k < 64)
  | .springLate _ k _ => decide (k < 64)
  | .hold _ g _ d => decide (g < 32) && decide (d < 8)
  | .holdEntry _ k => decide (k < 64)
  | .resume _ g => decide (g < 32)
  | .timelineResume _ k => decide (k < 64)
  | .stretchLimit _ g => decide (g < 32)
  | .runLimit _ _ => true
  | .segWatchdog _ k => decide (k < 64)
  | .sarSample _ n _ _ _ _ _ => decide (n < 512)
  | .chargeIncrement _ n _ _ _ _ _ _ _ => decide (n < 512)
  | .gapRecord _ k stream => decide (k < 64) && decide (stream < 16)
  | .recordCloseTimeout _ k stream => decide (k < 64) && decide (stream < 16)
  | .captureDrain _ k stream => decide (k < 64) && decide (stream < 16)
  | .windowOpen _ k _ => decide (k < 64)
  | .closePass _ k _ => decide (k < 64)
  | .rpsDone _ d c _ => decide (d < 8) && decide (c < 8)
  | .maintenanceWindow _ d ch _ _ _ _ => decide (d < 8) && decide (ch < 2)
  | .retrainInterval _ d => decide (d < 8)
  | .reformDone _ d => decide (d < 8)
  | .dramPowerDown _ d ch rank => decide (d < 8) && decide (ch < 2) && decide (rank < 2)
  | .agePromotion _ d => decide (d < 8)
  | .thermalWatch _ d => decide (d < 8)
  | .thermalConversion _ d _ rec boot => decide (d < 8) && rec.all RecEnv.wellFormed && boot.all BootEnv.wellFormed
  | .graceExpiry _ d => decide (d < 8)
  | .mmf _ => true
  | .mmfBackoffExpiry _ _ => true
  | .flashOpDone _ => true
  | .xipTimeout _ => true
  | .spSlvSelNFall _ _ => true
  | .spSlvSelNRise _ _ => true
  | .returnToD0 _ => true
  | .bulkTransferStart _ _ die _ => decide (die < 8)
  | .bulkDeadlineStop _ _ _ => true
  | .fullRetrainDone _ d env => decide (d < 8) && env.wellFormed
  | .verificationDone _ _ => true

end Sys2Proof
end

