-- ==== Sys2Proof/Tests/Slice0.lean ====
section
/-! SUPPORT. Tests of the model on small states. For every statement with hypotheses, theorems `meets_…` show concrete
states and operands that meet them, clause by clause, at the edges of their ranges; theorems `test_…` check one step each
against values worked out from the spec by hand, and what well-formedness refuses. -/

namespace Sys2Proof.Tests

open Sys2Proof.Machine

set_option Elab.async false

/-! ### Small states -/

/-- A part that serves commands: boot has reached READY, inlet 0, every outlet and the event ring are enabled with 4,096
entries, the host link is trained, and every die works with its time base and pattern PLL locked, its DRAM FULL and its thermal watch running. -/
def ready : State :=
  let s := State.reset
  { s with
    boot := { s.boot with ready := true, stage := 0x80, perstLow := false, part := .ready }
    inlets := s.inlets.map fun r => { r with enable := true, sizeLog2 := 12 }
    outlets := s.outlets.map fun r => { r with enable := true, sizeLog2 := 12 }
    evRing := { s.evRing with enable := true, sizeLog2 := 12 }
    pci := { s.pci with width := 16, speed := 5 }
    dies := s.dies.map fun x => { x with
      aligned := true, tbLock := true, pll := { x.pll with locked := true }
      dram := { x.dram with st := .full, chOk := 3, sizeGib := 16 }, thm := { x.thm with watching := true } } }

/-- A header through inlet 0 with tag 1 that wants replies. -/
def hdr : Hdr := { inlet := 0, tag := 1, want := true, fence := false, indirect := false, deadline := 0 }

/-- The level codes that a channel has after reset (R78). -/
def lv : List (BitVec 16) := Codes.reset.levels

/-- The command is taken at TB 1,000 and `p` holds of its descriptor and of the state it meets. -/
def takes (s : State) (c : Instr) (p : Desc → State → Bool) : Bool := (s.taken 1000 c).any fun x => p x.1 x.2

/-- The outcome is a next state of which `p` holds. -/
def gives (o : Host.Outcome State Fault Refusal) (p : State → Bool) : Bool :=
  match o with
  | .next v => p v
  | _ => false

/-- Channels `ns` connected in a mode, out of still. -/
def connect (s : State) (ns : List Nat) (m : Mode) : State :=
  s.updChans (fun n _ => ns.contains n) fun _ c => { c with st := { c.st with switchClosed := true, still := false, mode := m } }

/-! ### Class 0 -/

theorem meets_QueriesAnswer : ([Instr.identify 1000 hdr 0, .identify 1000 hdr 0x40, .getStatus 1000 hdr, .eventQuery 1000 hdr,
    .patchQuery 1000 hdr, .channelQuery 1000 hdr 511, .captureQuery 1000 hdr 63 15, .imageQuery 1000 hdr 1,
    .runQuery 1000 hdr 31 0xFFF, .lockGroupQuery 1000 hdr 31, .thermalStatus 1000 hdr 7, .nvmStatus 1000 hdr,
    .calStatus 1000 hdr, .dramStatus 1000 hdr 7].all fun c => takes ready c fun _ _ => true) = true := by decide +kernel

theorem meets_HostServiceCommands : ([Instr.resync 1000 hdr 0x1000, .eventConfig 1000 hdr 1 1 2, .heartbeat 1000 hdr,
    .regRead 1000 hdr 0x1800000000 3 0 0, .regWrite 1000 hdr 0x1800000000 8 (List.replicate 8 0)].all
      fun c => takes ready c fun _ _ => true) = true := by decide +kernel

/-! ### Channel commands -/

theorem meets_channelConnect : takes ready (.channelConnect 1000 hdr 63 0x80 3 2 0x3FFFF lv) (fun _ u => decide (
    u.lanesFree 63 0x80 true = none ∧
    (∀ n ∈ lanesOf 63 (u.wholeGangs 63 0x80), (u.chan n).st.otDrvLive = false ∧ (u.chan n).st.otPmuLive = false) ∧
    (u.die 7).thm.watchMs ≠ 0 ∧ (∀ n ∈ lanesOf 63 0x80, u.connected n = false) ∧ Mode.ofCode 3 = some .fi ∧
    u.slotsFor hdr ∧ promiseKept hdr (u.bound (62000 + u.queuedBound 63))) &&
    (u.powerShort 7 ((lanesOf 63 0x80).map fun n => u.newCharge n fun c =>
      c.connect .fi 2 { force := 0x3FFFF, levels := lv }) u.tb).isNone) = true := by decide +kernel

theorem meets_channelDisconnect : takes (connect ready [504] .fv) (.channelDisconnect 1000 hdr 63 1) (fun _ u => decide (
    u.lanesFree 63 1 true = none ∧ u.slotsFor hdr ∧
    promiseKept hdr (u.bound ((if u.stillChangesRange 63 (u.wholeGangs 63 1) then 122000 else 62000) + u.queuedBound 63)))) = true := by decide +kernel

theorem meets_channelRange : takes (connect ready [0] .fv) (.channelRange 1000 hdr 0 1 5) (fun _ u => decide (
    u.lanesFree 0 1 true = none ∧ u.slotsFor hdr ∧ promiseKept hdr (u.bound (62000 + u.queuedBound 0))) &&
    (u.powerShort 0 ((lanesOf 0 1).map fun n => u.newCharge n fun c => { c with st := { c.st with range := 5 } })
      u.tb).isNone) = true := by decide +kernel

theorem meets_gangSet_form : takes ready (.gangSet 1000 hdr 0 6 2 3) (fun _ u => decide (
    u.lanesFree 0 0xC0 true = none ∧ maskOf 8 ((List.range 2).map (· + 6)) = 0xC0 ∧
    (∀ n ∈ lanesOf 0 0xC0, ((u.chan n).st.gangMember || (u.chan n).st.gangMeas) = false ∧
      ((u.futureChan n).st.gangMember || (u.futureChan n).st.gangMeas) = false) ∧
    (∀ n ∈ lanesOf 0 0xC0, (u.chan n).st.still = true ∧ u.connected n = false) ∧ u.slotsFor hdr ∧
    promiseKept hdr (u.bound (62000 + u.queuedBound 0)))) = true := by decide +kernel

/-- Lanes 6 and 7 of cluster 0 as a gang of two. -/
def ganged : State := ready.updChans (fun n _ => n == 6 || n == 7) fun n c =>
  { c with st := { c.st with gangMeas := n == 6, gangMember := n == 7, gangSizeM1 := 1 } }

theorem meets_gangSet_dissolve : takes ganged (.gangSet 1000 hdr 0 6 0 0) (fun _ u => decide (
    maskOf 8 (u.gangLanes (chanOf 0 6)) = 0xC0 ∧ u.lanesFree 0 0xC0 true = none ∧
    (∀ n ∈ lanesOf 0 0xC0, (u.chan n).st.still = true ∧ u.connected n = false) ∧ u.slotsFor hdr ∧
    promiseKept hdr (u.bound (62000 + u.queuedBound 0)))) = true := by decide +kernel

theorem meets_channelConfig_mode : takes (connect ready [0] .fv) (.channelConfig 1000 hdr 0 1 0xF 4 0x3F 2 0xFFFF 50)
    (fun _ u => decide (u.slotsFor hdr ∧ Mode.ofCode 4 = some .hizMeas ∧ hasBit (0xF : BitVec 8) 0 = true ∧
      u.lanesFree 0 1 true = none ∧ (∀ n ∈ lanesOf 0 1, u.connected n = true) ∧
      promiseKept hdr (u.bound (62000 + u.queuedBound 0))) &&
      (u.powerShort 0 ((lanesOf 0 1).map fun n => u.newCharge n fun c => { c with st := { c.st with mode := .hizMeas } })
        u.tb).isNone) = true := by decide +kernel

theorem meets_channelConfig_settings : takes ready (.channelConfig 1000 hdr 0 0xFF 0xE 4 0x3F 2 0xFFFF 50)
    (fun _ u => decide (u.slotsFor hdr ∧ Mode.ofCode 4 = some .hizMeas ∧ hasBit (0xE : BitVec 8) 0 = false ∧
      u.lanesFree 0 0xFF false = none ∧ promiseKept hdr (u.bound 10000))) = true := by decide +kernel

theorem meets_channelForce : takes (connect ready [0] .fv) (.channelForce 1000 hdr 0 1 1 0x3FFFF lv) (fun _ u => decide (
    u.lanesFree 0 1 false = none ∧ u.slotsFor hdr ∧
    promiseKept hdr (u.bound (maxOf ((lanesOf 0 1).map fun n => (u.chan n).dacDiv) * 10 + 1000))) &&
    (u.powerShort 0 ((lanesOf 0 1).map fun n => u.newCharge n fun c =>
      { c with dac := c.dac.load (forceGroup 1 0x3FFFF lv) }) u.tb).isNone) = true := by decide +kernel

theorem meets_channelMeasure : takes ready (.channelMeasure 1000 hdr 63 0x80) (fun _ u => decide (
    u.unavailable [7] true = none ∧ u.slotsFor hdr ∧ chanOf 63 ((bitsOf (0x80 : BitVec 8)).headD 0) = 511 ∧
    promiseKept hdr (u.bound (2000 * ((u.chan 511).meas.avgM1.toNat + 1))))) = true := by decide +kernel

theorem meets_guardSet : takes ready (.guardSet 1000 hdr 63 0xF) (fun _ u => decide (u.unavailable [7] true = none ∧
    (∀ l ∈ List.range 8, u.held (chanOf 63 l) = false) ∧ u.slotsFor hdr ∧ promiseKept hdr (u.bound 10000))) = true := by
  decide +kernel

/-- A REF_DAC_SET at a tick that has passed, at one that has not, and behind one that waits. -/
theorem meets_refDacSet : ([((1000 : BitVec 64), ready), (2000, ready),
    (2000, ready.updDie 7 fun y => { y with refdac := y.refdac.modify 7 fun r => { r with pending := true, tick := 1500 } })].all
      fun x => takes x.2 (.refDacSet 1000 hdr 7 7 0xFFFF x.1) fun _ u => decide (u.unavailable [7] true = none ∧
        u.slotsFor hdr ∧ promiseKept hdr (x.1.toNat + 10030))) = true := by decide +kernel

theorem meets_ChannelChecksAnswer :
    (let s := ready.updDie 0 fun y => { y with st := .offline }
     takes s (.channelConnect 1000 hdr 0 1 3 2 0 lv) (fun _ u => decide (u.lanesFree 0 1 true = some (.notAvailable, 2))) &&
     takes s (.channelDisconnect 1000 hdr 0 1) (fun _ u => decide (u.lanesFree 0 1 true = some (.notAvailable, 2))) &&
     takes s (.channelRange 1000 hdr 0 1 2) (fun _ u => decide (u.lanesFree 0 1 true = some (.notAvailable, 2))) &&
     takes s (.channelForce 1000 hdr 0 1 1 0 lv) (fun _ u => decide (u.lanesFree 0 1 false = some (.notAvailable, 2))) &&
     takes s (.channelMeasure 1000 hdr 0 1) (fun _ u => decide (u.unavailable [0] true = some (.notAvailable, 2)))) = true := by
  decide +kernel

/-! ### Settings -/

theorem meets_failLogConfig : takes ready (.failLogConfig 1000 hdr 63 1) (fun _ u => decide (
    u.unavailable [7] true = none ∧ u.slotsFor hdr ∧ promiseKept hdr (u.bound 10000) ∧ u.clusterHeld 63 = false)) = true := by
  decide +kernel

theorem meets_failClear : takes ready (.failClear 1000 hdr 63 0xFF) (fun _ u => decide (
    u.unavailable [7] true = none ∧ u.slotsFor hdr ∧ promiseKept hdr (u.bound 10000) ∧ u.clusterHeld 63 = false)) = true := by
  decide +kernel

/-- A CONTINUOUS stream 0 of cluster 0 with a record at ring offset 0. -/
def streaming : State := ready.updCap 0 0 fun c =>
  { c with mode := 1, sramSize := 1, chunk := 16, ringSize := 0x10000, wr := 0x100, used := 0x100, starts := [0] }

theorem meets_captureRelease : takes streaming (.captureRelease 1000 hdr 0 0 0x100) (fun _ u => decide (
    u.unavailable [0] true = none ∧ u.slotsFor hdr ∧ promiseKept hdr (u.bound 10000) ∧ (u.cap 0 0).mode ≠ 0 ∧
    ((u.cap 0 0).release 0x100).isSome = true)) = true := by decide +kernel

/-- CAPTURE_CONFIG that turns a stream off, and one that makes it CONTINUOUS. -/
theorem meets_captureConfig :
    (takes streaming (.captureConfig 1000 hdr 0 0 0 0 0 0 0 0 0) (fun _ u => decide (
      u.unavailable [0] true = none ∧ u.slotsFor hdr ∧ promiseKept hdr (u.bound 10000) ∧ (u.cap 0 0).active = false ∧
      (u.trig 0).state = .idle)) &&
    takes ready (.captureConfig 1000 hdr 0 15 1 64 32768 0 0 0x10000 0x10000) (fun _ u =>
      let c := { Cap.reset with
        mode := 1, sramSize := 64, chunk := 32768, ringBase := 0x10000, ringSize := 0x10000, rate := u.streamRate 0 15 }
      decide (u.unavailable [0] true = none ∧ u.slotsFor hdr ∧ promiseKept hdr (u.bound 10000) ∧
        (u.cap 0 15).active = false ∧ (u.trig 0).state = .idle ∧ u.noDram [0] = none) &&
      ((u.updCap 0 15 fun _ => c).shortDram (u.updCap 0 15 fun _ => c).table [0] u.tb none).isNone)) = true := by
  decide +kernel

theorem meets_trigConfig : takes ready (.trigConfig 1000 hdr 63 12 2 1 0 7 0xFFFFFF 0) (fun _ u => decide (
    u.unavailable [7] true = none ∧ u.slotsFor hdr ∧ promiseKept hdr (u.bound 10000) ∧ (u.trig 63).state = .idle)) = true := by
  decide +kernel

theorem meets_weirConfig : takes ready (.weirConfig 1000 hdr 360000000 10000000) (fun _ u => decide (u.slotsFor hdr ∧
    promiseKept hdr (u.bound 10000))) = true := by decide +kernel

theorem meets_lockLinkCfg : takes ready (.lockLinkCfg 1000 hdr 2 248) (fun _ u => decide (u.slotsFor hdr ∧
    promiseKept hdr (u.bound 10000) ∧ ∀ g ∈ u.groups, g.span = false)) = true := by decide +kernel

/-- Lock group 0 with clusters 0 and 1. -/
def grouped : State := ready.updGroup 0 fun g => { g with members := 3 }

theorem meets_lockGroupSet : takes grouped (.lockGroupSet 1000 hdr 31 0xFF 1 7 (BitVec.allOnes 64)) (fun _ u => decide (
    u.slotsFor hdr ∧ promiseKept hdr (u.bound 10000) ∧
    u.unavailable ((bitsOf (BitVec.allOnes 64)).map dieOfCluster).eraseDups true = none ∧
    (∀ o ∈ 31 :: u.losers 31 (BitVec.allOnes 64), u.runsOf o = []) ∧
    ∀ k ∈ bitsOf (BitVec.allOnes 64) ++ (31 :: u.losers 31 (BitVec.allOnes 64)).flatMap u.membersOf,
      (u.trig k).atRest = true)) = true := by decide +kernel

theorem meets_thermalConfig : takes ready (.thermalConfig 1000 hdr 7 1 0 0 0 0 0 0 0 0 0) (fun _ u => decide (
    u.slotsFor hdr ∧ promiseKept hdr (u.tb + 15000) ∧ u.unavailable [7] false = none ∧
    ∀ i ∈ List.range 64, u.connected (448 + i) = false)) = true := by decide +kernel

/-- A VERIFIED image 1 whose bytes are a header: dies 0, cluster 0, and nothing in its sections. -/
def image : Image :=
  { id := 1, state := .verified, dieMask := 1, bytes := [], units := [1, 0, 0, 0, 0, 0, 0, 0], places := [[(0, 4096)]], duration := 1000,
    lost := 0, loads := [] }

theorem meets_imageUnload : takes { ready with images := [image] } (.imageUnload 1000 hdr 1) (fun _ u => decide (
    u.slotsFor hdr ∧ promiseKept hdr (u.tb + 100000) ∧ u.image? 1 = some image ∧ image.state ≠ .loading ∧
    image.state ≠ .verifying ∧ (∀ r ∈ u.runs, r.image ≠ 1) ∧ u.imageRead 1 = false)) = true := by decide +kernel

/-- A FOLLOWER whose master-side time is 5 ticks ahead. -/
theorem meets_tbAlign : takes { ready with link := { ready.link with role := 2, offset := 5 } } (.tbAlign 1000 hdr)
    (fun _ u => decide (u.slotsFor hdr ∧ promiseKept hdr (u.bound 10000) ∧ u.link.role = 2 ∧
      (∀ w ∈ u.works, w.done.isSome = true) ∧ u.runs = [] ∧ (∀ x ∈ u.dies, ∀ r ∈ x.refdac, r.pending = false) ∧
      (∀ k ∈ u.clusterNums, (u.trig k).atRest = true) ∧ ((u.tb : Int) + u.link.offset).toNat = 1005)) = true := by
  decide +kernel

/-! ### Commands that wait -/

theorem meets_chargeClear : takes ready (.chargeClear 1000 hdr 63 0xFF 100000) (fun _ u => decide (u.slotsFor hdr ∧
    u.unavailable [7] true = none ∧ u.tb ≤ 100000 ∧ promiseKept hdr (100000 + 2000))) = true := by decide +kernel

/-- The first tick that is not late: 20,001 ns after the decision. -/
theorem meets_captureStart : takes streaming (.captureStart 1000 hdr 0 1 21001) (fun _ u => decide (u.slotsFor hdr ∧
    u.unavailable [0] true = none ∧ u.tb + 20000 < 21001 ∧
    (∀ i ∈ bitsOf (1 : BitVec 16), (u.cap 0 i).mode = 1 ∧ (u.cap 0 i).active = false ∧ (u.cap 0 i).startAt = none) ∧
    promiseKept hdr (21001 + u.maxIval 0 1 + 1000))) = true := by decide +kernel

/-- Stream 0 of cluster 0 active. -/
def active : State := streaming.updCap 0 0 fun c => { c with active := true }

theorem meets_captureStop : takes active (.captureStop 1000 hdr 0 1 21001) (fun _ u => decide (u.slotsFor hdr ∧
    u.unavailable [0] true = none ∧ u.tb + 20000 < 21001 ∧
    (∀ i ∈ bitsOf (1 : BitVec 16), ((u.cap 0 i).active = true ∨ (u.cap 0 i).startAt.isSome = true) ∧
      (u.cap 0 i).stopAt = none) ∧ promiseKept hdr (21001 + u.maxIval 0 1 + 1000))) = true := by decide +kernel

/-- A cluster in no group with a source. -/
theorem meets_trigArm : takes (ready.updTrig 63 fun g => { g with source := 5 })
    (.trigArm 1000 hdr 1 63 7 0xFFFFFFFF 0xFFFFFFFFFFFF 21001) (fun _ u => decide (u.slotsFor hdr ∧
      u.armed 1 63 = [63] ∧ (u.trig 63).source ≠ 0 ∧ u.unavailable ([63].map dieOfCluster).eraseDups true = none ∧
      (u.trig 63).atRest = true ∧ (u.trig 63).armAt = none ∧ u.tb + 20000 < 21001 ∧ promiseKept hdr (21001 + 1000))) = true := by
  decide +kernel

/-- A lock group whose second member has a TRIGGERED stream. -/
theorem meets_trigArm_group : takes (grouped.updCap 1 15 fun c => { c with mode := 2 }) (.trigArm 1000 hdr 0 0 0 0 0 21001)
    (fun _ u => decide (u.slotsFor hdr ∧ u.armed 0 0 = [0, 1] ∧ ((u.cap 1 15).mode = 2) ∧
      u.unavailable ([0, 1].map dieOfCluster).eraseDups true = none ∧
      (∀ k ∈ u.armed 0 0, (u.trig k).atRest = true ∧ (u.trig k).armAt = none) ∧ u.tb + 20000 < 21001)) = true := by decide +kernel

theorem meets_trigDisarm : takes grouped (.trigDisarm 1000 hdr 0 0 21001) (fun _ u => decide (u.slotsFor hdr ∧
    u.armed 0 0 = [0, 1] ∧ u.unavailable ([0, 1].map dieOfCluster).eraseDups true = none ∧ u.tb + 20000 < 21001 ∧
    promiseKept hdr (21001 + 1000))) = true := by decide +kernel

theorem meets_pllSync : takes ready (.pllSync 1000 hdr 0x81 21001) (fun _ u => decide (u.slotsFor hdr ∧
    u.unavailable (bitsOf (0x81 : BitVec 8)) false = none ∧
    (∀ x ∈ bitsOf (0x81 : BitVec 8), u.dieFree x = true ∧ (u.die x).pll.relocking = false) ∧ u.tb + 20000 < 21001 ∧
    promiseKept hdr (21001 + 1000))) = true := by decide +kernel

/-- The setting that a pattern PLL has after reset, as PLL_SET carries it (R107). -/
def pllArg : PllArg := { frac := 0, nint := 96, post := 12, flags := 1, rsv0 := 0, seed := 1, rsv1 := 0 }

theorem meets_pllSet : takes ready (.pllSet 1000 hdr 7 pllArg) (fun _ u => decide (u.slotsFor hdr ∧
    u.unavailable [7] false = none ∧ u.dieFree 7 = true ∧ promiseKept hdr (u.bound (100000 * (1 + u.pllAhead 7))))) = true := by
  decide +kernel

theorem meets_thermalRead : takes ready (.thermalRead 1000 hdr 7 0) (fun _ u => decide (u.slotsFor hdr ∧
    u.unavailable [7] false = none ∧ promiseKept hdr (u.bound (u.die 7).thm.readBound))) = true := by decide +kernel

theorem meets_thermalRead_external : takes (ready.updThm 7 fun y => { y with extType := 1 }) (.thermalRead 1000 hdr 7 1)
    (fun _ u => decide (u.slotsFor hdr ∧ u.unavailable [7] false = none ∧ (u.die 7).thm.extType ≠ 0)) = true := by
  decide +kernel

theorem meets_thermalClear : takes (ready.updDie 7 fun y => { y with st := .thermalOff }) (.thermalClear 1000 hdr 7)
    (fun _ u => decide (u.slotsFor hdr ∧ u.unavailable [7] false = none ∧ (u.die 7).st = .thermalOff ∧
      promiseKept hdr (u.bound ((u.die 7).thm.readBound + 1000000)))) = true := by decide +kernel

theorem meets_imageVerify : ([IState.verified, .loaded].all fun st =>
    takes { ready with images := [{ image with state := st }] } (.imageVerify 1000 hdr 1) fun _ u => decide (u.slotsFor hdr ∧
      ((u.image? 1).map (·.state)) = some st ∧ u.unavailable (u.imgDies 1) true = none ∧ u.noDram (u.imgDies 1) = none ∧
      promiseKept hdr (u.tb + verifyBound (u.imgRd 1)))) = true := by decide +kernel

/-! ### Transfers and runs -/

/-- The weir accepts a request at a start. -/
def accepted (d : Decision) : Bool :=
  match d with
  | .accept .. => true
  | _ => false

theorem meets_imageLoad : takes ready (.imageLoad 1000 hdr 0 0x1000 [1, 0, 0, 0, 0, 0, 0, 1]) (fun _ u => decide (
    u.slotsFor hdr ∧ u.unavailable [0, 7] true = none ∧ u.noDram [0, 7] = none) &&
    (u.imageSlot [1, 0, 0, 0, 0, 0, 0, 1]).isNone && accepted (u.weirDecide u.table (u.bulkAsk hdr ([0, 7].map fun x =>
      { die := x, bytes := 4096, dir := true })))) = true := by decide +kernel

theorem meets_captureRead : takes streaming (.captureRead 1000 hdr 0 0 0x100 0 0x1000) (fun _ u => decide (
    u.slotsFor hdr ∧ u.unavailable [0] true = none ∧ u.noDram [0] = none ∧ (u.cap 0 0).mode ≠ 0 ∧
    (u.cap 0 0).spanOk 0 0x100 = true) && u.dmaSlot.isNone &&
    accepted (u.weirDecide u.table (u.bulkAsk hdr [{ die := 0, bytes := 0x100, dir := false }]))) = true := by decide +kernel

theorem meets_failLogRead : takes ready (.failLogRead 1000 hdr 63 0 0xFFFFFFFF 0x1000) (fun _ u => decide (
    u.slotsFor hdr ∧ u.unavailable [7] true = none ∧ u.noDram [7] = none) && u.dmaSlot.isNone &&
    accepted (u.weirDecide u.table (u.bulkAsk hdr [{ die := 7, bytes := 16 * 65536, dir := false }]))) = true := by
  decide +kernel

/-- Results of lock group 31 with one record, of channel 511. -/
def results : Results := { group := 31, s := 5000, image := 1, recs := [ResRec.init 511 5000], hists := [] }

/-- A read of results that a die holds, and one of results that no die holds data for. -/
theorem meets_resultsRead : ([results, { results with recs := [] }].all fun x =>
    takes { ready with results := [x] } (.resultsRead 1000 hdr 31 1 0 512 5000 0x1000) fun _ u => decide (
      u.slotsFor hdr ∧ u.results.find? (fun x => x.group == 31 && x.s == 5000) = some x ∧
      u.unavailable ((u.resultAsks x true 0 512).map (·.die)) false = none) && u.dmaSlot.isNone &&
      accepted (u.weirDecide u.table (u.bulkAsk hdr (u.resultAsks x true 0 512)))) = true := by decide +kernel

/-- The header of an image for cluster 0 of die 0 (R226, R227), with every other byte 0. -/
def header : List Byte := (List.range 0x100).map fun i => if i = 0x18 ∨ i = 0x63 then 1 else 0

/-- A part with that image VERIFIED, lock group 31 of cluster 0 and die 0 on the image's PLL setting. -/
def runnable : State :=
  let s := ({ ready with images := [{ image with bytes := header }] } : State).updGroup 31 fun g => { g with members := 1 }
  s.updPll 0 fun p => { p with set := { frac := 0, nint := 0, post := 0, dither := false, seed := 0 } }

theorem meets_runStart : takes runnable (.runStart 1000 hdr 1 31 1 1000000) (fun _ u =>
    let r := u.imgRd 1
    decide (u.slotsFor hdr ∧ ((u.image? 1).map (·.state)) = some .verified ∧
      u.unavailable (diesOf (imgHdr r).dieMask) true = none ∧ u.noDram (diesOf (imgHdr r).dieMask) = none ∧
      (u.group 31).members ≠ 0 ∧ (u.group 31).members = (imgHdr r).clusterMask ∧ u.startErr r 31 = none ∧
      ((imgHdr r).stretch && (u.group 31).span) = false ∧ u.patchesEqual (diesOf (imgHdr r).dieMask) = true ∧
      (∀ n ∈ imgChannels r, u.calValid n = true) ∧ (u.runsOf 31).length < 4) &&
    accepted (u.weirDecide u.table (u.runAsk hdr r 31 true 1000000))) = true := by decide +kernel

/-- A run with tag 2 of lock group 31, at a state. -/
def aRun (st : RState) : Run :=
  { newRun { hdr with tag := 2 } 31 1 (rdOf header) 1000000 2000000 with state := st }

/-- `runnable` with that run. -/
def running (st : RState) : State := { runnable with runs := [aRun st] }

theorem meets_runStop : ([RState.accepted, .running].all fun st => takes (running st) (.runStop 1000 hdr 31 2) fun _ u =>
    decide (u.slotsFor hdr ∧ u.namedRun 31 2 = .inr (aRun st) ∧ promiseKept hdr (aRun st).p)) = true := by decide +kernel

theorem meets_runAbort : ([RState.accepted, .running].all fun st => takes (running st) (.runAbort 1000 hdr 31 2) fun _ u =>
    decide (u.slotsFor hdr ∧ u.namedRun 31 2 = .inr (aRun st) ∧ promiseKept hdr (u.tb + 400000))) = true := by decide +kernel

/-! ### Class 3 commands -/

/-- A class 3 command finds room, and where `busy` an earlier one uses the resource. -/
def room3 (u : State) (res : BitVec 9) (busy : Bool) : Bool :=
  decide (u.slotsFor hdr) && u.bgSlot.isNone && u.busy3 res == busy

/-- An accepted command with tag 9. -/
def aWork (cls : Nat) (kind : WorkKind) : Work :=
  { tag := 9, inlet := 0, opcode := 0x0060, cls, start := 0, promise := 50000, deadline := 0, group := none, dieMask := 0
    moving := false, kind, done := none }

/-- `ready` with 64 MiB of flash, behind an accepted class 3 command on a resource where that is not 0. -/
def flashy (res : BitVec 9) : State :=
  { ready with
    serial := { ready.serial with sizeMib := 64 }
    works := if res = 0 then [] else [aWork 3 (.class3 res 50000 none)] }

theorem meets_calRead : ([0, 0x80].all fun b => takes (flashy b) (.calRead 1000 hdr 7 0xFFFC 4 0x1000) fun _ u =>
    room3 u (dieRes (dieBit 7)) (b != 0) && decide (u.unavailable [7] false = none ∧
      promiseKept hdr (u.tb + u.ahead3 (dieRes (dieBit 7)) + (100000 + 4 + 5000 * (blocksOf 0xFFFC 4).length)))) = true := by
  decide +kernel

theorem meets_calWrite : ([0, 0x80].all fun b => takes (flashy b) (.calWrite 1000 hdr 7 0x50 4 0 [1, 2, 3, 4]) fun _ u =>
    room3 u (dieRes (dieBit 7)) (b != 0) && decide (u.unavailable [7] false = none ∧
      (∀ i ∈ blocksOf 0x50 4, u.held (64 * 7 + i) = false ∧ (u.chan (64 * 7 + i)).st.rpsBusy = false) ∧
      u.dieHeld 7 = false)) = true := by decide +kernel

/-- A step on die 7, FINISH of channel 0, and OFFSET_GAIN of channel 511 with and without an earlier command. -/
theorem meets_calStep : ([((1 : BitVec 16), [7, 0, 0, 0, 0, 0, 0, 0, 0, 0, 0, 0], (0 : BitVec 9)),
    (0x30, List.replicate 12 0, 0), (0x10, [255, 1, 0, 0, 0, 0, 0, 0, 0, 0, 0, 0], 0),
    (0x10, [255, 1, 0, 0, 0, 0, 0, 0, 0, 0, 0, 0], 0x80)].all fun x =>
      takes (flashy x.2.2) (.calStep 1000 hdr x.1 x.2.1 []) fun _ u =>
        room3 u (dieRes (dieBit (calDie x.1 x.2.1))) (x.2.2 != 0) && decide (u.calStepErr x.1 x.2.1 = none)) = true := by
  decide +kernel

theorem meets_calCommit : ([0, 0x100].all fun b => takes (flashy b) (.calCommit 1000 hdr) fun _ u =>
    room3 u flashRes (b != 0) && decide (u.unavailable (bitsOf u.dieMask) false = none ∧ u.cal.full = false ∧
      promiseKept hdr (u.tb + u.ahead3 flashRes + u.commitBound))) = true := by decide +kernel

theorem meets_nvm : ([0, 0x100].all fun b =>
    takes (flashy b) (.nvmRead 1000 hdr 0x3F00000 0x100000 0x1000) (fun _ u => room3 u flashRes (b != 0)) &&
    takes (flashy b) (.nvmWrite 1000 hdr 0x1500000 1 0 [0xA5]) (fun _ u => room3 u flashRes (b != 0) &&
      decide (u.regionLocked 0x1500000 1 = false)) &&
    takes (flashy b) (.nvmErase 1000 hdr 0x1500000 4096) (fun _ u => room3 u flashRes (b != 0) &&
      decide (u.regionLocked 0x1500000 4096 = false))) = true := by decide +kernel

theorem meets_patchApply : ([0, 0x100].all fun b => takes (flashy b) (.patchApply 1000 hdr) fun _ u =>
    room3 u flashRes (b != 0) && decide (u.runs = [] ∧ u.rpsBusy = false)) = true := by decide +kernel

theorem meets_dramConfig : ([0, 0x80].all fun b => takes { flashy b with free := (flashy b).free + 1 }
    (.dramConfig 1000 hdr 0xFF 0x1F 200 1000 1024 60000 32) fun _ u => room3 u (dieRes 0xFF) (b != 0) &&
      decide (u.unavailable (bitsOf (0xFF : BitVec 8)) false = none)) = true := by decide +kernel

theorem meets_dramRetrain : ([0, 0x80].all fun b =>
    takes (flashy b) (.dramRetrain 1000 hdr 7 0) (fun _ u => room3 u (dieRes (dieBit 7)) (b != 0) &&
      decide (u.unavailable [7] false = none ∧ u.noDram [7] = none)) &&
    takes (flashy b) (.dramRetrain 1000 hdr 7 1) (fun _ u => room3 u (dieRes (dieBit 7)) (b != 0) &&
      decide (u.unavailable [7] false = none ∧ u.fullBlocked 7 = false))) = true := by decide +kernel

/-! ### The host's registers, rings and memory window -/

/-- `n` bytes, 0 but for those listed with their offsets. -/
def bytesOf (n : Nat) (l : List (Nat × Byte)) : List Byte :=
  (List.range n).map fun i => ((l.find? fun p => p.1 == i).map (·.2)).getD 0

/-- The state as commands at TB 1,000 meet it. -/
def now (s : State) : State := s.at 1000

/-- Rings are served from stage 0x40 on, and at a failure from 0xE4 on (R285). -/
theorem meets_rings : ([((0x40 : BitVec 8), true), (0x3F, false), (0xE4, true), (0xE3, false)].all fun x =>
    (now { ready with boot := { ready.boot with stage := x.1 } }).ringsServed == x.2) = true := by decide +kernel

/-- An inlet that is enabled and one that is not; a ring that is enabled and one that is not. -/
theorem meets_RingsAreConfigured : ((now ready).inlet 0).enable = true ∧ (now State.reset).ringsServed = false ∧
    (Inlet.reset.enable = false ∧ hasBit (0x104 : Word) 8 = true) ∧
    ((Ring.reset 0).enable = false ∧ hasBit (0x10C : Word) 8 = true) ∧ (now ready).evRing.enable = true := by decide +kernel

/-- Ring sizes 4 and 12 are taken, 3 and 13 are not, and an enabled ring keeps its size (R292). -/
theorem test_ringCfg : (([3, 4, 12, 13] : List Nat).map fun n => ((Ring.reset 5).cfg (BitVec.ofNat 32 (n + 0x3F0100))).sizeLog2)
      = [4, 4, 12, 4] ∧
    ((Ring.reset 5).cfg 0x3F010C).vector = 63 ∧ (((Ring.reset 5).cfg 0x10C).cfg 0x104).sizeLog2 = 12 := by decide +kernel

/-- A doorbell of one descriptor, and one that runs one entry ahead of a ring of 4,096 (R294). -/
theorem test_inletDb : gives (exec (.inletDb 1000 0 1) ready) (fun v => (v.inlet 0).announced == [1000]) = true ∧
    gives (exec (.inletDb 1000 0 4096) ready) (fun v => !(v.inlet 0).stopped) = true ∧
    gives (exec (.inletDb 1000 0 4097) ready) (fun v => (v.inlet 0).stopped) = true := by decide +kernel

/-- The diagnostic window busy until TB 2,000. -/
def diagBusy : State := { ready with diag := { ready.diag with busy := true, readyTb := 2000 } }

theorem meets_WindowsAreSet : (now ready).ringsServed = true ∧ (now diagBusy).ringsServed = true ∧
    (now diagBusy).diag.busy = true ∧ (now ready).diag.busy = false ∧ (now ready).hasDie 7 = true := by decide +kernel

theorem diagBusy_sized : (now diagBusy).sized := by unfold State.sized; decide +kernel

theorem meets_RegistersAreAccessed :
    ((now ready).hasDie 7 = true ∧ (now ready).boot.ready = true ∧ (now ready).placeServed (regPlace 7 0) = true) ∧
    ((now ready).frozen = none ∧ ((now ready).dmaDone 0x1014).isNone = true ∧ bar0Lo 0x1014 = false ∧
      bar0Lo 0x1010 = false) ∧ bar0Lo 0x4000 = true := by decide +kernel

/-- The last word of the window is read; a write at the start of the DRAM of die 0 may go, one above its size may not. -/
theorem meets_WindowReachesDram : 0xFFFFFFC + 4 ≤ 2 ^ 28 ∧ (now ready).bar2Writable 0 = true ∧
    (now { ready with pci := { ready.pci with apBaseHi := 3, apBaseLo := 15 } }).bar2Writable 0xFFFFFFF = false := by
  decide +kernel

/-! ### The endpoint, its rings and its events -/

theorem meets_EndpointSteps : (now ready).runs = [] ∧ (now ready).pci.d3hot = false ∧
    (now { ready with pci := { ready.pci with d3hot := true } }).pci.d3hot = true ∧ (now ready).pci.width ≠ 8 := by
  decide +kernel

/-- PTM enabled with a previous dialogue and `m` without a response. -/
def ptm (m : Nat) : State := { ready with ptm := { ready.ptm with enable := true, prevT1 := some 500, missed := m } }

theorem meets_ptmDialogue : (now (ptm 0)).ptm.enable = true ∧ (now (ptm 0)).ptm.prevT1 = some 500 ∧
    (now (ptm 1)).ptm.missed < 2 ∧ 2 ≤ (now (ptm 2)).ptm.missed ∧ (now ready).ptm.enable = false ∧
    (let s : State := { ptm 0 with ptm := { (ptm 0).ptm with prevT1 := none } }
     (now s).ptm.enable = true ∧ (now s).ptm.prevT1 = none) := by decide +kernel

/-- `ready` with one descriptor announced in inlet 0 at TB 900. -/
def announced : State := ready.updInlet 0 fun r => { r with announced := [900], peer := 1 }

/-- A GET_STATUS descriptor with tag 1 (R306, R320), one with a CLASS that is not the command's, and an IDENTIFY whose
payload is INDIRECT. -/
def statusDesc : List Byte := bytesOf 64 [(0, 2), (2, 1), (4, 1)]
def badDesc : List Byte := bytesOf 64 [(0, 2), (2, 1), (3, 1), (4, 1)]
def farDesc : List Byte := bytesOf 64 [(0, 1), (2, 5), (4, 1), (6, 8)]

/-- A descriptor that is placed, one whose check fails, and one of EVENT_QUERY before READY. -/
theorem meets_descriptorFetch : (now announced).turn 0 = true ∧
    (match readDescr 0 (rdOf statusDesc) none with
      | .inr d => d.h.tag == 1
      | .inl _ => false) = true ∧ ((now announced).tagBusy 1) = false ∧
    (match readDescr 0 (rdOf badDesc) none with
      | .inr _ => false
      | .inl _ => true) = true ∧
    (now { announced with boot := { announced.boot with ready := false } }).turn 0 = true := by decide +kernel

/-- `ready` with an accepted BULK command of tag 9 whose transfer from the host moves on channel 0, from TB 500 on. -/
def moving : State :=
  { ready with
    works := [{ aWork 2 .bulk with opcode := 0x0020, deadline := 900, moving := true }]
    bulks := [{ tag := 9, die := 0, dir := true, bytes := 4096, rate := 250, start := 500, stop := 40000, channel := 0
                moving := true, moved := 0, late := false, slow := false, source := 1, host := 0, done := false }] }

theorem meets_hostDmaFail : (now announced).turn 0 = true ∧ (hdrOf 0 (rdOf farDesc)).indirect = true ∧
    ((now moving).work? 9).any (fun w => w.done.isNone) = true ∧
    ((now moving).movingBulk 9).any (fun b => b.dir) = true := by decide +kernel

/-- A busy channel's DMA_DONE is read where no freeze holds it (R281). -/
theorem meets_dmaDone : ((now moving).dmaDone 0x1044).isSome = true ∧ bar0Lo 0x1044 = false := by decide +kernel

/-- A message owed on outlet 15 and on the event ring, the last one COAL ago. -/
theorem meets_msixCoalesce :
    (let u := now (ready.updOutlet 15 fun r => { r with msiOwed := true, lastMsi := some 900, coal := 100 })
     (u.outlet 15).msiOwed = true ∧ (u.outlet 15).lastMsi = some 900 ∧ 900 + (u.outlet 15).coal ≤ u.tb) ∧
    (let u := now { ready with evRing := { ready.evRing with msiOwed := true } }
     u.evRing.msiOwed = true ∧ u.evRing.lastMsi = none) := by decide +kernel

/-- An event that waits. -/
def anEvent : Event := NewEvent.record { code := evPtmFail, tb := 10 } 1 0

theorem meets_eventPost : (let u := now { ready with ev := { ready.ev with queue := [anEvent] } }
    u.ev.queue = anEvent :: [] ∧ u.evRing.enable = true ∧ u.pci.d3hot = false ∧
    u.evRing.inUse < 2 ^ u.evRing.sizeLog2) := by decide +kernel

/-- 100 ms without a sign of life, to the tick (R317). -/
theorem meets_hostWatchTimeout : (let u := ({ ready with ev := { ready.ev with watch := true } } : State).at 100000000
    u.ev.watch = true ∧ u.ev.hostLost = false ∧ u.ev.lastSign + 100000000 ≤ u.tb) := by decide +kernel

/-! ### Resets and boot -/

theorem meets_ResetsStartAnew : State.reset.serial.ops = [] ∧ State.reset.boot.perstLow = true ∧
    ready.boot.perstLow = false := by decide +kernel

/-- A part at a boot stage. -/
def booting (st : BitVec 8) : State := { State.reset with boot := { State.reset.boot with stage := st } }

/-- At the ROM stage TB stands still until the time-base PLL has locked (R80), so the state is met as it is. -/
theorem meets_BootGoesThroughStages : ([0x10, 0x20, 0x30, 0x40, 0x50, 0x60, 0x70] : List (BitVec 8)).all (fun st =>
    (now (booting st)).boot.stage == st && !(now (booting st)).boot.ready && !((now (booting st)).die 0).tbLock) = true := by
  decide +kernel

/-! ### Faults and their handling -/

theorem meets_ChannelMonitorsTrip :
    (let u := now (connect ready [511] .fi)
     u.hasChan 511 = true ∧ u.connected 511 = true ∧ (u.chan 511).st.mode = .fi ∧ (u.chan 511).st.rangeSettle = false ∧
     (u.chan 511).st.otPmuLive = false ∧ (u.chan 511).st.otDrvLive = false) ∧
    ((now ready).hasChan 511 = true ∧ (now ready).connected 511 = false ∧ ((now ready).ctx 7 7).cur.isNone = true) := by
  decide +kernel

theorem meets_dieFaults : ((now ready).dieWorks 7 = true ∧ ((now ready).die 7).rps.fault = false) ∧
    ((now ready).hasDie 7 = true ∧ ((now ready).die 7).tbLock = true ∧ ((now ready).die 0).tbLock = true) := by
  decide +kernel

/-- A handling of a fault of a severity on a die. -/
def handlingOf (sev : Sev) (x : Nat) : Handling :=
  { scope := { sev, locKind := 1, location := x }, seq := 1, code := 0x0060, tb := 500, out := true, lockKept := false
    stale := false, later := false }

/-- Die 7 in a DIE handling that waits for its restart, and die 6 with a fault queued. -/
def handling : State :=
  (ready.updDie 7 fun y => { y with st := .recovering, hand := some (handlingOf .die 7) }).updDie 6 fun y =>
    { y with handQ := [handlingOf .die 6] }

/-- What a restart shows where everything works. -/
def recEnv : RecEnv :=
  { started := true, dram := { known := true, ranksM1 := false, density := 0, chFail := 0, lane := 0, eyes := [] }
    tj := 0x190, selfTest := [] }

theorem meets_dieHandlings : ((now handling).die 7).hand = some (handlingOf .die 7) ∧
    (handlingOf .die 7).scope.sev = .die ∧ ((now handling).die 7).st = .recovering ∧ recEnv.started = true ∧
    ((now handling).die 6).hand = none ∧ ((now handling).die 6).handQ = [handlingOf .die 6] ∧
    (∀ o ∈ (now handling).dieNums, ∀ y ∈ ((now handling).die o).hand,
      (now handling).overlap (handlingOf .die 6).scope y.scope = false) := by decide +kernel

theorem meets_bridgeDegrade : 15 < 2 * (now ready).model.dies ∧ (now ready).linkOk ((now ready).linkOfPort 15) = true := by
  decide +kernel

/-! ### Clocks and the lock link -/

/-- The pattern PLL of die 7 changed. -/
def pll7 (f : Pll → Pll) : State := ready.updPll 7 f

/-- The edges of a tracked step and of a relock that began at TB 0. -/
theorem meets_PllsLock :
    (let u := (pll7 fun p => { p with tracking := true, target := some PllSetting.reset }).at (Pll.reset).stepNs
     (u.die 7).pll.tracking = true ∧ (u.die 7).pll.startTb + (u.die 7).pll.stepNs ≤ u.tb) ∧
    (let u := (pll7 fun p => { p with relocking := true }).at 50000
     (u.die 7).pll.relocking = true ∧ u.tb ≤ (u.die 7).pll.startTb + 50000 ∧ (u.die 7).pll.startTb + 50000 ≤ u.tb) ∧
    (let u := now (pll7 fun p => { p with holdover := true })
     (u.die 7).pll.holdover = true ∧ (u.die 7).pll.relocking = false ∧ u.hasDie 7 = true) := by decide +kernel

/-- A PLL_SYNC at TB 1,000 of dies 0 and 7, die 7 out of lock. -/
def syncing : State :=
  { pll7 (fun p => { p with locked := false }) with works := [aWork 1 (.pllSync 0x81 0 1000)] }

theorem meets_PllsLose : ((now ready).hasDie 7 = true ∧ ((now ready).die 7).pll.locked = true) ∧
    (now syncing).work? 9 = some (aWork 1 (.pllSync 0x81 0 1000)) ∧
    ((bitsOf (0x81 : BitVec 8)).filter fun x => hasBit (0 : BitVec 8) x || !((now syncing).die x).pll.locked) = [7] := by
  decide +kernel

/-- A lock link with both ports up. -/
def linked (role : Nat) : State := { ready with link := { ready.link with role, up := true, dn := true } }

/-- A frame and a superframe whose CRC is right, and a frame whose CRC is not (R102, R103). -/
def goodFrame : BitVec 80 := BitVec.ofNat 80 (2 + linkCrc 2 9 * 2 ^ 72)
def goodSuper : BitVec 128 := BitVec.ofNat 128 (1234 + linkCrc 1234 15 * 2 ^ 120)

/-- `linked` after the 32 nibbles of `goodSuper` have come by both ports. -/
def filled (role : Nat) : State :=
  (linked role).updLink fun l => { l with mgmtUp := nibblesOf goodSuper, mgmtDn := nibblesOf goodSuper }

theorem meets_LockLinkMoves : (now (linked 2)).linkSent.link.role ≠ 0 ∧ goodFrame.toNat % 4 = 2 ∧
    linkCrc goodFrame.toNat 9 = goodFrame.toNat / 2 ^ 72 ∧
    (goodFrame + 4).toNat % 4 = 2 ∧ linkCrc (goodFrame + 4).toNat 9 ≠ (goodFrame + 4).toNat / 2 ^ 72 ∧
    linkCrc goodSuper.toNat 15 = goodSuper.toNat / 2 ^ 120 ∧
    ((now (filled 1)).link.mgmtDn = nibblesOf goodSuper ∧ (now (filled 1)).link.role ≠ 0) ∧
    ((now (filled 1)).link.mgmtUp = nibblesOf goodSuper ∧ (now (filled 1)).link.role ≠ 2) ∧
    ((now (filled 2)).link.mgmtUp = nibblesOf goodSuper ∧ (now (filled 2)).link.role = 2) ∧
    (now (linked 1)).link.dn = true ∧ (now (linked 1)).link.up = true := by decide +kernel

/-! ### Triggers -/

theorem meets_TriggersArm : hasBit (now ready).ripple.trigLv 3 ≠ true ∧
    (let u := now ((grouped.updTrig 0 fun g => { g with armAt := some 1000 }).updTrig 1 fun g => { g with armAt := some 1000 })
     u.membersOf 0 = [0, 1] ∧ (u.trig 0).armAt ≠ none ∧ maxOf ([0, 1].filterMap fun k => (u.trig k).armAt) = 1000 ∧
     (u.group 0).span = false ∧ 1000 ≤ u.tb) ∧
    (let u := now ((grouped.updGroup 0 fun g => { g with span := true }).updTrig 0 fun g => { g with armAt := some 1006 })
     (u.group 0).span = true ∧ (u.trig 0).armAt = some 1006 ∧ 1006 ≤ u.tb + 6) ∧
    (let u := now (ready.updTrig 63 fun g => { g with armAt := some 1000 })
     (u.trig 63).armAt ≠ none ∧ 1000 ≤ u.tb) := by decide +kernel

theorem meets_TriggersFire :
    (let u := now { grouped with ripple := { grouped.ripple with fire := grouped.ripple.fire.set 0 [{ at_ := 994, len := 1 }] } }
     ((u.membersOf 0).foldl (fun v k => v.trigFlush k v.tb) u).ripple.fire.getD 0 [] = [{ at_ := 994, len := 1 }] ∧ 994 + 6 ≤ u.tb) ∧
    (let u := now (ready.updTrig 63 fun g =>
      { g with state := .holdoff, holdEnd := some 1000, mine := [(994, 994)], rearmEnd := 1000, disarmAt := some 1000 })
     ((u.trigFlush 63 u.tb).trig 63).mine.foldl (fun ls p => addLine ls p.1 1) [] = [{ at_ := 994, len := 1 }] ∧
     (u.trigFlush 63 u.tb).groupOf 63 = none ∧ 994 + 6 ≤ u.tb ∧ (u.trig 63).holdEnd = some 1000 ∧
     (u.trig 63).state = .holdoff ∧ 1000 ≤ u.tb ∧
     ([63].filter fun k => (u.trig k).disarmAt.any fun x => decide (x ≤ u.tb)) = [63]) ∧
    (let u := now (ready.updTrig 63 fun g => { g with state := .rearm, rearmEnd := 1000 })
     (u.trig 63).state = .rearm ∧ (u.trig 63).rearmEnd ≤ u.tb) := by decide +kernel

/-! ### Measurement, capture and fails -/

/-- One sample without averaging at the stamp of TB 1,000, and the second of two at averaging over 2 (R145, R146). -/
theorem meets_sarSample :
    (let u := (connect ready [511] .fv).at 1030
     u.hasChan 511 = true ∧ [(0x3FFFF : BitVec 18)].length = (u.chan 511).meas.avgM1.toNat + 1 ∧ 0 * 1000 + 30 ≤ u.tb ∧
     (u.tb - 30 - 0 * 1000) / (1 * 1000) * (1 * 1000) = 1000 ∧ (u.chan 511).meas.avgFrom ≤ 1000 ∧
     (u.chan 511).meas.last = 0) ∧
    (let u := ((connect ready [0] .fi).updChan 0 fun c =>
        { c with meas := { c.meas with avgM1 := 1, last := 0x80000000, lastTb := 2000 } }).at 5030
     u.hasChan 0 = true ∧ 2 = (u.chan 0).meas.avgM1.toNat + 1 ∧ (u.tb - 30 - 1 * 1000) / (2 * 1000) * (2 * 1000) = 4000 ∧
     (u.chan 0).meas.avgFrom ≤ 4000 ∧ (u.chan 0).meas.lastTb < 4000) := by decide +kernel

/-- The first interval of a connected channel and of an open one, at its end; a clear at TB 0 of a command and of a run. -/
theorem meets_ChargeIsCounted :
    ([true, false].all fun on =>
     let u := (if on then connect ready [511] .fv else ready).at 100030
     decide (u.hasChan 511 = true ∧ (u.chan 511).st.gangMember = false ∧ 0 + 100030 ≤ u.tb ∧
       (u.chan 511).meas.chgTb < 0 + 100000 ∧
       (((u.capOpened 511 0 30).chan 511).spans u.tb 30 100030).map (·.closed) = [on] ∧
       (u.capOpened 511 0 30).runOfCluster 63 = none)) = true ∧
    ((now { ready with works := [aWork 1 (.chargeClear 63 0x80 0)] }).work? 9 = some (aWork 1 (.chargeClear 63 0x80 0))) ∧
    ((now { running .running with works := [{ aWork 1 .run with tag := 2 }] }).work? 2).any (fun w => w.kind == .run) = true ∧
    ((now { running .running with works := [{ aWork 1 .run with tag := 2 }] }).run? 2 = some (aRun .running)) := by
  decide +kernel

/-- A started recipe window of recipe 15 that opens at TB 1,000. -/
def aWindow : RWindow := { recipe := 15, isOpen := false, start := 1000, insts := [] }

/-- An instance on lane 0 that closes at TB 400 and awaits its pass. -/
def anInstance : Instance :=
  { lane := 0, outs := [], aggs := [], taken := 0, x := default, lost := false, closeAt := some 400, closed := false }

theorem meets_CaptureAndRecipesStep :
    ((now (streaming.updCap 0 0 fun c => { c with startAt := some 1000 })).cap 0 0).startAt = some 1000 ∧
    ((now (active.updCap 0 0 fun c => { c with stopAt := some 1000 })).cap 0 0).stopAt = some 1000 ∧
    (let u := (active.updCap 0 0 fun c => { c with openRec := some { first := 0, samples := [], pre := 0, flags := 0 } }).at
      100000000
     (u.cap 0 0).mode = 1 ∧ (u.cap 0 0).openRec = some { first := 0, samples := [], pre := 0, flags := 0 } ∧
     0 + 100000000 ≤ u.tb) ∧
    (aWindow ∈ ((now (ready.updRed 63 fun r => { r with windows := [aWindow] })).red 63).windows ∧ aWindow.recipe = 15 ∧
      aWindow.isOpen = false ∧ aWindow.insts = [] ∧ aWindow.start ≤ 1000) ∧
    (let u := now ((running .running).updRed 0 fun r =>
      { r with windows := [{ aWindow with isOpen := true, start := 100, insts := [anInstance] }] })
     u.runOfCluster 0 = some (aRun .running) ∧ u.passDue 0 15 = true) := by decide +kernel

/-! ### Runs and their segments -/

/-- An image of cluster 0 with a segment table, branches and a spring plan, placed in vector SRAM at 0, 0x400 and 0x600
(R226, R228). -/
def planned : List Byte := bytesOf 0x180 [(0x12, 3), (0x18, 1), (0x63, 1), (0x100, 4), (0x120, 5), (0x139, 4), (0x140, 9),
  (0x159, 6)]

/-- Vector SRAM: segment 0 of 10 vectors at offset 16 (R234), with a branch or as a DURATION segment where asked, and a
token at 0x800. -/
def vsramOf (branch duration : Bool) (token : Nat) : Mem :=
  Mem.setBytes ramByte (Mem.setBytes ramByte [] 16 (bytesOf 16 [(0, 10), (6, if duration then 1 else 0),
    (13, if branch then 0x80 else 0)])) 0x800 (leBytes 2 token)

/-- The run of that image at `st`, its cluster running segment 0 from TB 100 on with vectors of 10 ns and changed by `f`,
and channel 0 mapped, connected and DIGITAL. -/
def segment (st : RState) (branch duration : Bool) (token : Nat) (f : Seq → Seq) : State :=
  let s := connect ({ runnable with
    images := [{ image with bytes := planned }]
    runs := [{ aRun st with mapped := [0] }] } : State) [0] .digital
  s.updCluster 0 fun c => { c with
    vsram := vsramOf branch duration token
    seq := f { c.seq with state := .running, sigma := 100, period := 10, ptr := 0x800 } }

/-- What its cluster executes. -/
def atNow (s : State) (p : At → Bool) : Bool := ((now s).atSeg 0 .running).any p

/-- Lane 0 is compared for high (code 2) and its comparator shows low. -/
theorem meets_FailsAreRecorded :
    (let s := (segment .running false false 0 fun q => { q with copies := 1, vecInSeg := 1, vecs := 1, word := 8 }).updCluster
      0 fun c => { c with tsets := [List.replicate 8 { d1 := 0, d2 := 0, strobe := 5, ret := 0 }] }
     atNow s (fun a => (now s).failing a 0 0 1 == [0] && decide (0 < a.q.copies))) = true := by decide +kernel

/-- A run at its arm TB with a channel that is open, with all its channels connected, and with a PLL that has moved since. -/
def arming (open_ : Bool) (st : RState) : State :=
  let s := segment st false false 0 fun q => { q with state := .armed }
  let s := { s with runs := s.runs.map fun r => { r with a := 1000, s := 1000 } }
  if open_ then s.updChan 0 fun c => { c with st := { c.st with switchClosed := false } } else s

theorem meets_RunsArm :
    (let u := now (arming true .accepted)
     (u.run? 2).any (fun x => x.state == .accepted && decide (x.a ≤ u.tb) && x.mapped.any fun n => !u.connected n) = true) ∧
    (let u := now ((arming false .accepted).updPll 0 fun p => { p with locked := false })
     (u.run? 2).any (fun x => (u.startErr (u.imgRd x.image) x.group).isSome && decide (x.a ≤ u.tb) &&
       x.mapped.all fun n => u.connected n && !(u.chan n).faulted) = true) ∧
    (let u := now (arming false .accepted)
     (u.run? 2).any (fun x => (u.startErr (u.imgRd x.image) x.group).isNone && (u.running x.group).isNone &&
       x.mapped.all fun n => u.connected n && !(u.chan n).faulted) = true) ∧
    (let u := now (arming false .arming)
     (u.run? 2).any (fun x => x.state == .arming && decide (x.s ≤ u.tb) &&
       (u.runClusters x).all fun k => (u.seq k).state == .armed) = true) := by decide +kernel

/-- The end of segment 0 at TB 200: with an underrun, with a stop that is due, to segment 1, and to the run's end. -/
theorem meets_SegmentsFollow :
    atNow (segment .running false false 0 fun q => { q with underTb := some 150 }) (fun a => decide (tick a.endAt ≤ 1000) &&
      a.r.state != .ending && !a.e.duration && tick a.endAt == 200) = true ∧
    (let s := segment .running false false 0 id
     let s : State := { s with runs := s.runs.map fun r => { r with stopTb := some (200, .ok, 2) } }
     atNow s (fun a => (now s).masterOf a.r.group == some 0 && decide ((200 : Rat) ≤ a.endAt)) = true) ∧
    (let s := segment .running false false 0 id
     atNow s (fun a => (nextSegment ((now s).placed a.r 0 secSegments) ((now s).placed a.r 0 secBranches) a.e a.q.seg a.q.loops
       (a.q.decided.getD false)).map (·.1) == some 1 && a.q.underTb.isNone && !a.e.brEn) = true) ∧
    (let s := segment .running true false 0 fun q => { q with decided := some true }
     let s := s.updCluster 0 fun c => { c with vsram := Mem.setBytes ramByte c.vsram 0x410 [0xFF, 0xFF] }
     atNow s (fun a => (nextSegment ((now s).placed a.r 0 secSegments) ((now s).placed a.r 0 secBranches) a.e a.q.seg a.q.loops
       (a.q.decided.getD false)).isNone && a.e.brEn && a.q.decided.isSome) = true) := by decide +kernel

theorem meets_RunsEnd :
    (let u := now (segment .running false false 0 fun q => { q with state := .done })
     (u.run? 2).any (fun r => r.started && decide (r.endTb ≤ u.tb) &&
       (u.runClusters r).all fun k => (u.seq k).state == .done && u.passesReady k) = true) ∧
    (let u := now (segment .running false false 0 id)
     (u.run? 2).any (fun r => r.started && r.state != .ending && decide (r.firstVec + r.d + r.heldBy u.tb ≤ u.tb) &&
       (u.runClusters r).any fun k => (u.seq k).state != .done) = true) ∧
    (let s := segment .ending false false 0 id
     let u := ({ s with
      runs := s.runs.map fun r => { r with outcome := some (.ok, 2) }
      ripple := { s.ripple with abort := s.ripple.abort.set 31 { at_ := 1000000, len := 1 } } } : State).at 1000006
     (u.runOfCluster 0).any (fun r => r.state == .ending && r.outcome.isSome && decide (r.s ≤ 1000000) &&
       decide (0 < (u.ripple.abort.getD r.group Line.none).len) && decide ((u.ripple.abort.getD r.group Line.none).at_ + 6 ≤ u.tb))
       = true) ∧
    (let u := (segment .running false false 0 id).at 10201
     (u.atSeg 0 .running).any (fun a => a.r.state != .ending &&
       decide (a.endAt + ((imgHdr (u.imgRd a.r.image)).margin : Rat) < (u.tb : Rat))) = true) := by decide +kernel

/-- A segment with a branch, decided from its first event: a deferred request, a decision that is true, one that is false
without and with an event behind it (source 4, TRIG_IN line 0). -/
def branching (f : Seq → Seq) : State :=
  (segment .running true false 0 f).updCluster 0 fun c => { c with vsram := Mem.setBytes ramByte c.vsram 0x416 [4] }

/-- The clock at which the branch is decided (R127). -/
def decideAt (a : At) : Rat := a.endAt - a.q.period - decideLead a.q.period

/-- The events that the decision takes into account and those it cannot see, none of the uncertain ones let through. -/
def parts (s : State) (a : At) : List SrcEvent × List SrcEvent :=
  let b := (now s).brAt a.r 0 a.e.branch
  splitSeen (decideAt a - (now s).latency 0 b) (decideAt a) [] (a.q.srcLog.filter b.watches)

theorem meets_BranchesAreDecided :
    atNow (branching fun q => { q with defer := true, sigma := 700 }) (fun a => a.e.brEn && a.q.decided.isNone &&
      a.q.underTb.isNone && a.q.defer && decide (tick (a.endAt - a.q.period - decideLead a.q.period) ≤ 1000)) = true ∧
    (let s := branching fun q => { q with sigma := 700, srcLog := [{ src := 4, idx := 0, origin := 10, on := true }] }
     atNow s (fun a => ((now s).brAt a.r 0 a.e.branch).cond (parts s a).1 (decideAt a))) = true ∧
    (let s := branching fun q => { q with sigma := 700 }
     atNow s (fun a => !((now s).brAt a.r 0 a.e.branch).cond (parts s a).1 (decideAt a) &&
       (lateEvent ((now s).brAt a.r 0 a.e.branch) a.q.srcLog (parts s a).2 a.endAt).isNone) = true) ∧
    (let s := branching fun q => { q with sigma := 700, srcLog := [{ src := 4, idx := 0, origin := 790, on := true }] }
     atNow s (fun a => !((now s).brAt a.r 0 a.e.branch).cond (parts s a).1 (decideAt a) &&
       (lateEvent ((now s).brAt a.r 0 a.e.branch) a.q.srcLog (parts s a).2 a.endAt).isSome) = true) := by decide +kernel

/-- The tokens of R111 and R113 written out: 00 copies-1 index; 01 n-1; 10; 11 op argument. -/
theorem test_tokens : (([0x3FFF, 0x7FFF, 0x8000, 0xC000, 0xC1FF, 0xC2FF, 0xC303, 0xC4FF, 0xC5FF, 0xC603] : List Nat).map fun w =>
      (((now (segment .running false false w id)).decoding 0).map (·.2))) =
    [Token.dict 4 4095, .repeat_ 16384, .literal, .control 0 0, .control 1 255, .control 2 255, .control 3 3, .control 4 255,
      .control 5 255, .control 6 3].map some := by decide +kernel

/-- A timer at its count, a channel at its instant outside runs and within one. -/
theorem meets_TimersAndCodesStep :
    (let u := now (segment .running false false 0 fun q =>
      { q with timers := q.timers.set 3 { running := true, expired := false, expiry := 1000, stamp := 0 } })
     (u.seq 0).state = .running ∧ ((u.seq 0).timers.getD 3 default).running = true ∧
     ((u.seq 0).timers.getD 3 default).expiry ≤ u.tb) ∧
    ((now ready).hasChan 511 = true ∧ ((now ready).chan 511).isInstant 1000 = true ∧ (now ready).runOfCluster 63 = none) ∧
    (let u := now (segment .running false false 0 id)
     (u.chan 0).isInstant u.tb = true ∧ (u.runOfCluster 0).any (fun r => r.mapped.contains 0) = true ∧
     (u.seq 0).state = .running ∧ (u.seq 0).underTb = none) := by decide +kernel

/-- A spring entry that is queued, and one in flight past its deadline. -/
def spring (issued late : Bool) : SpringQ := { entry := 0, sigma := 100, issued, late, at_ := 0 }

theorem meets_SpringsFlow :
    (let u := now (segment .running false false 0 fun q => { q with springs := [spring false false] })
     (u.runOfCluster 0).any (fun r => decide (tick 100 + (u.springAtEntry r 0 0).issue ≤ u.tb) &&
       u.springRoom r 0 (u.springAtEntry r 0 0) && decide (u.springDue r 0 (spring false false) ≤ u.tb)) = true ∧
     (u.seq 0).springs.find? (fun x => x.entry == 0 && !x.issued) = some (spring false false)) ∧
    (let u := now (segment .arming false false 0 fun q => { q with springs := [spring true false] })
     (u.springRun 0).any (fun r => u.springFrom r 0 && (u.seq 0).landsNext (u.springAtEntry r 0 0) 0) = true ∧
     (u.seq 0).springs.find? (fun x => x.entry == 0 && x.issued) = some (spring true false)) := by decide +kernel

/-- A STRETCH run, changed by `g`, whose cluster runs segment 0. -/
def stretching (st : RState) (g : Run → Run) (f : Seq → Seq) : State :=
  let s := segment st false false 0 f
  { s with runs := s.runs.map fun r => g { r with stretch := true } }

/-- Its HOLD for a late entry, in time at TB 10,100 and too late a tick after. -/
theorem meets_HoldsStretchTheRun :
    ([10100, 10101].all fun t =>
      let u := (stretching .running (fun r => { r with holds := [10100] }) id).at t
      (u.running 31).any fun r => r.stretch && r.state != .ending && r.holds.contains 10100 &&
        ((u.runClusters r).filter fun k => dieOfCluster k == 0 && ((u.seq k).state == .running &&
          (u.seq k).holdAt != some 10100 && decide ((u.seq k).holdTb < 10100))) == [0]) = true ∧
    atNow (stretching .running id fun q => { q with holdAt := some 1000 }) (fun a => a.q.holdAt == some 1000 &&
      a.r.state != .ending && a.q.underTb.isNone) = true ∧
    (let u := now (stretching .hold (fun r => { r with holdTb := some 500, lateEnd := some 900 }) fun q =>
      { q with state := .hold, holdTb := 500 })
     (u.running 31).any (fun r => r.holdTb == some 500 && r.lateEnd == some 900 && r.state == .hold &&
       ((u.runClusters r).filter fun k => (u.seq k).state == .running || (u.seq k).state == .hold) == [0]) = true) ∧
    (((now (stretching .hold id fun q => { q with state := .hold, holdTb := 500, resumeAt := some 1000 })).atSeg 0 .hold).any
      (fun a => a.q.resumeAt == some 1000 && a.r.state != .ending && a.q.period != 0) = true) ∧
    (let s := stretching .hold (fun r => { r with holdTb := some 500 }) fun q => { q with state := .hold, holdTb := 500 }
     let u := s.at 100000501
     (u.running 31).any (fun r => r.stretch && r.state != .ending && decide (100000000 < r.held +
       (match r.holdTb with | some h => u.tb - h | none => 0))) = true) := by decide +kernel

/-! ### The RPS, DRAM and thermal units -/

/-- A connect in progress in context 7 of die 7. -/
def rpsReq : RpsReq := { id := 1, c := 7, lanes := 1, live := 1, tag := none, op := .disconnect, lostAny := false }

/-- A request of die 7's DRAM that has waited since TB 0. -/
def waiting : DramReq :=
  { cls := .host, owner := .house, key := 0, addr := 0x100, len := 64, served0 := 0, served1 := 0, arrival := 0, deadline := 0
    promoted := false, stays := false }

/-- A maintenance window of channel 1 of die 7 ends at TB 1,400; in the 64th one MR4 is read. -/
theorem meets_DieUnitsStep :
    (let u := now (ready.updCtx 7 7 fun c => { c with cur := some rpsReq })
     (u.ctx 7 7).cur = some rpsReq ∧ (u.die 7).rps.loading = false ∧ (u.die 7).rps.fault = false) ∧
    ([0, 62, 63].all fun n => let u := (ready.updDram 7 fun y => { y with windows := [0, n] }).at 1400
      let v := (u.updDram 7 fun y => { y with reqs := y.reqs.filter (u.dramStands 7) }).updDram 7 fun y =>
        (y.serveFrame 1 (u.tb - 400)).refreshed 1 (u.tb - 400)
      u.windowEnds 7 1 && (v.die 7).dram.windows.getD 1 0 == n) = true ∧ ((ready.at 1400).die 7).dram.rateOf (some 2) (some 1) = some 2 ∧
    ((ready.at 1400).die 7).dram.rateOf (some 3) none = none ∧
    (let u := ready.at 1000000000
     u.hasDie 7 = true ∧ (u.die 7).dram.trainTb + (u.die 7).dram.inUse 0 u.tb 2 * 1000000 ≤ u.tb ∧ (u.die 7).dram.st = .full) ∧
    (let u := now (ready.updDram 7 fun y => { y with st := .half, reforming := true })
     (u.die 7).dram.st = .half ∧ (u.die 7).dram.reforming = true) ∧
    (let u := ready.at 100000
     hasBit (u.die 7).dram.chOk 1 = true ∧ (u.die 7).dram.inUse 1 u.tb 1 ≠ 0 ∧ (u.die 7).dram.rankIdle 1 0 u.tb = true ∧
      u.ranksHeld 7 = false) ∧
    (let u := (ready.updDram 7 fun y => { y with reqs := [waiting] }).at 100000
     (u.die 7).dram.st = .full ∧ (let y := ((u.updDram 7 fun y => { y with reqs := y.reqs.filter (u.dramStands 7) }).die 7).dram.gain u.tb
      y.aged u.tb = some 0 ∧ 64 ≤ y.credit .age)) ∧
    ((((now ready).die 7).dram.gain 1000).aged 1000 = none) ∧
    ((now (ready.updDram 7 fun y => { y with fullRun := true })).die 7).dram.fullRun = true := by decide +kernel

theorem meets_ThermalUnitsStep :
    (let u := ready.at 10000000
     u.dieWorks 7 = true ∧ (u.die 7).thm.watching = true ∧ (u.die 7).thm.watchMs ≠ 0 ∧
     (u.die 7).thm.watchTb + (u.die 7).thm.watchMs.toNat * 1000000 ≤ u.tb) ∧
    (let u := now (ready.updThm 7 fun y => { y with extType := 2, convs := [{ sensor := 0, tags := [] }, { sensor := 1, tags := [] }] })
     (u.die 7).thm.convs.length = 2 ∧ u.dieWorks 7 = true ∧ (u.die 7).thm.convTb ≤ u.tb ∧ (u.die 7).thm.extType ≠ 0) ∧
    (let u := now (ready.updThm 7 fun y => { y with st := .throttle, graceTb := 1000, steps := 3 })
     (u.die 7).st = .active ∧ (u.die 7).thm.st = .throttle ∧ (u.die 7).thm.graceTb ≠ 0 ∧ (u.die 7).thm.steps < 4 ∧
     (u.die 7).thm.graceTb ≤ u.tb) := by decide +kernel

/-! ### The serial port -/

/-- A flash operation in hand for tag 9, begun at TB 0. -/
def flashOp : FlashOp := { FlashOp.plain 0 0x1500000 0 9 with data := [0xA5], begun := true }

/-- The serial port with that operation, in attempt `n`, its command's promise at TB 999. -/
def flashing (n : Nat) (f : Serial → Serial) : State :=
  { flashy 0x100 with
    serial := f { (flashy 0x100).serial with ops := [flashOp], busy := true, attempt := n }
    works := [{ aWork 3 (.class3 0x100 50000 none) with promise := 999 }] }

theorem meets_SerialPortSteps :
    ((now ready).serial.ops = [] ∧ ([7, 8].all fun n => let u := now (flashing n id)
      u.serial.busy && u.serial.ops == [flashOp] && u.serial.attempt == n) = true) ∧
    (let u := ({ ready with serial := { ready.serial with mmfLive := true, attempt := 1 } } : State).at 100000
     u.serial.mmfLive = true ∧ u.serial.mmfTb + 100000 * 2 ^ (u.serial.attempt - 1) ≤ u.tb) ∧
    ((now (flashing 0 id)).serial.mmfLive = false ∧ (now (flashing 0 id)).serial.slvActive = false) ∧
    (let u := (flashing 0 id).at 5000000
     flashOp.started + (if (flashOp.cur u.serial.page).1 then u.serial.eraseMax * 1000 else 5000000) ≤ u.tb) ∧
    (let u := now (flashing 0 fun x => { x with busy := false, slvActive := true })
     u.serial.busy = false ∧ u.serial.slvActive = true ∧ flashOp.tag = some 9 ∧
     (u.work? 9).any (fun w => decide (w.promise < u.tb)) = true) ∧
    ((now { ready with ev := { ready.ev with jobs := [anEvent] } }).ev.jobs = [anEvent]) := by decide +kernel

/-- The slave selected. -/
def selected : State := { ready with serial := { ready.serial with slvActive := true } }

/-- The header of a frame: 0xB, its OP, its count of arguments and the CRC of R370. -/
def frameHdr (op : Nat) (args : List Word) : Word :=
  let h := BitVec.ofNat 32 (0xB0000000 + op * 2 ^ 24 + args.length * 256)
  BitVec.ofNat 32 (h.toNat + frameCrc h args)

theorem meets_ManagementFrames : (now selected).serial.slvActive = true ∧ 0x10 ≤ (now selected).boot.stage.toNat ∧
    (([(0, [7]), (1, []), (2, [0x18, 0x3C00]), (3, [0x81]), (4, [1])] : List (Nat × List Word)).all fun x =>
      let h := frameHdr x.1 x.2
      h.toNat / 2 ^ 28 == 0xB && h.toNat / 256 % 256 == x.2.length && frameCrc h x.2 == h.toNat % 256
        && h.toNat / 2 ^ 24 % 16 == x.1) = true ∧ 1 ≤ (0x3C00 : Word).toNat / 256 % 256 ∧
    (0x3C00 : Word).toNat / 256 % 256 ≤ 60 := by decide +kernel

/-! ### Transfers and verification -/

/-- A whole image of cluster 0, laid out by hand from R226 to R241: one DURATION segment of 1 ms on lane 0, vectors of
10 ns, a constant power profile; each piece lists its bytes that are not 0. -/
def goodImage : Rd := fun i =>
  let at_ (l : List (Nat × Byte)) : Byte := ((l.find? fun p => Nat.beq p.1 i).map (·.2)).getD 0
  let ff (a n : Nat) : Byte := if Nat.ble a i && Nat.blt i (a + n) then 0xFF else 0
  let dir (b typ cluster off size sram : Nat) : Byte :=
    if i = b then BitVec.ofNat 8 typ else if i = b + 1 then BitVec.ofNat 8 cluster else if i = b + 4 then 1
    else if i = b + 8 then BitVec.ofNat 8 off else if i = b + 9 then BitVec.ofNat 8 (off / 256)
    else if i = b + 16 then BitVec.ofNat 8 size
    else if sram = 0 then ff (b + 24) 4 else if i = b + 25 then BitVec.ofNat 8 (sram / 256) else if i = b + 28 then 80 else 0
  if i < 0x90 then
    at_ [(0, 0x51), (1, 0x4D), (2, 0x49), (3, 0x47), (4, 1), (5, 3), (7, 1), (8, 1), (0x10, 7), (0x12, 6), (0x18, 1), (0x21, 3),
      (0x50, 0x40), (0x51, 0x42), (0x52, 0x0F), (0x63, 1), (0x6A, 1), (0x71, 0x40), (0x7C, 100)]
  else if i < 0x100 then ff 0x90 8
  else if i < 0x120 then dir 0x100 1 0xFF 0x1C0 128 0
  else if i < 0x140 then dir 0x120 2 0 0x240 64 0
  else if i < 0x160 then dir 0x140 3 0 0x280 128 0
  else if i < 0x180 then dir 0x160 4 0 0x300 128 0x4000
  else if i < 0x1A0 then dir 0x180 11 0xFF 0x380 64 0
  else if i < 0x1C0 then dir 0x1A0 12 0xFF 0x3C0 64 0
  else if i < 0x240 then at_ [(0x1C1, 1), (0x1C2, 2)]
  else if i < 0x280 then at_ [(0x241, 0x40), (0x243, 0x40), (0x245, 0x40), (0x247, 0x40), (0x249, 0x40), (0x24A, 0xA3),
    (0x24B, 0xF0), (0x24C, 0x5D), (0x24D, 0x0F)]
  else if i < 0x2E0 then (if 3 ≤ (i - 0x280) % 12 ∧ (i - 0x280) % 12 < 9 then 0xFF else 0)
  else if i < 0x380 then at_ [(0x300, 1), (0x302, 1), (0x310, 1), (0x312, 8), (0x314, 100), (0x324, 96), (0x325, 12),
    (0x326, 1), (0x328, 1), (0x330, 0x40), (0x331, 0x42), (0x332, 0x0F), (0x336, 1), (0x349, 0x20)]
  else if i < 0x3C0 then at_ [(0x384, 100), (0x388, 1), (0x398, 100)]
  else at_ [(0x3CA, 1), (0x3D1, 0x40)]

/-- The image's header and directory pass the checks of a load (R247), and the checks of IMAGE_VERIFY find nothing (R249). -/
theorem test_imagePasses : (ready.headErr goodImage 0x400 true).isNone = true ∧ directoryOk goodImage = true ∧
    dieBytesOk goodImage [4, 0, 0, 0, 0, 0, 0, 0] = true ∧ verifyFails goodImage = [] := by decide +kernel

/-- A segment of length 0 fails as SEGMENT, a load peak that no block has as BUDGET_BLOCK (R227, R249). -/
theorem test_imageFails : ((verifyFails fun i => if i = 0x330 ∨ i = 0x331 ∨ i = 0x332 then 0 else goodImage i).map (·.detail)).head?
      = some 0x15 ∧ (verifyFails fun i => if i = 0x7C then 99 else goodImage i).map (·.detail) = [0x25] := by decide +kernel

/-- A part that verifies an image for tag 9: one without clusters has nothing to fail, one whose BUDGET is not its own
does. -/
def verifying (bytes : List Byte) : State :=
  { ready with images := [{ image with state := .verifying, bytes }], works := [aWork 2 (.verify 1)] }

theorem meets_verificationDone : (now (verifying [])).work? 9 = some (aWork 2 (.verify 1)) ∧
    ((now (verifying [])).image? 1).any (fun i => i.state == .verifying) = true ∧
    verifyFails ((now (verifying [])).imgRd 1) = [] ∧ verifyFails ((now (verifying (bytesOf 0x80 [(0x7C, 1)]))).imgRd 1) ≠ [] := by
  decide +kernel

theorem meets_TransfersMove :
    (let u := now { moving with bulks := moving.bulks.map fun b => { b with moving := false } }
     (u.bulks.find? fun b => b.tag == 9 && b.die == 0).any (fun b => !b.moving && !b.done && decide (b.start ≤ u.tb)) = true) ∧
    ((now moving).work? 9).any (fun w => w.done.isNone && w.kind == .bulk && w.deadline != 0 && decide (w.deadline ≤ 1000)) =
      true ∧
    ((now moving).bulks.find? fun b => b.tag == 9 && b.die == 0).any (fun b => b.moving && !b.done) = true := by decide +kernel

/-! ### The whole block -/

theorem meets_StepRunsFront : ({ ready with pending := [Instr.mmf 5] } : State).pending = [Instr.mmf 5] ∧
    State.reset.pending = [] := by decide +kernel

theorem reset_canonical : State.reset.canonical := by
  unfold State.canonical Die.canonical Cluster.canonical; decide +kernel

theorem reset_sized : State.reset.sized := by unfold State.sized; decide +kernel

/-- A command whose WANT_REPLY is clear fails its checks (R308), and a class 1 command that meets an outlet with 15 of its 16
entries in use has no room. -/
theorem meets_DescriptorChecksAnswer :
    (ready.received (.channelDisconnect 1000 { hdr with want := false } 0 1)).any (fun x =>
      x.2.2.descErr x.1 (.channelDisconnect 1000 { hdr with want := false } 0 1) x.2.1 == some (.badArg, dFlags)) = true ∧
    (let s := ready.updOutlet 0 fun r => { r with sizeLog2 := 4, index := 15 }
     (s.received (.channelDisconnect 1000 hdr 0 1)).any fun x => x.1.cls != 0 && decide (x.2.2.room 0 < 2)) = true ∧
    (let s := { ready with tags := (List.range 4032).map fun i => { tag := BitVec.ofNat 12 (63 + i), cls := 1 } }
     (s.received (.channelDisconnect 1000 hdr 0 1)).any fun x => x.1.cls != 0 && decide (4032 < x.2.2.heavyTags)) = true := by
  decide +kernel

/-- A request that the weir accepts, and one beyond its horizon that it refuses. -/
theorem meets_WeirDecisionHolds :
    (let a := ready.bulkAsk hdr [{ die := 0, bytes := 4096, dir := true }]
     accepted (ready.weirDecide ready.table a) && !accepted (ready.weirDecide ready.table { a with horizon := some 0 })) = true ∧
    (match ready.grants 10000 [{ die := 0, bytes := 4096, dir := true }, { die := 7, bytes := 4096, dir := false }] ready.table []
       with
     | .inr gs => gs.length == 2
     | .inl _ => false) = true := by decide +kernel

theorem meets_MemoriesReadBack : Mem.wf ramByte [(5, 1), (7, 2)] = true ∧ Mem.wf ramByte [(7, 2), (5, 1)] = false ∧
    Mem.wf ramByte [(5, 0)] = false ∧ Mem.wf flashByte ready.serial.flash = true := by decide +kernel

/-- A device queue whose other entries are full, with one INFO event that is dropped for a DEGRADE event (R348). -/
def fullQueue : State :=
  let info := NewEvent.record { code := evPtmFail, tb := 1 } 1 0
  let other := NewEvent.record { code := evThrottle, tb := 1 } 2 0
  ready.updEv fun v => { v with queue := info :: List.replicate 1007 other }

theorem meets_DeviceQueue : (fullQueue.ev.queue.filter fun x => !x.kept).length = 1008 ∧ evSev evThrottle ≠ .info ∧
    evSev evPtmFail = .info ∧ (NewEvent.record { code := evPtmFail, tb := 1 } 1 0).kept = false ∧ 1 ≤ fullQueue.ev.seqNext := by
  decide +kernel

/-- Two commands of one inlet and lock group, the later one done: its reply waits (R219). -/
theorem meets_FinalReplies :
    (let r : Reply := { opcode := 0, status := .ok, detail := 0, tag := 8, epoch := 0, tb := 0, result := 0 }
     let a : Work := { aWork 1 .plain with group := some 3 }
     let b : Work := { aWork 1 .plain with tag := 8, group := some 3, done := some (r, 0) }
     (({ ready with works := [a, b] } : State).settle.works == [a, b] &&
      ({ ready with works := [b, a] } : State).settle.works == [a])) = true := by decide +kernel

theorem meets_Refusals : (([Status.refusedTime, .refusedBandwidth, .refusedPower, .refusedSlots, .refusedUncal].map
    refuseIndex) = [0, 1, 2, 3, 4].map some) := by decide +kernel

/-! ### What well-formedness refuses: one ill-formed term for each check -/

/-- What a training shows, well formed. -/
def env4 : DramEnv :=
  { known := true, ranksM1 := false, density := 1, chFail := 0, lane := 0, eyes := List.replicate 4 (128, 64, 128, 64) }

/-- What a restart shows, well formed. -/
def rec8 : RecEnv := { started := true, dram := env4, tj := 0x0640, selfTest := List.replicate 8 0 }

/-- What a boot shows, well formed. -/
def boot8 : BootEnv :=
  { width := 16, speed := 5, upTo := 8, stageTb := List.replicate 8 0, romOk := true, refOk := true, flashFail := 0
    sizeMib := 128, pageLog2 := 8, mode := 0, clkDiv := 10, eraseMax := 2000, readFailA := false, readFailB := false
    fwOk := true, portsDown := 0, fwFail := 0, alignFail := 0, dram := List.replicate 8 env4, tj := List.replicate 8 0x0640
    selfTest := List.replicate 64 0, rpsFail := 0, kelvin := [511] }

/-- Well-formed commands at the edges of their ranges. -/
theorem test_wellFormed : ([Instr.channelConnect 0 hdr 255 0 0 0 0 lv, .imageLoad 0 hdr 0 0 (List.replicate 8 0),
    .calWrite 0 hdr 0 0 2 0 [1, 2], .calStep 0 hdr 0 (List.replicate 12 0) [], .regWrite 0 hdr 0 2 [1, 2],
    .slvEcho 0 [0], .registerWrite 0 (.bar0 0xFFFFC) 0 15, .registerWrite 0 (.die 7 0xFFFFFC) 0 15,
    .descriptorFetch 0 15 (List.replicate 64 0) none 0, .bulkComplete 0 0xFFF 7 [], .perstNRelease 0 boot8,
    .handlingDequeue 0 7 (some rec8), .protTrip 0 511 true, .bridgeDegrade 0 15, .rippleArm 0 0 31, .rippleArm 0 1 63,
    .captureDrain 0 63 15, .rpsDone 0 7 7 0, .hold 0 31 0 7, .dramPowerDown 0 7 1 1,
    .fullRetrainDone 0 7 env4].all Instr.wellFormed) = true := by decide +kernel

/-- Lists of another length than their register, descriptor or length field gives (R306 to R331, R371). -/
theorem test_refuses_lengths : ([Instr.channelConnect 0 hdr 0 0 0 0 0 (0 :: lv), .channelForce 0 hdr 0 0 0 0 [],
    .imageLoad 0 hdr 0 0 (List.replicate 7 0), .calWrite 0 hdr 0 0 3 0 [1, 2], .nvmWrite 0 hdr 0 1 0 [],
    .calStep 0 hdr 0 (List.replicate 11 0) [], .regWrite 0 hdr 0 3 [1, 2], .slvEcho 0 [], .slvStatus 0 [],
    .slvRegRead 0 [], .slvThermal 0 [], .slvStill 0 [], .descriptorFetch 0 0 (List.replicate 63 0) none 0,
    .hostDmaFail 0 (.descriptor 0) (List.replicate 65 0)].all fun c => !c.wellFormed) = true := by decide +kernel

/-- Register addresses past their window, or not of a word (R29, R284). -/
theorem test_refuses_addresses : ([Instr.registerWrite 0 (.bar0 0x100000) 0 15, .registerWrite 0 (.bar4 0x4000) 0 15, .rcRead 0 .bar0 (.bar4 2) 15, .registerWrite 0 (.bar0 2) 0 15,
    .rcRead 0 .diag (.die 8 0) 15, .rcRead 0 .bar0 (.die 0 0x1000000) 15,
    .loReadLatch 0 .bar0 (.die 0 0x101)].all fun c => !c.wellFormed) = true := by decide +kernel

/-- Numbers of dies, ports, clusters, groups, streams, channels and ranks out of range (R7, R16, R17, R28, R153). -/
theorem test_refuses_numbers : ([Instr.bulkComplete 0 0 8 [], .bulkTransferStart 0 0 8 [], .fwWatchdog 0 8 none none,
    .dieRecoveryTimeout 0 8, .handlingDequeue 0 8 none, .protTrip 0 512 true, .senseDiverge 0 512,
    .overtempStage 0 512 true, .otFlagClear 0 512 true, .pllLol 0 8, .holdoverExit 0 8, .relockDone 0 8 true,
    .trackedStepDone 0 8, .guardHit 0 8, .tbpllLol 0 8 none none, .rpsFault 0 8 0 0 0 none none, .bridgeDegrade 0 16,
    .rippleArm 0 0 32, .rippleFire 0 1 64, .holdoffEnd 0 64, .rearmEnd 0 64, .disarmTick 0 0 32, .rippleAbort 0 64,
    .refdacUpdate 0 8, .captureStartTick 0 64 0, .captureStopTick 0 0 16, .segmentStart 0 64, .branchDecision 0 64 [true],
    .dict 0 64, .repeatTok 0 64, .literal 0 64, .nop 0 64, .swap 0 64, .timerStart 0 64, .timerStop 0 64,
    .maskStrobe 0 64, .unmaskStrobe 0 64, .seqEvent 0 64, .clusterTimerExpiry 0 64 0, .failLogEntry 0 64 0 0 0 true,
    .dacUpdateInstant 0 512].all fun c => !c.wellFormed) = true := by decide +kernel

theorem test_refuses_more_numbers : ([Instr.springIssue 0 64 0, .springComplete 0 64 0, .springLate 0 64 0,
    .hold 0 32 0 0, .hold 0 0 0 8, .holdEntry 0 64, .resume 0 32, .timelineResume 0 64, .stretchLimit 0 32,
    .segWatchdog 0 64, .sarSample 0 512 [] true true true true, .chargeIncrement 0 512 0 0 true true true true true,
    .gapRecord 0 64 0, .recordCloseTimeout 0 0 16, .captureDrain 0 64 16, .windowOpen 0 64 0, .closePass 0 64 0,
    .rpsDone 0 8 0 0, .rpsDone 0 0 8 0, .maintenanceWindow 0 8 0 none none 0 0, .maintenanceWindow 0 0 2 none none 0 0,
    .retrainInterval 0 8, .reformDone 0 8, .dramPowerDown 0 8 0 0, .dramPowerDown 0 0 2 0, .dramPowerDown 0 0 0 2,
    .agePromotion 0 8, .thermalWatch 0 8, .thermalConversion 0 8 none none none, .graceExpiry 0 8,
    .fullRetrainDone 0 8 env4].all fun c => !c.wellFormed) = true := by decide +kernel

/-- What the world shows, with a list of another length or a number out of range (R255, R342, R436 to R443). -/
theorem test_refuses_surroundings : ([Instr.fullRetrainDone 0 0 { env4 with eyes := [] },
    .handlingDequeue 0 0 (some { rec8 with dram := { env4 with eyes := [] } }),
    .fwWatchdog 0 0 (some { rec8 with selfTest := [] }) none, .tbpllLol 0 0 none (some { boot8 with stageTb := [] }),
    .perstNRelease 0 { boot8 with upTo := 9 }, .perstNRelease 0 { boot8 with dram := [] },
    .perstNRelease 0 { boot8 with dram := List.replicate 8 { env4 with eyes := [] } },
    .perstNRelease 0 { boot8 with tj := [] }, .perstNRelease 0 { boot8 with selfTest := [] },
    .perstNRelease 0 { boot8 with kelvin := [512] }, .rpsFault 0 0 0 0 0 none (some { boot8 with tj := [] }),
    .thermalConversion 0 0 none (some { rec8 with selfTest := [] }) none].all fun c => !c.wellFormed) = true := by
  decide +kernel

/-! ### One step each, against values worked out by hand -/

/-- The queue is taken first in, first out. -/
theorem test_frontFirst : gives (step { ready with pending := [.heartbeat 10 hdr, .d3hotEntry 20] }) (fun u =>
    u.pending == [.d3hotEntry 20]) = true := by decide +kernel


/-- The channel number of 3:5:2 (R7, with the example there). -/
theorem test_channelNumber : chanOf (3 * 8 + 5) 2 = 234 := by decide +kernel

theorem meets_ItemsAreNumbered : 7 < 8 ∧ chanOf (7 * 8 + 7) 7 = 511 := by decide +kernel

/-- The clamp codes and the range of R47's gang: 27.5 mA either way on range 5. -/
theorem meets_LevelsStandForValues : fullScale 5 = 32 ∧ levelI 55296 (fullScale 5) = 55 / 2 ∧
    levelI 10240 (fullScale 5) = -(55 / 2) ∧ levelV 0 = -3 := by decide +kernel

/-- The descriptor of R331's example: CHANNEL_CONNECT of cluster 19, lane 4, FV on range 5, with the gang's codes. -/
theorem test_connectDescriptor :
    (let bytes : List Byte := [0x11, 0x00, 0x01, 0x01, 0x23, 0x01, 0x16, 0x00, 0, 0, 0, 0, 0, 0, 0, 0,
       0x13, 0x10, 0x02, 0x05, 0x9A, 0x19, 0x02, 0x00, 0x00, 0x40, 0x00, 0x40, 0x00, 0x40, 0x00, 0x40,
       0x00, 0x40, 0x00, 0xD8, 0x00, 0x28] ++ List.replicate 26 0
     match readDescr 2 (fun i => bytes.getD i 0) none with
     | .inr d => d.cls == 1 && d.h.tag == 0x123 && d.h.inlet == 2 && d.bare == .channelConnect 0 d.h 19 0x10 2 5 137626
         [0x4000, 0x4000, 0x4000, 0x4000, 0x4000, 55296, 10240]
     | .inl _ => false) = true := by decide +kernel

/-- A gang of four limited to 110 mA at 3.300 V charges 913 mW (R208). -/
theorem test_gangCharge : (chargeOf .fv 5 { force := 137626, levels := [0, 0, 0, 0, 0, 55296, 10240] } 4).floor = 913 := by
  decide +kernel

/-- The settings of R86's example, before and after a step of +150 ppm: 625 ps, and 15 us of slewing (R88). -/
theorem test_marginStep :
    (let a : PllSetting := { frac := 0, nint := 96, post := 6, dither := false, seed := 1 }
     let b : PllSetting := { a with frac := 61847529 }
     let p := { (ready.die 2).pll with set := a }
     (a.t4 == 5 / 8 && p.tracks b && (p.track b 3000000000).stepNs == 15000)) = true := by decide +kernel

/-- 600 bytes in four pages at 200 MB/s are written within 20,156.24 us (R363). -/
theorem test_writeBound :
    ({ ready.serial with dataW := 3, ddr := true, div := 40, pageLog2 := 8 } : Serial).writeBound 0x14200C0 600 = 20156240 := by
  decide +kernel

/-- The run of the worked admission: 4,314,304 ns from A to S, and on die 2 spring 13,616 of 16,000 (R203, R207). A run
with 10,500 MB/s beside group 6 instead needs 17,500. -/
theorem test_workedAdmission :
    (let tab (p : Nat) : List Resv := [{ lo := 0, hi := some 23500000000, die := 2, spring := 7000, bw := 7000, load := 6200 },
       { lo := 0, hi := none, die := 2, bw := 64 },
       { lo := 20004327000, hi := some 20006992920, die := 2, spring := p, bw := p, load := 2400 }]
     (startLatency [(8388608, 6616, 2400)] == 4314304 &&
      (ready.shortSpring (tab 6616) [2] 20000012696 (some 20006992920)).isNone &&
      (ready.shortDram (tab 6616) [2] 20000012696 (some 20006992920)).isNone &&
      ((ready.shortSpring (tab 10500) [2] 20000012696 (some 20006992920)).map fun x => (x.die, x.required, x.available))
        == some (2, 17500, 16000))) = true := by decide +kernel

/-- SAR_V of R394's example: its OFFSET, and its GAIN to the last unit of the text's rounded figures. -/
theorem test_sarPair :
    (let p := sarPair (50012 / 10000) (262209 * 16384) (698771 * 16384)
     (p.2 == -5360 && decide ((p.1 - 1074847446).natAbs ≤ 1))) = true := by decide +kernel

/-- Eight words from CH_DAC_DIV of channel 3:5:2: four belong to the channel's block (R289, R305). -/
theorem test_diagRead :
    gives (exec (.diagGo 10 8) { ready with diag := { ready.diag with addrHi := 0x78, addrLo := 0x00010AB0 } })
      (fun u => u.diag.status == 8 && u.diag.valid == 4 && u.diag.data.getD 4 1 == 0) = true := by decide +kernel

/-- At phase 0 the resampler gives the sample three before the newest: x(34) for i = 37 (R131). -/
theorem test_resampler :
    (let hist := [103700, 103600, 103500, 103400, 103300, 103200, 103100, 103000]
     Wave.code { index := 0, i := 37, num := 0, hist, ended := false, stalled := false } 400) = 103400 := by decide +kernel

/-- Die 6 of eight is two hops away through port DOWN (R21). -/
theorem test_bridgePath : ready.bridgePath 6 true = ([13, 15], false) := by decide +kernel

/-- The published check values of CRC-32 for "123456789" and of SHA-256 for "abc". -/
theorem test_digests : crc32 [0x31, 0x32, 0x33, 0x34, 0x35, 0x36, 0x37, 0x38, 0x39] = 0xCBF43926 ∧
    (sha256 [0x61, 0x62, 0x63]).take 4 = [0xBA, 0x78, 0x16, 0xBF] := by decide +kernel

/-- Step and queue together: an inlet doorbell in front moves the host's index and leaves the rest waiting (R296). -/
theorem test_doorbell : gives (step { ready with pending := [.inletDb 10 0 1, .d3hotEntry 20] }) (fun u =>
    u.pending == [.d3hotEntry 20] && (u.inlets.map fun x => x.peer.toNat).take 2 == [1, 0]) = true := by decide +kernel

/-- R430's stores: the entry point of kind 0x3A7 is word 0x10, whose three microwords strobe, wait for the timer that
nano-word 5 sets to 2,000 cycles, and go to 0x3A9. -/
def storeOf : Rps :=
  { Rps.reset with
    matchRegs := (0x3A7, 0x10, true) :: List.replicate 15 (0, 0, false)
    micro := List.replicate 16 0 ++ [0x080005, 0x401064, 0x1003A9] ++ List.replicate 237 0
    nano := List.replicate 5 0 ++ [BitVec.ofNat 128 (2000 * 2 ^ 80 + 4)] }

/-- What a lane that nothing is known of shows. -/
def quiet : MicroIn :=
  { mask := 1, chans := [0], check := 0, closed := 0, connected := 0, rangeUp := false, mode := 0, range := 0, kind := 0
    gang := 1, hwStill := false, calrFree := true, calrTaps := 0, caltTaps := 0 }

/-- A microprogram begun at TB 1,000 whose slots come every 80 ns: the wait ends 20 us after its timer was set (R422 to R425). -/
theorem test_microprogram :
    (let m : Micro := { Micro.reset with pc := 0x3A7, stop := none, next := 1080 }
     (m.upTo storeOf quiet 21160).pc = 0x1012 ∧ (m.upTo storeOf quiet 21240).pc = 0x3A9) := by decide +kernel

/-- An MSI-X vector that is unmasked while it pends is sent: its PBA bit clears (R297). -/
theorem test_unmaskSends :
    gives (exec (.registerWrite 10 (.bar4 0xC) 0 15) { ready with pci := { ready.pci with maskAll := BitVec.allOnes 64, pba := 3 } })
      (fun u => u.pci.pba == 2) = true := by decide +kernel

end Sys2Proof.Tests
end

section
/-! The numbers of clusters, lanes, channels and lock groups (R5). -/

namespace Sys2Proof.Machine

theorem chanOf_die_cluster (d c l : Nat) : chanOf (d * 8 + c) l = d * 64 + c * 8 + l := by
  unfold chanOf
  omega

theorem chanOf_lt {k l : Nat} (hk : k < 64) (hl : l < 8) : chanOf k l < 512 := by
  unfold chanOf
  omega

theorem clusterOf_chanOf {k l : Nat} (hl : l < 8) : clusterOf (chanOf k l) = k := by
  unfold clusterOf chanOf
  omega

theorem laneOf_chanOf {k l : Nat} (hl : l < 8) : laneOf (chanOf k l) = l := by
  unfold laneOf chanOf
  omega

theorem dieOfCluster_mul_add {d c : Nat} (hc : c < 8) : dieOfCluster (d * 8 + c) = d := by
  unfold dieOfCluster
  omega

/-- R5 numbers the items of every model alike, so this is said of every model, not of `State.reset` alone. -/
theorem State.sized_resetOf (m : Model) : (State.resetOf m).sized := by
  unfold State.sized State.resetOf
  simp only [List.length_map, List.length_range, List.length_replicate, and_self]

/-- Settles O51: a cluster number carries its die and a channel number its cluster and lane, as digits of base 8, so
each is read back from the number below; and the tables after reset have a place for each die and lock group. -/
theorem itemsAreNumbered : Obligations.ItemsAreNumbered := by
  refine ⟨fun d c l hd hc hl => ?_, fun m => ?_⟩
  · have hk : d * 8 + c < 64 := by omega
    rw [← chanOf_die_cluster]
    exact ⟨rfl, chanOf_lt hk hl, dieOfCluster_mul_add hc, hk, clusterOf_chanOf hl, laneOf_chanOf hl⟩
  · obtain ⟨hdies, -, -, -, -, hgroups⟩ := State.sized_resetOf m
    exact ⟨hgroups, hdies⟩

end Sys2Proof.Machine
end

section
/-! What a level code stands for (R47), and the standing charge of a channel in FV and in FI (R55, R208). -/

namespace Sys2Proof.Machine

/-- R47: 0 of the voltage scale is −3.000 V. -/
theorem levelV_eq (code : Nat) : levelV code = -3 + (code : Rat) * 12 / 65536 := by
  rw [levelV, Rat.sub_eq_add_neg, Rat.add_comm]

/-- R47: the LSB of a level voltage is the same at every code. -/
theorem levelV_succ_sub (n : Nat) : levelV (n + 1) - levelV n = 12 / 65536 := by
  rw [levelV_eq, levelV_eq]
  grind

theorem levelV_midscale : levelV 0x4000 = 0 := by decide +kernel

/-- The magnitude that `chargeOf` takes of a current is the larger of the current and its negative. -/
theorem ite_neg_eq_max_neg (a : Rat) : (if a < 0 then -a else a) = max a (-a) := by
  split
  next hneg => grind
  next hpos => grind

variable (range m : Nat) (x : Codes) {hi lo : BitVec 16}

/-- In FV the clamp codes stand for currents (R55): the larger magnitude of the two, capped, limits the charge. -/
theorem chargeOf_fv (hhi : x.levels.getD 5 0 = hi) (hlo : x.levels.getD 6 0 = lo) :
    chargeOf .fv range x m =
      (m : Rat) * min (max (max (levelI hi.toNat (fullScale range)) (-levelI hi.toNat (fullScale range)))
        (max (levelI lo.toNat (fullScale range)) (-levelI lo.toNat (fullScale range)))) (21 / 20 * fullScale range)
      * max (23 / 2 - forceV x.force.toNat) (forceV x.force.toNat + 5) := by
  simp only [chargeOf, hhi, hlo, ite_neg_eq_max_neg]

/-- In FI the clamp codes stand for voltages (R55): they bound the voltage that the forced current meets. -/
theorem chargeOf_fi (hhi : x.levels.getD 5 0 = hi) (hlo : x.levels.getD 6 0 = lo) :
    chargeOf .fi range x m =
      (m : Rat) * min (max (forceI x.force.toNat (fullScale range)) (-forceI x.force.toNat (fullScale range)))
        (21 / 20 * fullScale range)
      * max (23 / 2 - levelV lo.toNat) (levelV hi.toNat + 5) := by
  simp only [chargeOf, hhi, hlo, ite_neg_eq_max_neg]

end Sys2Proof.Machine
end

section
namespace Sys2Proof.Machine

/-- Settles O52: the voltage scale with its step and its 0 V by arithmetic, the current scale as the model defines it,
and the charge in FV and in FI with CLAMP_HI and CLAMP_LO read from places 5 and 6 of the level set (R231). -/
theorem levelsStandForValues : Obligations.LevelsStandForValues := by
  refine ⟨fun code => levelV_eq code.toNat, levelV_succ_sub, levelV_midscale, fun _ _ => rfl, ?_⟩
  rintro range m force vih vil vtt voh vol hi lo x fs rfl rfl
  exact ⟨chargeOf_fv range m _ rfl rfl, chargeOf_fi range m _ rfl rfl⟩

end Sys2Proof.Machine
end

section
/-! What a refusal counts (R223, R224): a count has one equation, and a reply leaves the weir. -/

namespace Sys2Proof.Machine

/-! ### Posting a reply leaves the weir -/

@[simp] theorem State.sendMsi_weir (s : State) (v : Nat) : (s.sendMsi v).weir = s.weir := by
  unfold State.sendMsi
  split
  · exact State.updPci_weir ..
  · exact State.updOut_weir ..

@[simp] theorem State.hostWrite_weir (s : State) (a : Nat) (bs : List Byte) : (s.hostWrite a bs).weir = s.weir := by
  rw [State.hostWrite, State.updOut_weir, State.updPci_weir]

@[simp] theorem State.signalOutlet_weir (s : State) (o : Nat) : (s.signalOutlet o).weir = s.weir := by
  unfold State.signalOutlet
  simp only
  split
  · rw [State.sendMsi_weir, State.updOutlet_weir, State.hostWrite_weir]
  · rw [State.updOutlet_weir, State.hostWrite_weir]

@[simp] theorem State.misc_weir (s : State) (c : MiscCause) : (s.misc c).weir = s.weir := by
  rw [State.misc, State.sendMsi_weir, State.updPci_weir]

@[simp] theorem State.freeTag_weir (s : State) (tag : BitVec 12) : (s.freeTag tag).weir = s.weir := rfl

@[simp] theorem State.writeReply_weir (s : State) (o : Nat) (r : Reply) (last : Bool) :
    (s.writeReply o r last).weir = s.weir := by
  cases last with
  | false => simp [State.writeReply]
  | true => simp [State.writeReply]

/-- A reply leaves the weir, whether it is written to its outlet or held. -/
@[simp] theorem State.post_weir (s : State) (o : Nat) (r : Reply) (last : Bool) (cause : Nat) (g : Option Nat)
    (dies : BitVec 8) : (s.post o r last cause g dies).weir = s.weir := by
  unfold State.post
  simp only
  split
  · exact State.writeReply_weir ..
  · rw [State.misc_weir, State.updOutlet_weir]

@[simp] theorem State.single_weir (s : State) (d : Desc) (own : Bool) (st : Status) (e : Nat) (r : BitVec 128) :
    (s.single d own st e r).weir = s.weir := State.post_weir ..

/-! ### The count of a refusal -/

/-- A counted status adds one, saturating, to its own counter of the inlet, and answers the new count. -/
theorem State.countRefusal_eq (s : State) (i : Nat) {st : Status} {x : Nat} (hx : refuseIndex st = some x) :
    s.countRefusal i st =
      (inc32 (s.weir.refuse.getD (i * 5 + x) 0),
        { s with weir := { s.weir with
            refuse := s.weir.refuse.set (i * 5 + x) (inc32 (s.weir.refuse.getD (i * 5 + x) 0)) } }) := by
  simp only [State.countRefusal, hx]

/-- Settles O60: a refusal replies from the state and with the count that `State.countRefusal_eq` gives, the counters
stand in the order of WEIR_REFUSE_CNT (R223), and a single reply leaves the weir as every reply does. -/
theorem refusalsAreCounted : Obligations.RefusalsAreCounted := by
  refine ⟨?counted, ⟨rfl, rfl, rfl, rfl, rfl⟩, State.single_weir⟩
  case counted =>
    rintro s d r x n hx rfl
    rw [State.refuse, State.countRefusal_eq s _ hx]

end Sys2Proof.Machine
end

section
/-! SUPPORT. The order of the memories and banks is kept: `a.Keeps s` says that `s` is canonical where the frame `a`
starts canonical, sized where it starts sized, and at an instant of the frame while it holds an accepted command, so that one lemma for each operation serves these invariants. The lemmas are named after the operation that they carry a
state through, `h.post : a.Keeps (s.post ..)`, so that a proof names the operations in the order in which the model
applies them. -/

namespace Sys2Proof.Machine

set_option Elab.async false

/-- What is followed from the state `start` on: its memories and banks, and at which `instant` commands are accepted. -/
structure Frame where
  start : State
  instant : Tb → Prop

/-- A frame that looks at no instant: with `p` false, no command is accepted. -/
abbrev State.steady (s : State) (p : Prop) : Frame := ⟨s, fun _ => p⟩

/-- The memories and banks alone are followed. -/
abbrev State.untimed (s : State) : Frame := s.steady True

/-- `s` has its memories in canonical form where the start of `a` has them so, and its banks in size where that has them
so, and it is at an instant of the frame unless no command is accepted (a reset has begun anew). -/
def Frame.Keeps (a : Frame) (s : State) : Prop :=
  (a.start.canonical → s.canonical) ∧ (a.start.sized → s.sized) ∧ (a.instant s.tb ∨ s.works = [])

/-- A meaning goes on, and its next state keeps the order of `a`. -/
def Frame.KeepsOut (a : Frame) (o : Host.Outcome State Fault Refusal) : Prop := ∃ t, o = .next t ∧ a.Keeps t

variable {a : Frame} {b s t : State}

theorem Frame.Keeps.refl (s : State) : s.untimed.Keeps s := ⟨id, id, .inl trivial⟩

/-- From `s` on, at its own instant. -/
theorem Frame.Keeps.start (s : State) : Frame.Keeps ⟨s, (· = s.tb)⟩ s := ⟨id, id, .inl rfl⟩

theorem Frame.KeepsOut.next (h : a.Keeps s) : a.KeepsOut (.next s) := ⟨s, rfl, h⟩

section
variable {tb : Tb} {model : Model} {boot : Boot} {otp : Otp} {ident : Ident} {pci : Pci} {ptm : Ptm} {diag : Diag}
  {latBar latDiag : Latches} {frozen : Option Frozen} {evRing : Ring} {ev : EventUnit} {tags : List TagUse}
  {works : List Work} {weir : Weir} {bulks : List Bulk} {dma : List Dma} {runs : List Run} {images : List Image}
  {nextImage : Nat} {results : List Results} {link : LockLink} {ripple : Ripple} {cal : CalUnit} {out : Outputs}
  {free : Nat} {pending : List Instr}

/-- What no frame speaks of may change. -/
theorem Frame.Keeps.same (h : a.Keeps s) : a.Keeps { s with
      model, boot, otp, ident, pci, ptm, diag, latBar, latDiag, frozen, evRing, ev, tags, weir, bulks, dma, runs, images,
      nextImage, results, link, ripple, cal, out, free, pending } := h

/-- Where time is not followed, the time base and the accepted commands may change as well. -/
theorem Frame.Keeps.sameUntimed (h : b.untimed.Keeps s) : b.untimed.Keeps { s with
      tb, model, boot, otp, ident, pci, ptm, diag, latBar, latDiag, frozen, evRing, ev, tags, works, weir, bulks, dma,
      runs, images, nextImage, results, link, ripple, cal, out, free, pending } :=
  ⟨h.1, h.2.1, .inl trivial⟩

/-- What a frame follows is followed without its instants. -/
theorem Frame.Keeps.untimed (h : a.Keeps s) : a.start.untimed.Keeps s := ⟨h.1, h.2.1, .inl trivial⟩

/-- Where no command is accepted, any instant does. -/
theorem Frame.Keeps.anyInstant (h : (a.start.steady False).Keeps s) : a.Keeps s :=
  ⟨h.1, h.2.1, h.2.2.imp_left False.elim⟩

/-- The accepted commands may change as long as none comes to an empty list. -/
theorem Frame.Keeps.withWorks (h : a.Keeps s) (hw : s.works = [] → works = []) : a.Keeps { s with works } :=
  ⟨h.1, h.2.1, h.2.2.imp_right hw⟩

end

/-! ### Both ways of a choice, and folds -/

theorem Frame.Keeps.ite {c : Prop} [Decidable c] (h : a.Keeps s) (h' : a.Keeps t) : a.Keeps (if c then s else t) := by
  split
  · exact h
  · exact h'

theorem Frame.KeepsOut.ite {c : Prop} [Decidable c] {o o' : Host.Outcome State Fault Refusal} (h : a.KeepsOut o)
    (h' : a.KeepsOut o') : a.KeepsOut (if c then o else o') := by
  split
  · exact h
  · exact h'

/-- A choice between pairs of an answer and a state. -/
theorem Frame.Keeps.iteSnd {α : Type} {c : Prop} [Decidable c] {x y : α × State} (h : a.Keeps x.2)
    (h' : a.Keeps y.2) :
    a.Keeps (if c then x else y).2 := by
  split
  · exact h
  · exact h'

theorem Frame.Keeps.foldl {α : Type} {f : State → α → State} {xs : List α} (h : a.Keeps s)
    (hf : ∀ u x, a.Keeps u → a.Keeps (f u x)) : a.Keeps (xs.foldl f s) := by
  induction xs generalizing s with
  | nil => exact h
  | cons x xs ih => exact ih (hf s x h)

/-- A fold that carries an answer beside the state. -/
theorem Frame.Keeps.foldlSnd {α β : Type} {f : β × State → α → β × State} {xs : List α} {p : β × State}
    (h : a.Keeps p.2) (hf : ∀ q x, a.Keeps q.2 → a.Keeps (f q x).2) : a.Keeps (xs.foldl f p).2 := by
  induction xs generalizing p with
  | nil => exact h
  | cons x xs ih => exact ih (hf p x h)

theorem Die.canonical_ite {c : Prop} [Decidable c] {x y : Die} (hx : x.canonical) (hy : y.canonical) :
    (if c then x else y).canonical := by
  split
  · exact hx
  · exact hy

theorem Mem.wf_ite {c : Prop} [Decidable c] {d : Byte} {m m' : Mem} (h : Mem.wf d m = true)
    (h' : Mem.wf d m' = true) : Mem.wf d (if c then m else m') = true := by
  split
  · exact h
  · exact h'

/-! ### Banks -/

/-- A bank of dies of the same number, each die canonical where all were. -/
theorem Frame.Keeps.withDies {ds : List Die} (h : a.Keeps s) (hl : ds.length = s.dies.length)
    (hc : (∀ x ∈ s.dies, x.canonical) → ∀ x ∈ ds, x.canonical) : a.Keeps { s with dies := ds } := by
  refine ⟨fun ha => ?_, fun ha => ?_, h.2.2⟩
  · obtain ⟨hflash, hdies, hclusters⟩ := h.1 ha
    exact ⟨hflash, hc hdies, hclusters⟩
  · obtain ⟨hd, hrest⟩ := h.2.1 ha
    exact ⟨hl.trans hd, hrest⟩

/-- A bank of clusters of the same number, each cluster canonical where all were. -/
theorem Frame.Keeps.withClusters {ks : List Cluster} (h : a.Keeps s) (hl : ks.length = s.clusters.length)
    (hc : (∀ x ∈ s.clusters, x.canonical) → ∀ x ∈ ks, x.canonical) : a.Keeps { s with clusters := ks } := by
  refine ⟨fun ha => ?_, fun ha => ?_, h.2.2⟩
  · obtain ⟨hflash, hdies, hclusters⟩ := h.1 ha
    exact ⟨hflash, hdies, hc hclusters⟩
  · obtain ⟨hd, hk, hrest⟩ := h.2.1 ha
    exact ⟨hd, hl.trans hk, hrest⟩

theorem Frame.Keeps.withChans {cs : List Chan} (h : a.Keeps s) (hl : cs.length = s.chans.length) :
    a.Keeps { s with chans := cs } := by
  refine ⟨h.1, fun ha => ?_, h.2.2⟩
  obtain ⟨hd, hk, hc, hrest⟩ := h.2.1 ha
  exact ⟨hd, hk, hl.trans hc, hrest⟩

theorem Frame.Keeps.withInlets {is : List Inlet} (h : a.Keeps s) (hl : is.length = s.inlets.length) :
    a.Keeps { s with inlets := is } := by
  refine ⟨h.1, fun ha => ?_, h.2.2⟩
  obtain ⟨hd, hk, hc, hi, hrest⟩ := h.2.1 ha
  exact ⟨hd, hk, hc, hl.trans hi, hrest⟩

theorem Frame.Keeps.withOutlets {os : List Ring} (h : a.Keeps s) (hl : os.length = s.outlets.length) :
    a.Keeps { s with outlets := os } := by
  refine ⟨h.1, fun ha => ?_, h.2.2⟩
  obtain ⟨hd, hk, hc, hi, ho, hg⟩ := h.2.1 ha
  exact ⟨hd, hk, hc, hi, hl.trans ho, hg⟩

theorem Frame.Keeps.withGroups {gs : List Group} (h : a.Keeps s) (hl : gs.length = s.groups.length) :
    a.Keeps { s with groups := gs } := by
  refine ⟨h.1, fun ha => ?_, h.2.2⟩
  obtain ⟨hd, hk, hc, hi, ho, hg⟩ := h.2.1 ha
  exact ⟨hd, hk, hc, hi, ho, hl.trans hg⟩

theorem Frame.Keeps.withSerial {x : Serial} (h : a.Keeps s)
    (hf : Mem.wf flashByte s.serial.flash = true → Mem.wf flashByte x.flash = true) :
    a.Keeps { s with serial := x } := by
  refine ⟨fun ha => ?_, h.2⟩
  obtain ⟨hflash, hrest⟩ := h.1 ha
  exact ⟨hf hflash, hrest⟩

/-- Every element of a modified list has a property that the old ones had and the change keeps. -/
theorem forall_mem_modify {α : Type} {p : α → Prop} {f : α → α} {xs : List α} {n : Nat} (hf : ∀ x, p x → p (f x))
    (h : ∀ x ∈ xs, p x) : ∀ x ∈ xs.modify n f, p x := by
  intro x hx
  obtain ⟨i, hi⟩ := List.mem_iff_getElem?.mp hx
  rw [List.getElem?_modify] at hi
  obtain ⟨y, hy, rfl⟩ := Option.map_eq_some_iff.mp hi
  have hp := h y (List.mem_of_getElem? hy)
  split
  · exact hf y hp
  · exact hp

/-- Every element of a list mapped with its places has a property that the old ones had and the change keeps. -/
theorem forall_mem_mapIdx {α : Type} {p : α → Prop} {f : Nat → α → α} {xs : List α} (hf : ∀ n x, p x → p (f n x))
    (h : ∀ x ∈ xs, p x) : ∀ x ∈ xs.mapIdx f, p x := by
  intro x hx
  obtain ⟨i, hi, rfl⟩ := List.mem_mapIdx.mp hx
  exact hf i _ (h _ (List.getElem_mem hi))

/-- Every element of a mapped list has a property that the old ones had and the change keeps. -/
theorem forall_mem_map_of {α : Type} {p : α → Prop} {f : α → α} {xs : List α} (hf : ∀ x, p x → p (f x))
    (h : ∀ x ∈ xs, p x) : ∀ x ∈ xs.map f, p x := by
  intro x hx
  obtain ⟨y, hy, rfl⟩ := List.mem_map.mp hx
  exact hf y (h y hy)

/-! ### Changes of one part -/

theorem Frame.Keeps.updChan {n : Nat} {f : Chan → Chan} (h : a.Keeps s) : a.Keeps (s.updChan n f) :=
  h.withChans (List.length_modify ..)

theorem Frame.Keeps.updChans {p : Nat → Chan → Bool} {f : Nat → Chan → Chan} (h : a.Keeps s) :
    a.Keeps (s.updChans p f) :=
  h.withChans List.length_mapIdx

theorem Frame.Keeps.updCluster {k : Nat} {f : Cluster → Cluster} (h : a.Keeps s)
    (hf : ∀ x : Cluster, x.canonical → (f x).canonical := by exact fun _ hx => hx) : a.Keeps (s.updCluster k f) :=
  h.withClusters (List.length_modify ..) (forall_mem_modify hf)

theorem Frame.Keeps.updClusters {p : Nat → Cluster → Bool} {f : Nat → Cluster → Cluster} (h : a.Keeps s)
    (hf : ∀ n (x : Cluster), x.canonical → (f n x).canonical := by exact fun _ _ hx => hx) :
    a.Keeps (s.updClusters p f) := by
  refine h.withClusters List.length_mapIdx (forall_mem_mapIdx fun n x hx => ?_)
  split
  · exact hf n x hx
  · exact hx

theorem Frame.Keeps.updDie {d : Nat} {f : Die → Die} (h : a.Keeps s)
    (hf : ∀ x : Die, x.canonical → (f x).canonical := by exact fun _ hx => hx) : a.Keeps (s.updDie d f) :=
  h.withDies (List.length_modify ..) (forall_mem_modify hf)

theorem Frame.Keeps.updDram {d : Nat} {f : Dram → Dram} (h : a.Keeps s)
    (hf : ∀ x : Dram, Mem.wf ramByte x.mem = true → Mem.wf ramByte (f x).mem = true := by exact fun _ hx => hx) :
    a.Keeps (s.updDram d f) :=
  h.updDie fun _ ⟨hdram, hcal⟩ => ⟨hf _ hdram, hcal⟩

theorem Frame.Keeps.updGroup {g : Nat} {f : Group → Group} (h : a.Keeps s) : a.Keeps (s.updGroup g f) :=
  h.withGroups (List.length_modify ..)

theorem Frame.Keeps.updInlet {i : Nat} {f : Inlet → Inlet} (h : a.Keeps s) : a.Keeps (s.updInlet i f) :=
  h.withInlets (List.length_modify ..)

theorem Frame.Keeps.updOutlet {o : Nat} {f : Ring → Ring} (h : a.Keeps s) : a.Keeps (s.updOutlet o f) :=
  h.withOutlets (List.length_modify ..)

theorem Frame.Keeps.updSerial {f : Serial → Serial} (h : a.Keeps s)
    (hf : Mem.wf flashByte s.serial.flash = true → Mem.wf flashByte (f s.serial).flash = true := by exact fun hx =>
      hx) :
    a.Keeps (s.updSerial f) :=
  h.withSerial hf

/-! ### State -/

/-! ### Ops -/

theorem Frame.Keeps.updSeq {k : Nat} {f : Machine.Seq → Machine.Seq} (h : a.Keeps s) : a.Keeps (s.updSeq k f) :=
  h.updCluster

theorem Frame.Keeps.updTrig {k : Nat} {f : Trig → Trig} (h : a.Keeps s) : a.Keeps (s.updTrig k f) := h.updCluster

theorem Frame.Keeps.updRed {k : Nat} {f : Red → Red} (h : a.Keeps s) : a.Keeps (s.updRed k f) := h.updCluster

theorem Frame.Keeps.updCap {k i : Nat} {f : Cap → Cap} (h : a.Keeps s) : a.Keeps (s.updCap k i f) := h.updCluster

theorem Frame.Keeps.updPll {d : Nat} {f : Pll → Pll} (h : a.Keeps s) : a.Keeps (s.updPll d f) := h.updDie

theorem Frame.Keeps.updThm {d : Nat} {f : Thermal → Thermal} (h : a.Keeps s) : a.Keeps (s.updThm d f) := h.updDie

theorem Frame.Keeps.updRps {d : Nat} {f : Rps → Rps} (h : a.Keeps s) : a.Keeps (s.updRps d f) := h.updDie

theorem Frame.Keeps.updPci {f : Pci → Pci} (h : a.Keeps s) : a.Keeps (s.updPci f) := h

theorem Frame.Keeps.updEv {f : EventUnit → EventUnit} (h : a.Keeps s) : a.Keeps (s.updEv f) := h

theorem Frame.Keeps.updBoot {f : Boot → Boot} (h : a.Keeps s) : a.Keeps (s.updBoot f) := h

theorem Frame.Keeps.updLink {f : LockLink → LockLink} (h : a.Keeps s) : a.Keeps (s.updLink f) := h

theorem Frame.Keeps.updOut {f : Outputs → Outputs} (h : a.Keeps s) : a.Keeps (s.updOut f) := h

theorem Frame.Keeps.takeFree (h : a.Keeps s) : a.Keeps (s.takeFree).2 := h

theorem Frame.Keeps.at {p : Prop} {t : Tb} (h : (b.steady p).Keeps s) : (b.steady p).Keeps (s.at t) := by
  unfold State.at
  split
  · refine (h.withDies (ds := s.dies.map _) (List.length_map _) (forall_mem_map_of fun x hx => ?_))
    split
    · exact hx
    · exact hx
  · exact h

theorem Frame.Keeps.sendMsi {v : Nat} (h : a.Keeps s) : a.Keeps (s.sendMsi v) := .ite h.updPci h.updOut

theorem Frame.Keeps.hostWrite {addr : Nat} {bs : List Byte} (h : a.Keeps s) : a.Keeps (s.hostWrite addr bs) :=
  h.updPci.updOut

theorem Frame.Keeps.signalOutlet {o : Nat} (h : a.Keeps s) : a.Keeps (s.signalOutlet o) :=
  .ite h.hostWrite.updOutlet.sendMsi h.hostWrite.updOutlet

theorem Frame.Keeps.signalEvent (h : a.Keeps s) : a.Keeps s.signalEvent :=
  .ite h.hostWrite.same.sendMsi h.hostWrite.same

theorem Frame.Keeps.misc {c : MiscCause} (h : a.Keeps s) : a.Keeps (s.misc c) := h.updPci.sendMsi

theorem Frame.Keeps.useTag {tag : BitVec 12} {cls : Nat} (h : a.Keeps s) : a.Keeps (s.useTag tag cls) := h

theorem Frame.Keeps.freeTag {tag : BitVec 12} (h : a.Keeps s) : a.Keeps (s.freeTag tag) := h

theorem Frame.Keeps.writeReply {o : Nat} {r : Reply} {last : Bool} (h : a.Keeps s) :
    a.Keeps (s.writeReply o r last) :=
  (Frame.Keeps.ite h.hostWrite.updOutlet.updPci.freeTag h.hostWrite.updOutlet.updPci).signalOutlet

theorem Frame.Keeps.post {o : Nat} {r : Reply} {last : Bool} {cause : Nat} {group : Option Nat} {dies : BitVec 8}
    (h : a.Keeps s) :
    a.Keeps (s.post o r last cause group dies) :=
  .ite h.writeReply h.updOutlet.misc

theorem Frame.Keeps.flushGo {xs kept : List Held} {o : Nat} (h : a.Keeps s) :
    a.Keeps (State.flushGo xs s o kept) := by
  induction xs generalizing s kept with
  | nil => exact h.updOutlet
  | cons x xs ih =>
    unfold State.flushGo
    split
    · exact ih h.writeReply
    · exact ih h

theorem Frame.Keeps.flushHeld {o : Nat} (h : a.Keeps s) : a.Keeps (s.flushHeld o) := h.flushGo

theorem Frame.Keeps.flushAll (h : a.Keeps s) : a.Keeps s.flushAll := h.foldl fun _ _ hs => hs.flushHeld

theorem Frame.Keeps.postDone {n : Nat} {kept rest : List Work} (h : b.untimed.Keeps s) :
    b.untimed.Keeps (State.postDone n s kept rest) := by
  induction n generalizing s kept rest with
  | zero => exact h.sameUntimed
  | succ n ih =>
    cases rest with
    | nil => exact h.sameUntimed
    | cons w rest =>
      unfold State.postDone
      split
      · split
        · exact ih h
        · exact ih h.post
      · exact ih h

theorem State.settle_tb (s : State) : s.settle.tb = s.tb := (congrArg State.tb s.mute_settle :)

theorem State.settle_works_nil (hs : s.works = []) : s.settle.works = [] := by
  simp only [State.settle, hs, State.postDone, List.reverse_nil]

theorem Frame.Keeps.settle (h : a.Keeps s) : a.Keeps s.settle := by
  obtain ⟨hcanonical, hsized, -⟩ := h.untimed.postDone
  exact ⟨hcanonical, hsized, h.2.2.imp (s.settle_tb ▸ ·) State.settle_works_nil⟩

theorem Frame.Keeps.updWork {tag : BitVec 12} {f : Work → Work} (h : a.Keeps s) : a.Keeps (s.updWork tag f) :=
  h.withWorks fun hw => by rw [hw]; rfl

theorem Frame.Keeps.unfence {i : Nat} (h : a.Keeps s) : a.Keeps (s.unfence i) := .ite h h.updInlet

theorem Frame.Keeps.finishAt {tag : BitVec 12} {status : Status} {detail : Nat} {result : BitVec 128} {cause : Nat}
    {tb : Tb} (h : a.Keeps s) :
    a.Keeps (s.finishAt tag status detail result cause tb) := by
  unfold State.finishAt
  simp only
  split
  · exact h
  · exact .ite h h.updWork.settle.unfence

theorem Frame.Keeps.finish {tag : BitVec 12} {status : Status} {detail : Nat} {result : BitVec 128} {cause : Nat}
    (h : a.Keeps s) :
    a.Keeps (s.finish tag status detail result cause) :=
  h.finishAt

theorem Frame.Keeps.finish? {tag : Option (BitVec 12)} {status : Status} {detail : Nat} {result : BitVec 128}
    {cause : Nat} (h : a.Keeps s) :
    a.Keeps (s.finish? tag status detail result cause) := by
  unfold State.finish?
  split
  · exact h.finish
  · exact h

theorem Frame.Keeps.countDrop (h : a.Keeps s) : a.Keeps s.countDrop := h.updEv.misc

theorem Frame.Keeps.enqueue {e : NewEvent} (h : a.Keeps s) : a.Keeps (s.enqueue e) := h.updEv

theorem Frame.Keeps.arrive {e : NewEvent} (h : a.Keeps s) : a.Keeps (s.arrive e).2 := by
  unfold State.arrive
  simp only
  split
  · exact h.enqueue
  · split
    · exact h.updEv
    · split
      · exact h.enqueue
      · split
        · exact h.countDrop
        · split
          · exact h.updEv.countDrop.enqueue
          · exact h.countDrop

theorem Frame.Keeps.raise {e : NewEvent} (h : a.Keeps s) :
    a.Keeps (s.raise e).2 := .iteSnd (.ite h.arrive.updEv h.arrive) h.updEv

theorem Frame.Keeps.raise_ {e : NewEvent} (h : a.Keeps s) : a.Keeps (s.raise_ e) := h.raise

/-! ### DramOps -/

theorem Die.canonical_of_dram {x : Die} {y : Dram} {bw sp : Nat} (h : x.canonical)
    (hy : Mem.wf ramByte y.mem = true) :
    ({ x with dram := y, bwCap := bw, springCap := sp } : Die).canonical :=
  ⟨hy, h.2⟩

theorem Frame.Keeps.trainDie {d : Nat} {e : DramEnv} {tj : BitVec 16} (h : a.Keeps s) :
    a.Keeps (s.trainDie d e tj) := by
  have hmem {x : Dram} {e : DramEnv} {tj : BitVec 16} {tb : Tb} : Mem.wf ramByte (x.train e tj tb).mem = true :=
    Mem.wf_nil _
  unfold State.trainDie
  simp only
  split
  · exact (h.updDie fun x hx => Die.canonical_of_dram hx hmem).raise_
  · exact h.updDie fun x hx => Die.canonical_of_dram hx hmem

/-! ### DramSvc -/

theorem Frame.Keeps.dramAsk {d : Nat} {q : DramReq} {rate : Rat} (h : a.Keeps s) : a.Keeps (s.dramAsk d q rate) := by
  refine h.updDram fun x hx => ?_
  split
  · exact hx
  · exact hx

theorem Frame.Keeps.houseAsk {d addr len : Nat} (h : a.Keeps s) : a.Keeps (s.houseAsk d addr len) := h.dramAsk

theorem Frame.Keeps.apertureAsk {d addr len : Nat} (h : a.Keeps s) : a.Keeps (s.apertureAsk d addr len) := h.dramAsk

/-! ### Image -/

theorem Frame.Keeps.updImage {id : Nat} {f : Image → Image} (h : a.Keeps s) : a.Keeps (s.updImage id f) := h

/-! ### Rps -/

theorem Frame.Keeps.updCtx {d c : Nat} {f : RpsCtx → RpsCtx} (h : a.Keeps s) : a.Keeps (s.updCtx d c f) := h.updRps

theorem Frame.Keeps.updLanes {d c : Nat} {m : BitVec 8} {f : Nat → Chan → Chan} (h : a.Keeps s) :
    a.Keeps (s.updLanes d c m f) :=
  h.updChans

theorem Frame.Keeps.microSync {d c : Nat} (h : a.Keeps s) : a.Keeps (s.microSync d c) := h.updCtx

theorem Frame.Keeps.microSyncAll {d : Nat} (h : a.Keeps s) : a.Keeps (s.microSyncAll d) :=
  h.foldl fun _ _ hs => hs.microSync

theorem Frame.Keeps.rpsStart {d : Nat} {r : RpsReq} (h : a.Keeps s) : a.Keeps (s.rpsStart d r) := h.updCtx.updLanes

theorem Frame.Keeps.rpsPumpCtx {d c : Nat} (h : a.Keeps s) : a.Keeps (s.rpsPumpCtx d c) := by
  unfold State.rpsPumpCtx
  simp only
  split
  · exact h
  · split
    · exact h.updRps.rpsStart
    · exact h

theorem Frame.Keeps.rpsPump {d : Nat} (h : a.Keeps s) : a.Keeps (s.rpsPump d) := h.foldl fun _ _ hs => hs.rpsPumpCtx

theorem Frame.Keeps.rpsSubmit {d c : Nat} {lanes : BitVec 8} {tag : Option (BitVec 12)} {op : RpsOp} (h : a.Keeps s) :
    a.Keeps (s.rpsSubmit d c lanes tag op) :=
  h.updRps.rpsPumpCtx

theorem Frame.Keeps.rpsUrgent {d c : Nat} {lanes : BitVec 8} {op : RpsOp} (h : a.Keeps s) :
    a.Keeps (s.rpsUrgent d c lanes op) :=
  h.updRps.rpsPumpCtx

theorem Frame.Keeps.rpsChange {d c : Nat} {lanes : BitVec 8} {op : RpsOp} (h : a.Keeps s) :
    a.Keeps (s.rpsChange d c lanes op).2 := h.updRps.rpsPumpCtx

theorem Frame.Keeps.rpsReply {k : Nat} {r : RpsReq} {fail : BitVec 8} (h : a.Keeps s) :
    a.Keeps (s.rpsReply k r fail) := by
  unfold State.rpsReply
  simp only
  split
  · exact .ite h.finish? (.ite h.finish? h.finish?)
  · exact .ite h.finish? h
  · exact .ite h.finish? h.finish?

theorem Frame.Keeps.rpsDropQueued {d c : Nat} {m : BitVec 8} (h : a.Keeps s) : a.Keeps (s.rpsDropQueued d c m) := by
  unfold State.rpsDropQueued
  simp only
  refine h.updRps.foldl fun _ _ hs => ?_
  split
  · exact hs.finish?
  · exact hs.finish?

theorem Frame.Keeps.rpsEnd {d c : Nat} {kelvin : BitVec 8} (h : a.Keeps s) : a.Keeps (s.rpsEnd d c kelvin) := by
  unfold State.rpsEnd
  simp only
  split
  · exact h
  · exact (Frame.Keeps.ite h.microSync.updCtx.updRps.updLanes.rpsReply.rpsDropQueued
      h.microSync.updCtx.updRps.updLanes.rpsReply).rpsPumpCtx

theorem Frame.Keeps.rpsDropWaiting {d c : Nat} {m : BitVec 8} (h : a.Keeps s) : a.Keeps (s.rpsDropWaiting d c m) :=
  h.updCtx.rpsDropQueued

theorem Frame.Keeps.rpsAbandon {d c : Nat} {m : BitVec 8} (h : a.Keeps s) : a.Keeps (s.rpsAbandon d c m) := by
  unfold State.rpsAbandon
  simp only
  split
  · exact h
  · exact .ite h (.ite h.microSync.updCtx.updRps.updLanes.updCtx.rpsReply h.microSync.updCtx.updRps.updLanes.updCtx)

theorem Frame.Keeps.hwStillLanes {k : Nat} {m : BitVec 8} {cause : BitVec 4} (h : a.Keeps s) :
    a.Keeps (s.hwStillLanes k m cause) :=
  .ite h h.rpsAbandon.rpsDropWaiting.updLanes.rpsUrgent.rpsPumpCtx

theorem Frame.Keeps.hwStill {n : Nat} {cause : BitVec 4} (h : a.Keeps s) : a.Keeps (s.hwStill n cause) :=
  h.hwStillLanes

theorem Frame.Keeps.hwStillDie {d : Nat} {cause : BitVec 4} (h : a.Keeps s) : a.Keeps (s.hwStillDie d cause) :=
  h.foldl fun _ _ hs => hs.hwStillLanes

theorem Frame.Keeps.orderlyStillLanes {k : Nat} {m : BitVec 8} {cause : BitVec 4} {keep : BitVec 8} (h : a.Keeps s) :
    a.Keeps (s.orderlyStillLanes k m cause keep) :=
  .ite h h.rpsSubmit

theorem Frame.Keeps.orderlyDisconnect {n : Nat} (h : a.Keeps s) : a.Keeps (s.orderlyDisconnect n) := h.rpsSubmit

/-! ### Weir -/

theorem Frame.Keeps.dropBulks {tag : BitVec 12} (h : a.Keeps s) : a.Keeps (s.dropBulks tag) := h

theorem Frame.Keeps.refreshHolds {chans clusters : List Nat} (h : a.Keeps s) :
    a.Keeps (s.refreshHolds chans clusters) :=
  h.updChans.updClusters

theorem Frame.Keeps.runFinal {tag : BitVec 12} {status : Status} {detail cause : Nat} (h : a.Keeps s) :
    a.Keeps (s.runFinal tag status detail cause) := by
  unfold State.runFinal
  simp only
  split
  · exact h
  · exact h.same.refreshHolds.finish.foldl fun _ _ hs => hs.finish

theorem Frame.Keeps.unarm {r : Run} (h : a.Keeps s) : a.Keeps (s.unarm r) := .ite h.updClusters h

theorem Frame.Keeps.cancel {w : Work} (h : a.Keeps s) : a.Keeps (s.cancel w) := by
  unfold State.cancel
  simp only
  split
  · exact h.updChans
  · exact h.updDie
  · exact h.updClusters
  · exact h.updClusters
  · exact h.updCluster
  · exact h.updCluster
  · exact h.dropBulks
  · exact h.updPll
  · exact h.updThm
  · exact h.updThm
  · exact h.updImage
  · exact h

theorem Frame.Keeps.dropLoad {w : Work} (h : a.Keeps s) : a.Keeps (s.dropLoad w) := .ite h.same h

theorem Frame.Keeps.revoke {w : Work} {detail cause : Nat} (h : a.Keeps s) : a.Keeps (s.revoke w detail cause) := by
  unfold State.revoke
  split
  · exact h.unarm.runFinal
  · exact h.dropLoad.cancel.finish

theorem Frame.Keeps.revokeRuns {p : Run → Bool} {detail cause : Nat} (h : a.Keeps s) :
    a.Keeps (s.revokeRuns p detail cause) :=
  h.foldl fun _ _ hs => hs.unarm.runFinal

theorem Frame.Keeps.shrink {d detail cause n : Nat} (h : a.Keeps s) : a.Keeps (s.shrink d detail cause n) := by
  induction n generalizing s with
  | zero => exact h
  | succ n ih =>
    unfold State.shrink
    split
    · exact ih h.revoke
    · exact h

theorem Frame.Keeps.capFell {d detail cause : Nat} (h : a.Keeps s) : a.Keeps (s.capFell d detail cause) := h.shrink

theorem Frame.Keeps.countRefusal {inlet : Nat} {st : Status} (h : a.Keeps s) :
    a.Keeps (s.countRefusal inlet st).2 := by
  unfold State.countRefusal
  simp only
  split
  · exact h
  · exact h

theorem Frame.Keeps.countAccept {inlet : Nat} (h : a.Keeps s) : a.Keeps (s.countAccept inlet) := h

/-! ### Mailbox -/

theorem Frame.Keeps.consume {i : Nat} (h : a.Keeps s) : a.Keeps (s.consume i) := h.updInlet.updPci

theorem Frame.Keeps.noteDecision {dbTb : Tb} {cls : Nat} (h : a.Keeps s) : a.Keeps (s.noteDecision dbTb cls) := h

theorem Frame.Keeps.fetched {ns : Nat} (h : a.Keeps s) : a.Keeps (s.fetched ns) := h.updPci

theorem Frame.Keeps.ring {i : Nat} (h : a.Keeps s) : a.Keeps (s.ring i) := .ite h.updInlet h

theorem Frame.Keeps.takeNext {i : Nat} {d : Desc} (h : a.Keeps s) : a.Keeps (s.takeNext i d) :=
  h.takeFree.consume.fetched.noteDecision

/-- A received descriptor moves positions of inlets and tags only. -/
theorem Frame.Keeps.receive {d : Desc} {own : Bool} {u : State} (h : a.Keeps s) (hr : s.receive d = some (own, u)) :
    a.Keeps u := by
  unfold State.receive at hr
  simp only at hr
  split at hr
  · cases hr
  · split at hr
    · split at hr
      · cases hr; exact h.updInlet
      · cases hr
    · split at hr
      · split at hr
        · cases hr; exact h.ring.takeNext
        · cases hr; exact h.ring.takeNext.useTag
      · cases hr

theorem Frame.Keeps.single {d : Desc} {own : Bool} {status : Status} {detail : Nat} {result : BitVec 128}
    (h : a.Keeps s) :
    a.Keeps (s.single d own status detail result) :=
  h.post

theorem Frame.Keeps.reply0 {d : Desc} {a' : Answer} (h : a.Keeps s) : a.Keeps (s.reply0 d a') :=
  .ite h.freeTag h.single

/-- A class 0 command keeps the order where its body does. -/
theorem Frame.Keeps.immediate {t : Tb} {c : Instr} {body : State → Answer × State} (h : b.untimed.Keeps s)
    (hb : ∀ u, b.untimed.Keeps u → b.untimed.Keeps (body u).2) : b.untimed.Keeps (s.immediate t c body) := by
  unfold State.immediate
  simp only
  split
  · exact h.at
  · split
    · exact h.at
    · next hr =>
      have hu := h.at.receive hr
      split
      · exact hu.single
      · exact (hb _ hu).reply0

theorem Frame.Keeps.refuse {d : Desc} {r : Refuse} (h : a.Keeps s) : a.Keeps (s.refuse d r) := h.countRefusal.post

theorem Frame.Keeps.accept {d : Desc} {group : Option Nat} {dies : BitVec 8} {kind : WorkKind}
    {start promise arm : Tb} (h : b.untimed.Keeps s) :
    b.untimed.Keeps (s.accept d group dies kind start promise arm) :=
  h.countAccept.post.sameUntimed

/-- A decision keeps the order where its effect does. -/
theorem Frame.Keeps.decideWork {d : Desc} {p : Plan} {go : State → Tb → Tb → List Grant → State} (h : b.untimed.Keeps s)
    (hg : ∀ u start promise gs, b.untimed.Keeps u → b.untimed.Keeps (go u start promise gs)) :
    b.untimed.Keeps (s.decideWork d p go) := by
  unfold State.decideWork
  split
  · exact h.refuse
  · split
    · exact h.refuse
    · exact hg _ _ _ _ h.accept

/-- A command of class 1 to 3 keeps the order where the effect of its acceptance does. -/
theorem Frame.Keeps.request {t : Tb} {c : Instr} {plan : State → (Status × Nat) ⊕ Plan}
    {go : State → Tb → Tb → List Grant → State} (h : b.untimed.Keeps s)
    (hg : ∀ u start promise gs, b.untimed.Keeps u → b.untimed.Keeps (go u start promise gs)) :
    b.untimed.Keeps (s.request t c plan go) := by
  unfold State.request
  simp only
  split
  · exact h.at
  · split
    · exact h.at
    · next hr =>
      have hu := h.at.receive hr
      split
      · exact hu.single
      · split
        · exact hu.single
        · exact hu.decideWork hg

/-- A command whose effect comes at its acceptance keeps the order where its effect does. -/
theorem Frame.Keeps.requestNow {t : Tb} {h' : Hdr} {c : Instr} {plan : State → (Status × Nat) ⊕ Plan}
    {effect : State → BitVec 128 × State} (h : b.untimed.Keeps s)
    (he : ∀ u, b.untimed.Keeps u → b.untimed.Keeps (effect u).2) :
    b.untimed.Keeps (s.requestNow t h' c plan effect) :=
  h.request fun _ _ _ _ hs => (he _ hs).finish

/-! ### Cal -/

theorem Frame.Keeps.holdAna {d : Nat} (h : a.Keeps s) : a.Keeps (s.holdAna d) := h.updChans

/-! ### Reduce -/

theorem Frame.Keeps.updRec {g n : Nat} {f : ResRec → ResRec} (h : a.Keeps s) : a.Keeps (s.updRec g n f) := h

theorem Frame.Keeps.setInst {k wi : Nat} {x : Instance} (h : a.Keeps s) : a.Keeps (s.setInst k wi x) := h.updRed

theorem Frame.Keeps.feedInst {k g wi : Nat} {w : RWindow} {x : Instance} {sm : RedSample} (h : a.Keeps s) :
    a.Keeps (s.feedInst k g wi w x sm) :=
  .ite h (.ite h.setInst.updRed (.ite h h.setInst.updRec.updRed))

theorem Frame.Keeps.batchEnd {k : Nat} (h : a.Keeps s) : a.Keeps (s.batchEnd k) :=
  ((h.foldl fun _ _ hs => hs.foldl fun _ _ hs => hs.updRed).takeFree).updRed

theorem Frame.Keeps.openWindow {k i : Nat} (h : a.Keeps s) : a.Keeps (s.openWindow k i) := by
  unfold State.openWindow
  simp only
  split
  · exact h
  · exact h.updRed.foldl fun _ _ hs => hs.updRed

theorem Frame.Keeps.closeWindows {k : Nat} {p : RWindow → Bool} {t : Tb} (h : a.Keeps s) :
    a.Keeps (s.closeWindows k p t) :=
  h.updRed

theorem Frame.Keeps.startRecipe {k i : Nat} {sigmaTb : Tb} (h : a.Keeps s) : a.Keeps (s.startRecipe k i sigmaTb) :=
  h.closeWindows.updRed

theorem Frame.Keeps.histBlocks {k g i : Nat} {x : Instance} {t : Tb} (h : a.Keeps s) :
    a.Keeps (s.histBlocks k g i x t) :=
  .ite h h.same

theorem Frame.Keeps.passInst {k g i : Nat} {x : Instance} (h : a.Keeps s) :
    a.Keeps (s.passInst k g i x).2 := .iteSnd h.updRed.updRec.updRec.histBlocks
      h.updRed.updRec.updRec.houseAsk.histBlocks.updRed

theorem Frame.Keeps.closePass {k g i : Nat} (h : a.Keeps s) : a.Keeps (s.closePass k g i) := by
  unfold State.closePass
  simp only
  split
  · exact h
  · split
    · exact h
    · exact (h.foldl fun _ _ hs => hs.passInst.setInst).updRed

theorem Frame.Keeps.passOld {k g n : Nat} (h : a.Keeps s) : a.Keeps (s.passOld k g n) := by
  induction n generalizing s with
  | zero => exact h
  | succ n ih =>
    unfold State.passOld
    split
    · exact .ite (ih h.closePass) h
    · exact h

theorem Frame.Keeps.closeAll {k g n : Nat} (h : a.Keeps s) : a.Keeps (s.closeAll k g n) := by
  induction n generalizing s with
  | zero => exact h
  | succ n ih =>
    unfold State.closeAll
    split
    · exact ih h.closePass
    · exact h

theorem Frame.Keeps.feedRed {k g : Nat} {sm : RedSample} (h : a.Keeps s) : a.Keeps (s.feedRed k g sm) := by
  refine h.passOld.foldl fun _ _ hs => ?_
  split
  · split
    · exact hs.feedInst
    · exact hs
  · exact hs

/-! ### Capture -/

theorem Frame.Keeps.dramWrite {d addr : Nat} {bs : List Byte} (h : a.Keeps s) : a.Keeps (s.dramWrite d addr bs) :=
  h.updDram fun _ => Mem.wf_setBytes

/-- A memory written to in steps, each of which keeps the canonical form. -/
theorem Mem.wf_foldl {α : Type} {d : Byte} {f : Mem → α → Mem} {xs : List α} {m : Mem}
    (hf : ∀ m x, Mem.wf d m = true → Mem.wf d (f m x) = true) (h : Mem.wf d m = true) :
    Mem.wf d (xs.foldl f m) = true := by
  induction xs generalizing m with
  | nil => exact h
  | cons x xs ih => exact ih (hf m x h)

theorem Frame.Keeps.dramWriteFree {d addr : Nat} {bs : List Byte} (h : a.Keeps s) :
    a.Keeps (s.dramWriteFree d addr bs) := by
  refine h.updDram fun x hx => Mem.wf_foldl (fun m p hm => ?_) hx
  split
  · exact hm
  · exact Mem.wf_set hm

theorem Frame.Keeps.lineUp {g line t len : Nat} (h : a.Keeps s) : a.Keeps (s.lineUp g line t len) :=
  .ite (.ite h h.updLink) h.same

theorem Frame.Keeps.capSample {k i stamp : Nat} {w : BitVec 64} (h : a.Keeps s) :
    a.Keeps (s.capSample k i stamp w) := by
  unfold State.capSample
  simp only
  split
  · exact h.updCap
  · split
    · split
      · exact h.updCap
      · exact .ite h.updCap h
    · exact h

theorem Frame.Keeps.capDisconnect {k i : Nat} {x : Tb} (h : a.Keeps s) : a.Keeps (s.capDisconnect k i x) := h.updCap

theorem Frame.Keeps.capStopNow {k i : Nat} (h : a.Keeps s) : a.Keeps (s.capStopNow k i) := h.updCap

theorem Frame.Keeps.gapNow {k i : Nat} (h : a.Keeps s) : a.Keeps (s.gapNow k i) := h.updCap

theorem Frame.Keeps.ringPut {k i : Nat} {r : List Byte} (h : a.Keeps s) : a.Keeps (s.ringPut k i r) :=
  h.dramWriteFree.dramAsk.updCap

theorem Frame.Keeps.padNow {k i len : Nat} (h : a.Keeps s) : a.Keeps (s.padNow k i len) := .ite h h.ringPut

theorem Frame.Keeps.drainNow {k i : Nat} (h : a.Keeps s) : a.Keeps (s.drainNow k i) := by
  unfold State.drainNow
  simp only
  split
  · exact h
  · exact .ite h (.ite h.padNow.ringPut.updCap h.padNow.updCap)

theorem Frame.Keeps.requestFire {k : Nat} {t origin : Tb} (h : a.Keeps s) : a.Keeps (s.requestFire k t origin) := by
  unfold State.requestFire
  simp only
  split
  · exact h.updTrig.lineUp
  · exact h.updTrig

theorem Frame.Keeps.trigTake {k : Nat} {x : TrigSeen} (h : a.Keeps s) : a.Keeps (s.trigTake k x) :=
  .ite h.updTrig.requestFire h.updTrig

theorem Frame.Keeps.trigFlush {k : Nat} {upTo : Tb} (h : a.Keeps s) : a.Keeps (s.trigFlush k upTo) :=
  h.updTrig.foldl fun _ _ hs => hs.trigTake

theorem Frame.Keeps.trigSee {k : Nat} {tick origin : Tb} {level : Option Bool} (h : a.Keeps s) :
    a.Keeps (s.trigSee k tick origin level) :=
  h.updTrig.trigFlush

theorem Frame.Keeps.crossing {origin worst : Nat} (h : a.Keeps s) : a.Keeps (s.crossing origin worst).2 := h.takeFree

theorem Frame.Keeps.trigAtLevel {k : Nat} {t : Tb} (h : a.Keeps s) : a.Keeps (s.trigAtLevel k t) :=
  .ite h.requestFire h

theorem Frame.Keeps.trigSample {k lane value : Nat} {stamp last : Tb} (h : a.Keeps s) :
    a.Keeps (s.trigSample k lane value stamp last) :=
  .ite (.ite h.updTrig.requestFire h.updTrig) h

theorem Frame.Keeps.pulseTo {k src idx : Nat} {t origin : Tb} (h : a.Keeps s) :
    a.Keeps (s.pulseTo k src idx t origin) :=
  .ite h.trigSee h

theorem Frame.Keeps.trigStream {k i : Nat} {t : Tb} {origin : Option Tb} {span : Bool} (h : a.Keeps s) :
    a.Keeps (s.trigStream k i t origin span) :=
  .ite h h.updCap

theorem Frame.Keeps.actFire {k : Nat} {t len act : Tb} {span : Bool} (h : a.Keeps s) :
    a.Keeps (s.actFire k t len act span) :=
  .ite (h.updTrig.updTrig.foldl fun _ _ hs => hs.trigStream) (.ite h.updTrig.updTrig h.updTrig)

theorem Frame.Keeps.fireAll {ks : List Nat} {g : Option Nat} {t len act : Tb} {span : Bool} (h : a.Keeps s) :
    a.Keeps (s.fireAll ks g t len act span) := by
  unfold State.fireAll
  simp only
  split
  · exact (h.foldl fun _ _ hs => hs.actFire).raise_
  · exact h.foldl fun _ _ hs => hs.actFire

theorem Frame.Keeps.armEngine {k : Nat} {t : Tb} (h : a.Keeps s) : a.Keeps (s.armEngine k t) :=
  h.trigFlush.updCluster.trigAtLevel.trigFlush

theorem Frame.Keeps.stopWindows {k : Nat} (h : a.Keeps s) : a.Keeps (s.stopWindows k) :=
  h.foldl fun _ _ hs => hs.updCap

/-! ### Regs -/

theorem Frame.Keeps.regClear {d set idx off : Nat} (h : a.Keeps s) : a.Keeps (s.regClear d set idx off) := by
  unfold State.regClear
  simp only
  split
  · exact .ite h.updChan h
  · exact .ite h.updPll (.ite h.updDie (.ite h.updLink h))
  · exact .ite h.updSeq (.ite h.updSeq (.ite h.updSeq h))
  · exact .ite h.updTrig (.ite h.updCluster (.ite h.updCluster (.ite h.updCap h)))
  · exact .ite h.updRed h
  · exact .ite h (.ite h.same (.ite h.same (.ite (.ite h.same (.ite h.same h)) h)))
  · exact .ite h.updDram (.ite h.updDram (.ite h.updDram h))
  · exact .ite h.updDie (.ite h.updDie (.ite h.updEv (.ite h.updEv h)))
  · exact .ite h (.ite h.updSerial (.ite h.updSerial (.ite h.updSerial h)))
  · exact .ite h.updThm (.ite h.updThm h)
  · exact .ite h.updRps (.ite h.updRps h)
  · exact h

theorem Frame.Keeps.setGuard {k : Nat} {lane : BitVec 3} {src : Bool} (h : a.Keeps s) :
    a.Keeps (s.setGuard k lane src) :=
  .ite h h.updCluster

theorem Frame.Keeps.regSet {d set idx off : Nat} {v : Word} (h : a.Keeps s) : a.Keeps (s.regSet d set idx off v) := by
  unfold State.regSet
  simp only
  split
  · exact .ite h.updChan (.ite h (.ite h.updChan (.ite h.updChan h)))
  · exact .ite h.updDie (.ite h.setGuard h)
  · exact .ite h.updDie (.ite h.updPll (.ite h.updLink h))
  · exact .ite h.updSeq h
  · exact .ite h.updChan (.ite h.updChan h)
  · exact .ite h.updRed h
  · exact .ite h.updSerial h
  · exact h

theorem Frame.Keeps.readPlace {lat : Latches} {key : Nat} {p : Place} (h : a.Keeps s) :
    a.Keeps (s.readPlace lat key p).2.2 := by
  cases p with
  | reg d set idx off => exact h.regClear
  | mem k which off =>
    unfold State.readPlace
    simp only
    split
    · exact h.takeFree
    · exact h

theorem Frame.Keeps.writePlace {v : Word} {p : Place} (h : a.Keeps s) : a.Keeps (s.writePlace v p) := by
  cases p with
  | reg d set idx off => exact h.regSet
  | mem k which off =>
    refine h.updCluster fun x hx => ?_
    obtain ⟨hv, hc, hr⟩ := hx
    simp only
    split
    · exact ⟨Mem.wf_setBytes hv, hc, hr⟩
    · split
      · exact ⟨hv, Mem.wf_setBytes hc, hr⟩
      · exact ⟨hv, hc, Mem.wf_setBytes hr⟩

theorem Frame.Keeps.readRun {lat : Latches} {key : Nat} {p : Place} {n : Nat} (h : a.Keeps s) :
    a.Keeps (s.readRun lat key p n).2.2 := by
  induction n generalizing s lat key p with
  | zero => exact h
  | succ n ih => exact ih h.readPlace

theorem Frame.Keeps.writeRun {p : Place} {ws : List Word} (h : a.Keeps s) : a.Keeps (s.writeRun p ws) := by
  induction ws generalizing s p with
  | nil => exact h
  | cons w ws ih => exact ih h.writePlace

theorem Frame.Keeps.burstRead {lat : Latches} {addr count : Nat} (h : a.Keeps s) :
    a.Keeps (s.burstRead lat addr count).2.2.2.2 := by
  unfold State.burstRead
  split
  · exact h
  · simp only
    split
    · exact h
    · exact h.readRun

theorem Frame.Keeps.burstWrite {addr : Nat} {ws : List Word} (h : a.Keeps s) : a.Keeps (s.burstWrite addr ws).2.2 :=
    by
  unfold State.burstWrite
  split
  · exact h
  · simp only
    split
    · exact h
    · exact h.writeRun

/-! ### Chan -/

theorem Frame.Keeps.execChannelConfig {t : Tb} {h' : Hdr} {k lanes apply mode cfg measSel : BitVec 8}
    {avgM1 dacDiv : BitVec 16} (h : b.untimed.Keeps s) :
    b.untimed.KeepsOut (execChannelConfig t h' k lanes apply mode cfg measSel avgM1 dacDiv s) :=
  .next (h.request fun _ _ _ _ hs => .ite hs.updChans.rpsSubmit hs.updChans.finish)

theorem Frame.Keeps.execChannelConnect {t : Tb} {h' : Hdr} {k lanes mode range : BitVec 8} {force : BitVec 32}
    {levels : List (BitVec 16)} (h : b.untimed.Keeps s) :
    b.untimed.KeepsOut (execChannelConnect t h' k lanes mode range force levels s) :=
  .next (h.request fun _ _ _ _ hs => hs.rpsSubmit)

theorem Frame.Keeps.execChannelDisconnect {t : Tb} {h' : Hdr} {k lanes : BitVec 8} (h : b.untimed.Keeps s) :
    b.untimed.KeepsOut (execChannelDisconnect t h' k lanes s) :=
  .next (h.request fun _ _ _ _ hs => hs.rpsSubmit)

theorem Frame.Keeps.execChannelRange {t : Tb} {h' : Hdr} {k lanes range : BitVec 8} (h : b.untimed.Keeps s) :
    b.untimed.KeepsOut (execChannelRange t h' k lanes range s) :=
  .next (h.request fun _ _ _ _ hs => hs.rpsSubmit)

theorem Frame.Keeps.execChannelForce {t : Tb} {h' : Hdr} {k lanes kinds : BitVec 8} {force : BitVec 32}
    {levels : List (BitVec 16)} (h : b.untimed.Keeps s) :
    b.untimed.KeepsOut (execChannelForce t h' k lanes kinds force levels s) :=
  .next (h.request fun _ _ _ _ hs => hs.updChans)

theorem Frame.Keeps.execChannelMeasure {t : Tb} {h' : Hdr} {k lanes : BitVec 8} (h : b.untimed.Keeps s) :
    b.untimed.KeepsOut (execChannelMeasure t h' k lanes s) :=
  .next (h.request fun _ _ _ _ hs => hs)

theorem Frame.Keeps.execGangSet {t : Tb} {h' : Hdr} {k l0 m range : BitVec 8} (h : b.untimed.Keeps s) :
    b.untimed.KeepsOut (execGangSet t h' k l0 m range s) :=
  .next (h.request fun _ _ _ _ hs => hs.rpsSubmit)

theorem Frame.Keeps.refSet {h' : Hdr} {d j : Nat} {code : BitVec 16} {tick : Tb} (h : a.Keeps s) :
    a.Keeps (s.refSet h' d j code tick) :=
  .ite h.updDie.finish (.ite h.updDie.finish h.updDie)

theorem Frame.Keeps.execRefDacSet {t : Tb} {h' : Hdr} {die j : BitVec 8} {code : BitVec 16} {tick : BitVec 64}
    (h : b.untimed.Keeps s) :
    b.untimed.KeepsOut (execRefDacSet t h' die j code tick s) :=
  .next (h.request fun _ _ _ _ hs => hs.refSet)

theorem Frame.Keeps.execGuardSet {t : Tb} {h' : Hdr} {k guard : BitVec 8} (h : b.untimed.Keeps s) :
    b.untimed.KeepsOut (execGuardSet t h' k guard s) :=
  .next (h.requestNow fun _ hs => hs.setGuard)

theorem Frame.Keeps.execChannelQuery {t : Tb} {h' : Hdr} {n : BitVec 16} (h : b.untimed.Keeps s) :
    b.untimed.KeepsOut (execChannelQuery t h' n s) := by
  unfold Machine.execChannelQuery
  simp only
  refine .next ?_
  refine h.immediate fun _ hs => ?_
  split
  · exact hs
  · exact hs

theorem Frame.Keeps.execRefdacUpdate {t : Tb} {d : Nat} (h : b.untimed.Keeps s) :
    b.untimed.KeepsOut (execRefdacUpdate t d s) :=
  .next (h.at.updDie.foldl fun _ _ hs => hs.finish)

/-! ### Clock -/

theorem Frame.Keeps.syncDies {ds : List Nat} {tick : Tb} (h : a.Keeps s) : a.Keeps (s.syncDies ds tick) :=
  h.same.foldl fun _ _ hs => hs.updPll

/-! ### Flash -/

theorem Frame.Keeps.flashProgram {off : Nat} {bs : List Byte} (h : a.Keeps s) : a.Keeps (s.flashProgram off bs) :=
  h.updSerial Mem.wf_setBytes

theorem Frame.Keeps.flashErase {off n : Nat} (h : a.Keeps s) : a.Keeps (s.flashErase off n) :=
  h.updSerial Mem.wf_clear

theorem Frame.Keeps.tearSpan {off n : Nat} (h : a.Keeps s) : a.Keeps (s.tearSpan off n) := by
  induction n generalizing s off with
  | zero => exact h
  | succ n ih => exact ih (h.takeFree.updSerial Mem.wf_set)

theorem Frame.Keeps.tear (h : a.Keeps s) : a.Keeps s.tear := by
  unfold State.tear
  split
  · exact h
  · exact .ite h.tearSpan h

theorem Frame.Keeps.patchDie {d : Nat} (h : a.Keeps s) : a.Keeps (s.patchDie d).2 := by
  unfold State.patchDie
  split
  · exact h.updRps
  · exact .iteSnd h.updRps h.updRps

theorem Die.canonical_of_cal {x : Die} {m : Mem} (h : x.canonical) (hm : Mem.wf ramByte m = true) :
    ({ x with cal := m } : Die).canonical :=
  ⟨h.1, hm⟩

theorem Frame.Keeps.calLoad {mask : BitVec 8} (h : a.Keeps s) : a.Keeps (s.calLoad mask) := by
  unfold State.calLoad
  simp only
  split
  · exact h
  · refine Frame.Keeps.foldl h fun _ _ hs => hs.updDie fun x hx => ?_
    exact Die.canonical_of_cal hx (Mem.wf_setBytes (Mem.wf_nil _))

theorem Frame.Keeps.journalPut {e : Event} (h : a.Keeps s) : a.Keeps (s.journalPut e) :=
  (Frame.Keeps.ite h.flashProgram.flashErase h.flashProgram).updSerial

end Sys2Proof.Machine

end

section
/-! SUPPORT. The order of the memories and banks through boot, reset and faults. -/

namespace Sys2Proof.Machine

set_option Elab.async false

variable {a : Frame} {b s t : State}

/-! ### Boot -/

theorem Die.canonical_reset (m : Model) (d : Nat) : (Die.reset m d).canonical := ⟨rfl, rfl⟩

theorem Cluster.canonical_reset : Cluster.reset.canonical := ⟨rfl, rfl, rfl⟩

/-- After a reset every memory is empty. -/
theorem State.canonical_resetOf (m : Model) : (State.resetOf m).canonical := by
  refine ⟨rfl, fun x hx => ?_, fun c hc => ?_⟩
  · obtain ⟨d, -, rfl⟩ := List.mem_map.mp hx
    exact Die.canonical_reset m d
  · rw [List.eq_of_mem_replicate hc]
    exact Cluster.canonical_reset

/-- A reset accepts no command, so that the instants before it no longer matter. -/
theorem Frame.Keeps.partReset {p : Prop} {cause : Nat} {epoch : BitVec 16} {perstLow : Bool} (h : a.Keeps s) :
    (a.start.steady p).Keeps (s.partReset cause epoch perstLow) := by
  have hr : (State.resetOf s.tear.model).canonical := State.canonical_resetOf _
  exact ⟨fun ha => ⟨(h.tear.1 ha).1, hr.2⟩, fun _ => State.sized_resetOf _, .inr rfl⟩

theorem Frame.Keeps.allStill {cause : BitVec 4} (h : a.Keeps s) : a.Keeps (s.allStill cause) := h.updChans

theorem Frame.Keeps.execPowerOnReset {t : Tb} (h : b.untimed.Keeps s) : b.untimed.KeepsOut (execPowerOnReset t s) :=
  .next h.at.partReset

theorem Frame.Keeps.execPerstNAssert {t : Tb} (h : b.untimed.Keeps s) : b.untimed.KeepsOut (execPerstNAssert t s) :=
  .next (.ite h.at h.at.partReset.allStill)

theorem Frame.Keeps.bootFail {code detail : Nat} (h : a.Keeps s) : a.Keeps (s.bootFail code detail) := h.updBoot

theorem Frame.Keeps.bootOffline {d : Nat} (h : a.Keeps s) : a.Keeps (s.bootOffline d) := h.updDie.updBoot.raise_

theorem Frame.Keeps.stageRom {env : BootEnv} (h : a.Keeps s) :
    a.Keeps (s.stageRom env).2 := .iteSnd h (.iteSnd h (.ite h.updDie h.updDie.updPci))

theorem Frame.Keeps.stageFlash {env : BootEnv} (h : a.Keeps s) :
    a.Keeps (s.stageFlash env).2 := .iteSnd h h.takeFree.updSerial

theorem Frame.Keeps.stageAuth {env : BootEnv} (h : a.Keeps s) : a.Keeps (s.stageAuth env).2 := by
  unfold State.stageAuth
  simp only
  split
  · exact h.updBoot
  · exact .ite h.updBoot.updBoot h.updBoot.updBoot.raise_

theorem Frame.Keeps.stageFw {env : BootEnv} (h : a.Keeps s) : a.Keeps (s.stageFw env).2 := by
  have hp := h.patchDie (d := 0)
  -- Left in place, these two are evaluated by the kernel, which never ends on a flash that nothing is known of.
  obtain ⟨find, hfind⟩ : ∃ find, State.jFind = find := ⟨_, rfl⟩
  obtain ⟨p, hp0⟩ : ∃ p, s.patchDie 0 = p := ⟨_, rfl⟩
  rw [hp0] at hp
  rw [State.stageFw, hfind, hp0]
  exact .iteSnd hp (Frame.Keeps.updSerial (Frame.Keeps.same (s := p.2) hp))

theorem Frame.Keeps.cutLink {i : Nat} (h : a.Keeps s) : a.Keeps (s.cutLink i) := h.updDie.updDie

theorem Frame.Keeps.bootPll {d : Nat} (h : a.Keeps s) : a.Keeps (s.bootPll d) := h.updPll

theorem Frame.Keeps.stageLink {env : BootEnv} (h : a.Keeps s) : a.Keeps (s.stageLink env).2 := by
  unfold State.stageLink
  generalize hc : (bitsOf env.portsDown).foldl _ s = u
  have hu : a.Keeps u := hc ▸ h.foldl fun _ _ hs => .ite hs.cutLink.raise_ hs
  simp only
  split
  · exact hu.foldl fun _ _ hs => hs.bootOffline
  · generalize hv : List.foldl _ _ _ = v
    have hv : a.Keeps v := by
      subst hv
      refine .foldl (.foldl (.foldl (.foldl hu ?offline) ?aligned) ?locked) ?patched
      case offline => exact fun _ _ hs => hs.bootOffline
      case aligned => exact fun _ _ hs => hs.updDie
      case locked => exact fun _ _ hs => hs.bootPll
      case patched => exact fun _ _ hs => hs.patchDie
    exact .ite hv hv.raise_

theorem Frame.Keeps.stageDram {env : BootEnv} (h : a.Keeps s) : a.Keeps (s.stageDram env).2 := by
  unfold State.stageDram
  simp only
  split
  · exact h
  · exact h.foldl fun _ _ hs => hs.trainDie

theorem Frame.Keeps.bootReading {d : Nat} {tj : BitVec 16} {allOff : Bool} (h : a.Keeps s) :
    a.Keeps (s.bootReading d tj allOff) := by
  unfold State.bootReading
  simp only
  split
  · exact h.updDie
  · exact h.updDie.raise_
  · exact h.updDie.raise_
  · exact h.updDie.raise_

theorem Frame.Keeps.bootStill {d : Nat} {tableOk : Bool} {kelvin : List Nat} (h : a.Keeps s) :
    a.Keeps (s.bootStill d tableOk kelvin) :=
  .ite h.updChans (((h.updChans.foldl fun _ _ hs => hs.raise_).foldl fun _ _ hs => hs.updChan.raise_).updChans)

theorem Frame.Keeps.stageAnalog {env : BootEnv} (h : a.Keeps s) : a.Keeps (s.stageAnalog env).2 := by
  unfold State.stageAnalog
  simp only
  split
  · exact .foldl (.foldl h fun _ _ hs => hs.bootReading) fun _ _ hs => hs.updRps
  · simp only
    refine .foldl (.ite ?loaded (.raise_ ?loaded)) fun _ _ hs => hs.bootStill
    refine .foldl (.calLoad (.foldl (.foldl (.foldl h ?_) ?_) ?_)) fun _ _ hs => .ite hs hs.raise_
    · exact fun _ _ hs => hs.bootReading
    · exact fun _ _ hs => hs.updRps
    · exact fun _ _ hs => hs.bootOffline

theorem Frame.Keeps.bootFlush (h : a.Keeps s) : a.Keeps s.bootFlush := (h.foldl fun _ _ hs => hs.updEv).updEv

theorem Frame.Keeps.stageReady (h : a.Keeps s) : a.Keeps s.stageReady := by
  have hds : ∀ c : Thermal → Tb, ∀ x : Die, x.canonical →
      (if x.thm.st = .throttle then { x with thm := { x.thm with graceTb := c x.thm } } else x).canonical :=
    fun c x hx => Die.canonical_ite hx hx
  unfold State.stageReady
  simp only
  refine .bootFlush ?_
  have hb := Frame.Keeps.withDies (s := s.updBoot fun b => b) h (List.length_map _) (forall_mem_map_of (hds fun y =>
    s.tb + y.graceMs.toNat * 1000000))
  exact hb

theorem Frame.Keeps.stageWork {env : BootEnv} {i : Nat} (h : a.Keeps s) : a.Keeps (s.stageWork env i).2 := by
  unfold State.stageWork
  split
  · exact h.stageRom
  · exact h.stageFlash
  · exact h.stageAuth
  · exact h.stageFw
  · exact h.stageLink
  · exact h.stageDram
  · exact h.stageAnalog
  · exact h

theorem Frame.Keeps.enterStage {p : Prop} {env : BootEnv} {i : Nat} (h : (b.steady p).Keeps s) :
    (b.steady p).Keeps (s.enterStage env i) :=
  .ite h.at.updBoot.stageReady h.at.updBoot

theorem Frame.Keeps.bootStages {p : Prop} {env : BootEnv} {n : Nat} (h : (b.steady p).Keeps s) :
    (b.steady p).Keeps (State.bootStages env n s) := by
  induction n generalizing s with
  | zero => exact h
  | succ n ih =>
    have hw := h.stageWork (env := env) (i := s.boot.stage.toNat / 16)
    unfold State.bootStages
    simp only
    split
    · exact h
    · split
      next heq => rw [heq] at hw; exact hw.bootFail
      next heq => rw [heq] at hw; exact ih hw.enterStage

theorem Frame.Keeps.bootTo {p : Prop} {t : Tb} {env : BootEnv} (h : (b.steady p).Keeps s) :
    (b.steady p).Keeps (s.bootTo t env) := h.bootStages.at

theorem Frame.Keeps.execPerstNRelease {t : Tb} {env : BootEnv} (h : b.untimed.Keeps s) :
    b.untimed.KeepsOut (execPerstNRelease t env s) :=
  .next (.ite h.at h.at.updBoot.bootTo)

theorem Frame.Keeps.execBootStageTimeout {t : Tb} (h : b.untimed.Keeps s) :
    b.untimed.KeepsOut (execBootStageTimeout t s) := by
  unfold Machine.execBootStageTimeout
  simp only
  refine .next ?_
  split
  · exact .ite h.at.bootFail h.at.bootFail
  · exact h.at.takeFree.bootFail
  · exact h.at.takeFree.bootFail
  · exact h.at.bootFail
  · exact h.at.takeFree.bootFail
  · exact h.at.takeFree.bootFail
  · exact h.at.bootFail
  · exact h.at

theorem Frame.Keeps.finishPage (h : a.Keeps s) : a.Keeps s.finishPage := by
  unfold State.finishPage
  split
  · exact h
  · exact .ite h.flashProgram.updSerial h

theorem Frame.Keeps.partRecovery {cause : Nat} {tb : Tb} {still : BitVec 4} {boot : Option BootEnv} (h : a.Keeps s) :
    a.Keeps (s.partRecovery cause tb still boot) := by
  unfold State.partRecovery
  simp only
  split
  · exact (Frame.Keeps.foldl h.finishPage fun _ _ hs => hs.journalPut).partReset.allStill.same.bootTo.anyInstant
  · exact (Frame.Keeps.foldl h.finishPage fun _ _ hs => hs.journalPut).partReset.allStill.same.anyInstant

/-! ### RunOps -/

theorem Frame.Keeps.updRun {tag : BitVec 12} {f : Run → Run} (h : a.Keeps s) : a.Keeps (s.updRun tag f) := h

theorem Frame.Keeps.dropFlags {k : Nat} {t : Tb} (h : a.Keeps s) : a.Keeps (s.dropFlags k t) := by
  unfold State.dropFlags
  simp only
  split
  · exact (h.updRed.crossing (origin := t) (worst := 33)).trigSee
  · exact h.updRed

theorem Frame.Keeps.finalRecords {r : Run} {k : Nat} (h : a.Keeps s) : a.Keeps (s.finalRecords r k) := h

theorem Frame.Keeps.lastPass {k : Nat} (h : a.Keeps s) : a.Keeps (s.lastPass k) := by
  unfold State.lastPass
  split
  · exact .ite h.finalRecords h
  · exact h

theorem Frame.Keeps.clusterDone {k : Nat} {t : Tb} (h : a.Keeps s) : a.Keeps (s.clusterDone k t) :=
  h.updSeq.closeWindows.dropFlags.lastPass

theorem Frame.Keeps.takeOverrides {r : Run} {k : Nat} (h : a.Keeps s) : a.Keeps (s.takeOverrides r k) := by
  unfold State.takeOverrides
  exact h.updLanes

theorem Frame.Keeps.runStill {r : Run} {k : Nat} {cause : BitVec 4} {fault : Bool} (h : a.Keeps s) :
    a.Keeps (s.runStill r k cause fault) :=
  .ite h.takeOverrides.updLanes (.ite h.takeOverrides.updLanes.rpsDropWaiting.rpsUrgent
    h.takeOverrides.updLanes.orderlyStillLanes)

theorem Frame.Keeps.closeRecords {r : Run} {k : Nat} (h : a.Keeps s) : a.Keeps (s.closeRecords r k) :=
  h.closeAll.updRed.finalRecords

theorem Frame.Keeps.restoreCfg {r : Run} (h : a.Keeps s) : a.Keeps (s.restoreCfg r) := h.updChans

theorem Frame.Keeps.runClose {tag : BitVec 12} (h : a.Keeps s) : a.Keeps (s.runClose tag) := by
  unfold State.runClose
  simp only
  split
  · exact h
  · exact ((((h.foldl fun _ _ hs => .ite hs hs.runStill).foldl fun _ _ hs =>
      hs.closeRecords).restoreCfg).updClusters).runFinal

theorem Frame.Keeps.clusterStop {r : Run} {k : Nat} (h : a.Keeps s) : a.Keeps (s.clusterStop r k) :=
  .ite h h.clusterDone.updRun.updSeq

theorem Frame.Keeps.clusterAbort {r : Run} {k : Nat} {cause : BitVec 4} {fault : Bool} (h : a.Keeps s) :
    a.Keeps (s.clusterAbort r k cause fault) :=
  .ite h h.clusterStop.runStill

theorem Frame.Keeps.abortGroup {g : Nat} {st : Status} {detail : BitVec 8} {cause : Nat} (h : a.Keeps s) :
    a.Keeps (s.abortGroup g st detail cause) := by
  unfold State.abortGroup
  simp only
  split
  · exact h
  · exact (Frame.Keeps.ite h h.updRun).lineUp

theorem Frame.Keeps.runKill {tag : BitVec 12} {st : Status} {detail : BitVec 8} {cause : Nat} (h : a.Keeps s) :
    a.Keeps (s.runKill tag st detail cause) := by
  unfold State.runKill
  simp only
  split
  · exact h
  · exact (h.updRun.foldl fun _ _ hs => hs.clusterAbort).runClose

theorem Frame.Keeps.hostAbort {r : Run} {cause : Nat} (h : a.Keeps s) : a.Keeps (s.hostAbort r cause) :=
  .ite h.abortGroup h.unarm.runFinal

theorem Frame.Keeps.hostAbortAll {cause : Nat} (h : a.Keeps s) : a.Keeps (s.hostAbortAll cause) :=
  h.foldl fun _ _ hs => hs.hostAbort

theorem Frame.Keeps.disconnectUnheld (h : a.Keeps s) :
    a.Keeps s.disconnectUnheld := h.foldl fun _ _ hs => hs.orderlyDisconnect

/-! ### Fault -/

theorem Frame.Keeps.epochMark {h' : Handling} {out : Bool} (h : a.Keeps s) : a.Keeps (s.epochMark h' out) :=
  h.updBoot.raise_

theorem Frame.Keeps.endHandling {d : Nat} {h' : Handling} {out : Bool} (h : a.Keeps s) :
    a.Keeps (s.endHandling d h' out) :=
  h.updDie.epochMark

theorem Frame.Keeps.endClusterHandlings (h : a.Keeps s) : a.Keeps s.endClusterHandlings := by
  unfold State.endClusterHandlings
  refine h.foldl fun _ _ hs => ?_
  split
  · exact .ite hs.endHandling hs
  · exact hs

theorem Frame.Keeps.channelHandling {h' : Handling} (h : a.Keeps s) : a.Keeps (s.channelHandling h') := by
  unfold State.channelHandling
  simp only
  refine .revokeRuns ?_
  refine h.foldl fun _ _ hs => ?_
  split
  · exact hs.updChan.updRec
  · exact hs

theorem Frame.Keeps.clusterHandling {d : Nat} {h' : Handling} (h : a.Keeps s) : a.Keeps (s.clusterHandling d h') :=
  (((Frame.Keeps.ite h (h.foldl fun _ _ hs => hs.abortGroup)).revokeRuns).updDie).endClusterHandlings

theorem Frame.Keeps.breakImages {d detail cause : Nat} (h : a.Keeps s) : a.Keeps (s.breakImages d detail cause) :=
  h.same.revokeRuns

theorem Frame.Keeps.dieContentLost {d detail cause : Nat} (h : a.Keeps s) : a.Keeps
    (s.dieContentLost d detail cause) :=
  (h.same.updClusters.updDram fun _ _ => Mem.wf_nil _).breakImages

theorem Frame.Keeps.leaveGroups {d : Nat} (h : a.Keeps s) : a.Keeps (s.leaveGroups d) := h.withGroups
    (List.length_map _)

theorem Frame.Keeps.dieCause {code : BitVec 16} (h : a.Keeps s) :
    a.Keeps (s.dieCause code).2 := .iteSnd h (.iteSnd h (.iteSnd h h.takeFree))

theorem Frame.Keeps.diagLost {d : Nat} (h : a.Keeps s) : a.Keeps (s.diagLost d) := .ite h.takeFree.same h

theorem Frame.Keeps.dieStop {d : Nat} {h' : Handling} (h : a.Keeps s) : a.Keeps (s.dieStop d h') :=
  (((Frame.Keeps.ite h.dieCause.hwStillDie.diagLost.updDie h.dieCause.hwStillDie.diagLost.updDie.dieContentLost).foldl
    fun _ _ hs => hs.runKill).revokeRuns).foldl fun _ _ hs => hs.revoke

theorem Frame.Keeps.markStale {d : Nat} (h : a.Keeps s) : a.Keeps (s.markStale d) :=
  h.withDies (List.length_map _) (forall_mem_map_of fun _ hx => hx)

theorem Frame.Keeps.dieOut {d cause : Nat} (h : a.Keeps s) : a.Keeps (s.dieOut d cause) :=
  h.diagLost.updDie.breakImages.leaveGroups.markStale

theorem Frame.Keeps.stillAgain {d : Nat} (h : a.Keeps s) : a.Keeps (s.stillAgain d) := h.updChans

theorem Frame.Keeps.dieRestart {d : Nat} {h' : Handling} {rec : RecEnv} (h : a.Keeps s) :
    a.Keeps (s.dieRestart d h' rec) := by
  have hp {f : Die → Die} (hf : ∀ x : Die, x.canonical → (f x).canonical) :
      a.Keeps ((s.takeFree.2.updDie d f).patchDie d).2 := (h.takeFree.updDie hf).patchDie
  unfold State.dieRestart
  simp only
  refine .endHandling (.markStale (.updDie ?_ fun x hx => Die.canonical_ite hx hx))
  split
  · refine Frame.Keeps.raise_ (.updChans (.stillAgain (.ite (hp ?cal) (hp ?cal).trainDie)))
    case cal => exact fun x hx => ⟨hx.1, Mem.wf_ite hx.2 (Mem.wf_nil _)⟩
  · refine Frame.Keeps.updChans (.stillAgain (.ite (hp ?cal) (hp ?cal).trainDie))
    case cal => exact fun x hx => ⟨hx.1, Mem.wf_ite hx.2 (Mem.wf_nil _)⟩

theorem Frame.Keeps.dieHandling {d : Nat} {h' : Handling} {rec : Option RecEnv} (h : a.Keeps s) :
    a.Keeps (s.dieHandling d h' rec) := by
  unfold State.dieHandling
  simp only
  split
  · exact h.dieStop.updDie.markStale.endHandling
  · split
    · exact h.dieStop.dieOut.endHandling
    · split
      · exact .ite h.dieStop.dieRestart h.dieStop.updDie
      · exact h.dieStop.updDie

theorem Frame.Keeps.startHandling {d : Nat} {h' : Handling} {rec : Option RecEnv} (h : a.Keeps s) :
    a.Keeps (s.startHandling d h' rec) := by
  unfold State.startHandling
  simp only
  split
  · exact h.updDie.channelHandling
  · exact h.updDie.clusterHandling
  · exact h.updDie.dieHandling
  · exact h.updDie

theorem Frame.Keeps.queueFull {d : Nat} {h' : Handling} {rec : Option RecEnv} {boot : Option BootEnv}
    (h : a.Keeps s) :
    a.Keeps (s.queueFull d h' rec boot) := by
  unfold State.queueFull
  simp only
  split
  · exact h.updDie.partRecovery
  · split
    · exact .ite h.updDie h.updDie.dieHandling
    · exact h.updDie.dieHandling

theorem Frame.Keeps.queueFault {d : Nat} {h' : Handling} {rec : Option RecEnv} {boot : Option BootEnv}
    (h : a.Keeps s) :
    a.Keeps (s.queueFault d h' rec boot) :=
  .ite h (.ite h.updDie h.queueFull)

theorem Frame.Keeps.faultPart {e : NewEvent} {boot : Option BootEnv} (h : a.Keeps s) : a.Keeps (s.faultPart e boot) :=
  h.raise_.partRecovery

theorem Frame.Keeps.faultBoot {d : Nat} {sc : Scope} {e : NewEvent} (h : a.Keeps s) : a.Keeps (s.faultBoot d sc e) :=
  .ite h.bootOffline h.raise_

theorem Frame.Keeps.fault {sc : Scope} {e : NewEvent} {rec : Option RecEnv} {boot : Option BootEnv} {later : Bool}
    (h : a.Keeps s) : a.Keeps (s.fault sc e rec boot later) := by
  have ha {gs : List Nat} {st : Status} {x : BitVec 8} {y : Nat} {p : Prop} [Decidable p] {u : State}
    (hu : a.Keeps u) :
      a.Keeps (if p then gs.foldl (fun s g => s.abortGroup g st x y) u else u) :=
    .ite (hu.foldl fun _ _ hs => hs.abortGroup) hu
  have hr (e : NewEvent) : a.Keeps (s.raise e).2 := h.raise
  unfold State.fault
  simp only
  refine .ite h.faultPart (.ite h.faultBoot ?_)
  cases s.fate sc.die sc with
  | start =>
    simp only
    specialize hr e
    generalize s.raise e = p at hr ⊢
    exact (ha hr).startHandling
  | wait =>
    simp only
    specialize hr e
    generalize s.raise e = p at hr ⊢
    exact (ha hr).queueFault
  | escalate o x =>
    simp only
    specialize hr { e with escalated := true, linkBack := s.linkTo x.seq }
    generalize s.raise { e with escalated := true, linkBack := s.linkTo x.seq } = p at hr ⊢
    exact (ha hr).updDie.updDie.startHandling

theorem Frame.Keeps.faultChannel {n code detail : Nat} (h : a.Keeps s) : a.Keeps (s.faultChannel n code detail) :=
  h.fault

theorem Frame.Keeps.monitorTrip {n : Nat} {cause : BitVec 4} {code detail : Nat} {flag : ChFlags → ChFlags}
    (h : a.Keeps s) :
    a.Keeps (s.monitorTrip n cause code detail flag) :=
  h.updChan.hwStill.faultChannel

theorem Frame.Keeps.execProtTrip {t : Tb} {n : Nat} {above : Bool} (h : b.untimed.Keeps s) :
    b.untimed.KeepsOut (execProtTrip t n above s) :=
  .next (.ite h.at.monitorTrip h.at)

theorem Frame.Keeps.execSenseDiverge {t : Tb} {n : Nat} (h : b.untimed.Keeps s) :
    b.untimed.KeepsOut (execSenseDiverge t n s) :=
  .next (.ite h.at.monitorTrip h.at)

theorem Frame.Keeps.execOvertempStage {t : Tb} {n : Nat} {pmu : Bool} (h : b.untimed.Keeps s) :
    b.untimed.KeepsOut (execOvertempStage t n pmu s) :=
  .next (.ite h.at.takeFree (.ite h.at.takeFree.updChan.hwStill.faultChannel h.at.takeFree.updChan.raise_))

theorem Frame.Keeps.execOtFlagClear {t : Tb} {n : Nat} {pmu : Bool} (h : b.untimed.Keeps s) :
    b.untimed.KeepsOut (execOtFlagClear t n pmu s) :=
  .next h.at.updChan

theorem Frame.Keeps.execFwWatchdog {t : Tb} {d : Nat} {rec : Option RecEnv} {boot : Option BootEnv}
    (h : b.untimed.Keeps s) :
    b.untimed.KeepsOut (execFwWatchdog t d rec boot s) :=
  .next (.ite h.at.updDie.fault h.at)

theorem Frame.Keeps.execTbpllLol {t : Tb} {d : Nat} {rec : Option RecEnv} {boot : Option BootEnv}
    (h : b.untimed.Keeps s) :
    b.untimed.KeepsOut (execTbpllLol t d rec boot s) :=
  .next (.ite ((Frame.Keeps.ite h.at h.at.updDie).fault) h.at)

theorem Frame.Keeps.execRpsFault {t : Tb} {d : Nat} {ctx : BitVec 3} {kind : BitVec 4} {addr : BitVec 13}
    {rec : Option RecEnv} {boot : Option BootEnv} (h : b.untimed.Keeps s) :
    b.untimed.KeepsOut (execRpsFault t d ctx kind addr rec boot s) :=
  .next (.ite h.at.microSyncAll.updRps.fault h.at)

theorem Frame.Keeps.recoveryLost {d : Nat} {h' : Handling} {detail : Nat} (h : a.Keeps s) :
    a.Keeps (s.recoveryLost d h' detail) :=
  ((Frame.Keeps.ite h.raise.dieContentLost h.raise).dieOut).endHandling

theorem Frame.Keeps.execDieRecoveryTimeout {t : Tb} {d : Nat} (h : b.untimed.Keeps s) :
    b.untimed.KeepsOut (execDieRecoveryTimeout t d s) := by
  unfold Machine.execDieRecoveryTimeout
  simp only
  refine .next ?_
  split
  · exact .ite h.at.recoveryLost h.at
  · exact h.at

theorem Frame.Keeps.execHandlingDequeue {t : Tb} {d : Nat} {rec : Option RecEnv} (h : b.untimed.Keeps s) :
    b.untimed.KeepsOut (execHandlingDequeue t d rec s) := by
  unfold Machine.execHandlingDequeue
  simp only
  refine .next ?_
  split
  · split
    · exact .ite h.at.dieRestart h.at
    · exact h.at
  · exact .ite h.at (.ite h.at.updDie h.at.updDie.startHandling)
  · exact h.at

theorem Frame.Keeps.linkShrink {n : Nat} (h : a.Keeps s) : a.Keeps (s.linkShrink n) := by
  induction n generalizing s with
  | zero => exact h
  | succ n ih =>
    unfold State.linkShrink
    simp only
    split
    · exact ih h.revoke
    · exact h

theorem Frame.Keeps.linkFell (h : a.Keeps s) : a.Keeps s.linkFell := h.linkShrink

theorem Frame.Keeps.cutOff {d : Nat} (h : a.Keeps s) : a.Keeps (s.cutOff d) := by
  unfold State.cutOff
  split
  · exact h.fault
  · split
    · exact .ite h.recoveryLost h
    · exact h

theorem Frame.Keeps.execBridgeDegrade {t : Tb} {port : Nat} (h : b.untimed.Keeps s) :
    b.untimed.KeepsOut (execBridgeDegrade t port s) :=
  .next (.ite (h.at.cutLink.raise_.linkFell.foldl fun _ _ hs => hs.cutOff) h.at)

end Sys2Proof.Machine

end

section
/-! SUPPORT. The order of the memories and banks through the host interface, measurement and sequencing. -/

namespace Sys2Proof.Machine

set_option Elab.async false

variable {a : Frame} {b s t : State}

/-! ### Host -/

theorem Frame.Keeps.bar0Clear {off : Nat} (h : a.Keeps s) : a.Keeps (s.bar0Clear off) :=
  .ite h.updPci (.ite h.updPci (.ite h.updPci (.ite h.updPci (.ite h.same h))))

/-- What a read of DMA_DONE of a busy channel takes is a free value. -/
theorem Frame.Keeps.dmaDone {off : Nat} {w : Word} {u : State} (h : a.Keeps s) (hd : s.dmaDone off = some (w, u)) :
    a.Keeps u := by
  unfold State.dmaDone at hd
  split at hd
  · obtain ⟨b, -, hb⟩ := Option.map_eq_some_iff.mp hd
    cases hb
    exact h.takeFree
  · cases hd

theorem Frame.Keeps.bar0Read {off : Nat} {be : BitVec 4} (h : a.Keeps s) : a.Keeps (s.bar0Read off be) := by
  unfold State.bar0Read
  simp only
  cases hd : (s.updPci fun p => { p with l1 := false }).dmaDone off with
  | none => exact h.updPci.same.bar0Clear.updOut
  | some r => exact (h.updPci.dmaDone hd).same.bar0Clear.updOut

theorem Frame.Keeps.hostSign (h : a.Keeps s) : a.Keeps s.hostSign := .ite (.ite h.updEv.updEv.raise_ h.updEv) h

theorem Frame.Keeps.badDoorbell (h : a.Keeps s) : a.Keeps s.badDoorbell := h.updPci

theorem Frame.Keeps.stopInlet {i : Nat} (h : a.Keeps s) : a.Keeps (s.stopInlet i) := h.updInlet.misc.raise_

theorem Frame.Keeps.inletDoorbell {i : Nat} {v : Word} (h : a.Keeps s) : a.Keeps (s.inletDoorbell i v) :=
  .ite h.hostSign.badDoorbell (.ite h.hostSign.stopInlet h.hostSign.updInlet)

theorem Frame.Keeps.outletDoorbell {o : Nat} {v : Word} (h : a.Keeps s) : a.Keeps (s.outletDoorbell o v) :=
  .ite h.updOutlet.flushAll h.badDoorbell

theorem Frame.Keeps.eventDoorbell {v : Word} (h : a.Keeps s) : a.Keeps (s.eventDoorbell v) :=
  .ite h.same h.badDoorbell

theorem Frame.Keeps.ringCfg {r : RingId} {v : Word} (h : a.Keeps s) : a.Keeps (s.ringCfg r v) := by
  unfold State.ringCfg
  split
  · exact h.updInlet
  · exact h.updOutlet.flushAll
  · exact h.same.flushAll

theorem Frame.Keeps.ringSet {off : Nat} {v : Word} (h : a.Keeps s) : a.Keeps (s.ringSet off v) :=
  .ite (.ite h.ringCfg h.updInlet) (.ite (.ite h.ringCfg h.updOutlet) (.ite (.ite h.ringCfg h.same) h))

theorem Frame.Keeps.groupCopy {g : Nat} (h : a.Keeps s) : a.Keeps (s.groupCopy g).2 := by
  refine Frame.Keeps.foldlSnd h.same fun p _ hp => ?_
  split
  · next hd => exact hp.dmaDone hd
  · exact hp

theorem Frame.Keeps.snap {v : Word} (h : a.Keeps s) : a.Keeps (s.snap v) := .ite h.same (.ite h.groupCopy.same h)

theorem Frame.Keeps.setAperture {hi : Bool} {v : Word} (h : a.Keeps s) : a.Keeps (s.setAperture hi v) :=
  .ite (.ite h.updPci h.updPci) (.ite h.updPci h.updPci)

theorem Frame.Keeps.diagRun (h : a.Keeps s) : a.Keeps s.diagRun := by
  have hw {x : Nat} {ws : List Word} : a.Keeps (s.burstWrite x ws).2.2 := h.burstWrite
  have hr {l : Latches} {x n : Nat} : a.Keeps (s.burstRead l x n).2.2.2.2 := h.burstRead
  -- Left in place, the bursts are evaluated by the kernel when it takes their answers apart.
  obtain ⟨write, hwrite⟩ : ∃ f, State.burstWrite = f := ⟨_, rfl⟩
  obtain ⟨read, hread⟩ : ∃ f, State.burstRead = f := ⟨_, rfl⟩
  rw [hwrite] at hw
  rw [hread] at hr
  rw [State.diagRun, hwrite, hread]
  exact .ite h.same (.ite hw.same hr.same)

theorem Frame.Keeps.diagCtl {v : Word} (h : a.Keeps s) : a.Keeps (s.diagCtl v) :=
  .ite (.ite h.same.same h.same.diagRun) h.same

theorem Frame.Keeps.diagSet {off : Nat} {v : Word} (h : a.Keeps s) : a.Keeps (s.diagSet off v) :=
  .ite h.same (.ite h.same (.ite h.diagCtl (.ite h.same (.ite (.ite h.same h.same) h))))

theorem Frame.Keeps.ptmSet {off : Nat} {v : Word} (h : a.Keeps s) : a.Keeps (s.ptmSet off v) := .ite h.same h

theorem Frame.Keeps.bar0Set {off : Nat} {v : Word} (h : a.Keeps s) : a.Keeps (s.bar0Set off v) :=
  .ite h (.ite h.updPci (.ite h.updPci (.ite h.snap (.ite h.setAperture
    (.ite h.setAperture (.ite h.ringSet (.ite h.inletDoorbell (.ite h.outletDoorbell
    (.ite h.eventDoorbell (.ite h.ptmSet (.ite h.diagSet h)))))))))))

theorem Frame.Keeps.bar0Write {off : Nat} {v : Word} {be : BitVec 4} (h : a.Keeps s) :
    a.Keeps (s.bar0Write off v be) :=
  .ite h.updPci.bar0Set h.updPci.updPci

theorem Frame.Keeps.bar4Set {off : Nat} {x : Word} (h : a.Keeps s) : a.Keeps (s.bar4Set off x) :=
  .ite (.ite h.updPci (.ite h.updPci (.ite h.updPci.updPci.sendMsi h.updPci))) h

theorem Frame.Keeps.execInletDb {t : Tb} {i : BitVec 4} {v : Word} (h : b.untimed.Keeps s) :
    b.untimed.KeepsOut (execInletDb t i v s) :=
  .next h.at.bar0Write

theorem Frame.Keeps.execOutletDb {t : Tb} {o : BitVec 4} {v : Word} (h : b.untimed.Keeps s) :
    b.untimed.KeepsOut (execOutletDb t o v s) :=
  .next h.at.bar0Write

theorem Frame.Keeps.execEventDb {t : Tb} {v : Word} (h : b.untimed.Keeps s) : b.untimed.KeepsOut (execEventDb t v s) :=
  .next h.at.bar0Write

theorem Frame.Keeps.execRingCfgWrite {t : Tb} {r : RingId} {v : Word} (h : b.untimed.Keeps s) :
    b.untimed.KeepsOut (execRingCfgWrite t r v s) :=
  .next h.at.bar0Write

theorem Frame.Keeps.execSnapshot {t : Tb} {v : Word} (h : b.untimed.Keeps s) :
    b.untimed.KeepsOut (execSnapshot t v s) :=
  .next h.at.bar0Write

theorem Frame.Keeps.execDiagGo {t : Tb} {v : Word} (h : b.untimed.Keeps s) : b.untimed.KeepsOut (execDiagGo t v s) :=
  .next h.at.bar0Write

theorem Frame.Keeps.execDiagDataEarly {t : Tb} {write : Bool} (h : b.untimed.Keeps s) :
    b.untimed.KeepsOut (execDiagDataEarly t write s) :=
  .next (.ite (.ite h.at.bar0Write h.at.bar0Read) h.at)

theorem Frame.Keeps.execApertureWrite {t : Tb} {hi : Bool} {v : Word} (h : b.untimed.Keeps s) :
    b.untimed.KeepsOut (execApertureWrite t hi v s) :=
  .next h.at.bar0Write

theorem Frame.Keeps.execRegisterWrite {t : Tb} {r : RegAddr} {v : Word} {be : BitVec 4} (h : b.untimed.Keeps s) :
    b.untimed.KeepsOut (execRegisterWrite t r v be s) := by
  unfold Machine.execRegisterWrite
  simp only
  refine .next ?_
  split
  · exact h.at.bar0Write
  · exact h.at.updPci.bar4Set
  · exact .ite h.at.writePlace h.at

theorem Frame.Keeps.readReg {p : Path} {r : RegAddr} {be : BitVec 4} (h : a.Keeps s) :
    a.Keeps (s.readReg p r be) := by
  unfold State.readReg
  split
  · exact h.bar0Read
  · exact h.updPci.updOut
  · exact .ite h.readPlace.same.updOut h
  · exact h

theorem Frame.Keeps.execRcRead {t : Tb} {p : Path} {r : RegAddr} {be : BitVec 4} (h : b.untimed.Keeps s) :
    b.untimed.KeepsOut (execRcRead t p r be s) :=
  .next h.at.readReg

theorem Frame.Keeps.execLoReadLatch {t : Tb} {p : Path} {r : RegAddr} (h : b.untimed.Keeps s) :
    b.untimed.KeepsOut (execLoReadLatch t p r s) :=
  .next h.at.readReg

theorem Frame.Keeps.execBar2Read {t : Tb} {off len : Nat} (h : b.untimed.Keeps s) :
    b.untimed.KeepsOut (execBar2Read t off len s) :=
  .next ((Frame.Keeps.ite h.at.updPci.apertureAsk h.at.updPci).updOut)

theorem Frame.Keeps.execBar2Write {t : Tb} {off : Nat} {data : List Byte} (h : b.untimed.Keeps s) :
    b.untimed.KeepsOut (execBar2Write t off data s) :=
  .next (.ite h.at.updPci.dramWrite.apertureAsk h.at.updPci.updPci)

theorem Frame.Keeps.execL1Entry {t : Tb} (h : b.untimed.Keeps s) : b.untimed.KeepsOut (execL1Entry t s) :=
  .next (.ite h.at.updPci h.at)

theorem Frame.Keeps.execPtmDialogue {t t1 : Tb} {resp : Option (BitVec 64 × Nat)} (h : b.untimed.Keeps s) :
    b.untimed.KeepsOut (execPtmDialogue t t1 resp s) := by
  unfold Machine.execPtmDialogue
  simp only
  split
  · exact .next h.at
  · split
    · split
      · exact .next h.at
      · exact .next h.at
    · exact .next (.ite h.at.same.misc.raise_ h.at.same)

theorem Frame.Keeps.execMsixCoalesce {t : Tb} {r : RingId} (h : b.untimed.Keeps s) :
    b.untimed.KeepsOut (execMsixCoalesce t r s) := by
  unfold Machine.execMsixCoalesce
  simp only
  refine .next ?_
  split
  · exact h.at
  · exact .ite h.at.updOutlet.sendMsi h.at
  · exact .ite h.at.same.sendMsi h.at

theorem Frame.Keeps.execEventPost {t : Tb} (h : b.untimed.Keeps s) : b.untimed.KeepsOut (execEventPost t s) := by
  unfold Machine.execEventPost
  simp only
  split
  · exact .next h.at
  · exact .ite (.next h.at.hostWrite.updEv.same.misc.signalEvent.flushAll) (.next h.at)

/-! ### Seqr -/

theorem Frame.Keeps.lateRequest {k : Nat} {b : BrEntry} {seg : Nat} {origin : Rat} (h : a.Keeps s) :
    a.Keeps (s.lateRequest k b seg origin) := by
  unfold State.lateRequest
  simp only
  split
  · exact h.updSeq
  · split
    · split
      · exact h.updSeq.updRun
      · exact h
    · exact .ite h.updSeq h.updSeq

theorem Frame.Keeps.lateNow {k : Nat} {e : SrcEvent} (h : a.Keeps s) : a.Keeps (s.lateNow k e) := by
  unfold State.lateNow
  simp only
  split
  · exact h
  · exact .ite h.updSeq.lateRequest h

theorem Frame.Keeps.lateBefore {k : Nat} {e : SrcEvent} (h : a.Keeps s) : a.Keeps (s.lateBefore k e) := by
  unfold State.lateBefore
  simp only
  split
  · exact h.foldl fun _ _ hs => .ite hs.updSeq.lateRequest hs
  · exact h

theorem Frame.Keeps.srcEvent {k src idx : Nat} {origin : Rat} {on : Bool} (h : a.Keeps s) :
    a.Keeps (s.srcEvent k src idx origin on) :=
  .ite h (.ite h.updSeq.lateBefore h.updSeq.lateNow)

theorem Frame.Keeps.srcPulse {k src : Nat} {origin : Rat} {len : Nat} (h : a.Keeps s) :
    a.Keeps (s.srcPulse k src origin len) :=
  .ite ((Frame.Keeps.ite h.updSeq.srcEvent h.updSeq).srcEvent) (.ite h.updSeq.srcEvent h.updSeq)

theorem Frame.Keeps.flagEvents {k : Nat} {old : BitVec 16} (h : a.Keeps s) : a.Keeps (s.flagEvents k old) := by
  unfold State.flagEvents
  simp only
  split
  · exact (Frame.Keeps.crossing (.foldl h fun _ _ hs => hs.srcEvent)).trigSee
  · exact h.foldl fun _ _ hs => hs.srcEvent

theorem Frame.Keeps.withFlags {k : Nat} {f : State → State} (h : a.Keeps s) (hf : ∀ u, a.Keeps u → a.Keeps (f u)) :
    a.Keeps (s.withFlags k f) :=
  (hf s h).flagEvents

theorem Frame.Keeps.underrun {k : Nat} {x : Rat} {wave : Bool} (h : a.Keeps s) : a.Keeps (s.underrun k x wave) := by
  unfold State.underrun
  simp only
  split
  · exact h
  · exact .ite h h.updSeq.fault.updSeq

theorem Frame.Keeps.leaveBuffer {k : Nat} {a' : At} (h : a.Keeps s) : a.Keeps (s.leaveBuffer k a') :=
  .ite h.updSeq.underrun h.updSeq

theorem Frame.Keeps.advance {k n : Nat} {a' : At} (h : a.Keeps s) : a.Keeps (s.advance k n a') :=
  .ite h.updSeq.leaveBuffer h.updSeq

theorem Frame.Keeps.produce {k n : Nat} {w : Word} {a' : At} (h : a.Keeps s) : a.Keeps (s.produce k n w a') :=
  (h.foldl fun _ _ hs => hs.updChan.updDie).updSeq

/-- A token keeps the order where its effect does. -/
theorem Frame.Keeps.tokenStep {t : Tb} {k : Nat} {f : State → At → Token → Option State} (h : b.untimed.Keeps s)
    (hf : ∀ u x tok v, b.untimed.Keeps u → f u x tok = some v → b.untimed.Keeps v) :
    b.untimed.Keeps (s.tokenStep t k f) := by
  unfold State.tokenStep
  simp only
  split
  · cases hv : f (s.at t) ‹_› ‹_› with
    | none => exact h.at
    | some v => exact hf _ _ _ _ h.at hv
  · exact h.at

theorem Frame.Keeps.waveSample {r : Run} {k v i c : Nat} {u : State} (h : a.Keeps s)
    (hs : s.waveSample r k v i = some (c, u)) : a.Keeps u := by
  unfold State.waveSample at hs
  simp only at hs
  split at hs
  · cases hs; exact h
  · split at hs
    · cases hs
    · cases hs; exact h.updSeq

theorem Frame.Keeps.waveStart {r : Run} {k v : Nat} {w : Wave} {u : State} (h : a.Keeps s)
    (hs : s.waveStart r k v = some (w, u)) : a.Keeps u := by
  obtain ⟨x, hx, hw⟩ := Option.map_eq_some_iff.mp hs
  cases hw
  exact h.waveSample hx

theorem Frame.Keeps.waveShift {r : Run} {k n : Nat} {d : WaveDesc} {w : Wave} (h : a.Keeps s) :
    a.Keeps (s.waveShift r k d n w).2.2 := by
  induction n generalizing s w with
  | zero => exact h
  | succ n ih =>
    unfold State.waveShift
    split
    · exact h
    · simp only
      split
      · exact h
      · next hx =>
        split at hx
        · cases hx; exact ih h
        · exact ih (h.waveSample hx)

theorem Frame.Keeps.waveStep {r : Run} {k c dacDiv : Nat} {w w' : Wave} {m : Bool} {u : State} (h : a.Keeps s)
    (hw : s.waveStep r k w dacDiv = (c, w', m, u)) : a.Keeps u := by
  have hshift := h.waveShift (r := r) (k := k) (n := dacDiv + 1) (d := s.waveAt r k w.index)
    (w := { w with num := w.num + dacDiv })
  rcases hs : s.waveShift r k (s.waveAt r k w.index) (dacDiv + 1) { w with num := w.num + dacDiv } with ⟨x, y, v⟩
  rw [hs] at hshift
  simp only [State.waveStep, hs] at hw
  split at hw
  · cases hw; exact h
  · cases hw; exact hshift

/-! ### Images -/

theorem Frame.Keeps.addBulks {h' : Hdr} {start : Tb} {gs : List Grant} {source : Nat} {host : BitVec 64}
    (h : a.Keeps s) :
    a.Keeps (s.addBulks h' start gs source host) :=
  h

theorem Frame.Keeps.placeImage {units : List (BitVec 32)} (h : a.Keeps s) : a.Keeps (s.placeImage units).2 :=
  Frame.Keeps.foldlSnd h fun _ _ hp => hp.takeFree

theorem Mem.wf_putRanges {rs : List (Nat × Nat)} {bs : List Byte} {m : Mem} (h : Mem.wf ramByte m = true) :
    Mem.wf ramByte (putRanges rs bs m) = true := by
  induction rs generalizing bs m with
  | nil => exact h
  | cons r rs ih => exact ih (Mem.wf_put h)

theorem Frame.Keeps.storePart {i : Image} {bs : List Byte} {d : Nat} (h : a.Keeps s) : a.Keeps (s.storePart i bs d) :=
  h.updDram fun _ => Mem.wf_putRanges

theorem Frame.Keeps.execImageLoad {t : Tb} {h' : Hdr} {hostAddr size : BitVec 64} {units : List (BitVec 32)}
    (h : b.untimed.Keeps s) : b.untimed.KeepsOut (execImageLoad t h' hostAddr size units s) := by
  refine .next (h.request fun u _ _ _ hu => ?_)
  have hp := hu.placeImage (units := units)
  revert hp
  generalize u.placeImage units = p
  intro hp
  exact Frame.Keeps.same (hp.addBulks)

theorem Frame.Keeps.loadEnds {tag : BitVec 12} {id : Nat} {st : Status} {detail flags cause : Nat} (h : a.Keeps s) :
    a.Keeps (s.loadEnds tag id st detail flags cause) :=
  h.same.dropBulks.finish

theorem Frame.Keeps.loadHeader {tag : BitVec 12} {id : Nat} {header : List Byte} (h : a.Keeps s) :
    a.Keeps (s.loadHeader tag id header) := by
  unfold State.loadHeader
  simp only
  split
  · exact h
  · split
    · exact h
    · split
      · exact h.loadEnds
      · exact .ite h.loadEnds h.updImage.same

theorem Frame.Keeps.loadMoved {tag : BitVec 12} {id : Nat} {data : List Byte} {late : Nat × Nat} (h : a.Keeps s) :
    a.Keeps (s.loadMoved tag id data late) := by
  unfold State.loadMoved
  simp only
  split
  · exact h
  · split
    · exact h.loadEnds
    · exact .ite (((h.updImage.foldl fun _ _ hs => hs.storePart).dropBulks).finish) h

theorem Frame.Keeps.execImageVerify {t : Tb} {h' : Hdr} {id : BitVec 64} (h : b.untimed.Keeps s) :
    b.untimed.KeepsOut (execImageVerify t h' id s) :=
  .next (h.request fun _ _ _ _ hs => .ite hs.finish hs.updImage)

theorem Frame.Keeps.pickFail {fs : List VFail} (h : a.Keeps s) : a.Keeps (s.pickFail fs).2 := h.takeFree

theorem Frame.Keeps.execVerificationDone {t : Tb} {tag : BitVec 12} (h : b.untimed.Keeps s) :
    b.untimed.KeepsOut (execVerificationDone t tag s) := by
  unfold Machine.execVerificationDone
  simp only
  refine .next ?_
  split
  · exact h.at
  · split
    · split
      · have hp := h.at (t := t) |>.pickFail (fs := verifyFails ((s.at t).imgRd ‹_›))
        split
        · next hf => rw [hf] at hp; exact hp.updImage.finish
        · next hf => rw [hf] at hp; exact hp.updImage.finish
      · exact .ite h.at.finish h.at
    · exact h.at

theorem Frame.Keeps.execImageUnload {t : Tb} {h' : Hdr} {id : BitVec 64} (h : b.untimed.Keeps s) :
    b.untimed.KeepsOut (execImageUnload t h' id s) :=
  .next (h.requestNow fun _ hs => hs)

theorem Frame.Keeps.execImageQuery {t : Tb} {h' : Hdr} {id : BitVec 64} (h : b.untimed.Keeps s) :
    b.untimed.KeepsOut (execImageQuery t h' id s) := by
  unfold Machine.execImageQuery
  refine .next ?_
  refine h.immediate fun _ hs => ?_
  split
  · exact hs
  · exact hs.takeFree

theorem Frame.Keeps.execCaptureRead {t : Tb} {h' : Hdr} {k i : BitVec 8} {length ringOff : BitVec 32}
    {hostAddr : BitVec 64} (h : b.untimed.Keeps s) :
    b.untimed.KeepsOut (execCaptureRead t h' k i length ringOff hostAddr s) :=
  .next (h.request fun _ _ _ _ hs => hs.addBulks)

theorem Frame.Keeps.resultsDone {tag : BitVec 12} {g src : Nat} {host : BitVec 64} {late : Nat × Nat}
    (h : a.Keeps s) :
    a.Keeps (s.resultsDone tag g src host late) := by
  unfold State.resultsDone
  simp only
  split
  · exact h.hostWrite.finish
  · exact h.finish

theorem Frame.Keeps.execResultsRead {t : Tb} {h' : Hdr} {group hist : BitVec 8} {first count : BitVec 16}
    {runS hostAddr : BitVec 64} (h : b.untimed.Keeps s) :
    b.untimed.KeepsOut (execResultsRead t h' group hist first count runS hostAddr s) :=
  .next (h.request fun _ _ _ _ hs => .ite hs.resultsDone hs.addBulks)

theorem Frame.Keeps.execFailLogRead {t : Tb} {h' : Hdr} {k : BitVec 8} {first count : BitVec 32}
    {hostAddr : BitVec 64} (h : b.untimed.Keeps s) :
    b.untimed.KeepsOut (execFailLogRead t h' k first count hostAddr s) :=
  .next (h.request fun _ _ _ _ hs => hs.addBulks)

theorem Frame.Keeps.readMoved {w : Work} {b : Bulk} {late : Nat × Nat} (h : a.Keeps s) :
    a.Keeps (s.readMoved w b late) :=
  .ite h.hostWrite.finish (.ite h.resultsDone h.hostWrite.finish)

theorem Frame.Keeps.updBulk {tag : BitVec 12} {d : Nat} {f : Bulk → Bulk} (h : a.Keeps s) :
    a.Keeps (s.updBulk tag d f) :=
  h

theorem Frame.Keeps.bulkRequest {tag : BitVec 12} {b : Bulk} (h : a.Keeps s) : a.Keeps (s.bulkRequest tag b) := by
  unfold State.bulkRequest
  simp only
  split
  · exact h.dramAsk
  · exact h

theorem Frame.Keeps.execBulkTransferStart {t : Tb} {tag : BitVec 12} {die : Nat} {header : List Byte}
    (h : b.untimed.Keeps s) :
    b.untimed.KeepsOut (execBulkTransferStart t tag die header s) := by
  unfold Machine.execBulkTransferStart
  simp only
  refine .next ?_
  split
  · exact h.at
  · split
    · exact h.at
    · split
      · exact .ite h.at.updBulk.updWork.bulkRequest.loadHeader h.at.updBulk.updWork.bulkRequest
      · split
        · exact .ite h.at.updBulk.updWork.bulkRequest.loadHeader h.at.updBulk.updWork.bulkRequest
        · exact h.at.updBulk

theorem Frame.Keeps.execBulkComplete {t : Tb} {tag : BitVec 12} {die : Nat} {data : List Byte} (h : b.untimed.Keeps s) :
    b.untimed.KeepsOut (execBulkComplete t tag die data s) := by
  unfold Machine.execBulkComplete
  simp only
  refine .next ?_
  split
  · exact .ite h.at (.ite h.at.updBulk.same.loadMoved (.ite h.at.updBulk.same.readMoved.dropBulks h.at.updBulk.same))
  · exact h.at

theorem Frame.Keeps.bulkStop {w : Work} {st : Status} {detail flags moved cause : Nat} (h : a.Keeps s) :
    a.Keeps (s.bulkStop w st detail flags moved cause) := by
  unfold State.bulkStop
  simp only
  split
  · exact h
  · exact .ite h.loadEnds h.dropBulks.finish

theorem Frame.Keeps.execBulkDeadlineStop {t : Tb} {tag : BitVec 12} {moved : Nat} (h : b.untimed.Keeps s) :
    b.untimed.KeepsOut (execBulkDeadlineStop t tag moved s) := by
  unfold Machine.execBulkDeadlineStop
  simp only
  refine .next ?_
  split
  · exact .ite h.at.bulkStop h.at
  · exact h.at

/-! ### SeqRows -/

theorem Frame.Keeps.execBranchDecision {t : Tb} {k : Nat} {seen : List Bool} (h : b.untimed.Keeps s) :
    b.untimed.KeepsOut (execBranchDecision t k seen s) := by
  unfold Machine.execBranchDecision
  simp only
  refine .next ?_
  split
  · exact h.at
  · split
    · exact h.at
    · split
      · exact h.at.updSeq.updSeq.raise_
      · split
        · exact h.at.updSeq
        · split
          · exact h.at.updSeq.updSeq.lateRequest
          · exact h.at.updSeq

theorem Frame.Keeps.execDict {t : Tb} {k : Nat} (h : b.untimed.Keeps s) : b.untimed.KeepsOut (execDict t k s) := by
  refine .next (h.tokenStep fun u x tok v hu hv => ?_)
  split at hv
  · cases hv; exact hu.produce.advance
  · cases hv

theorem Frame.Keeps.execRepeatTok {t : Tb} {k : Nat} (h : b.untimed.Keeps s) :
    b.untimed.KeepsOut (execRepeatTok t k s) := by
  refine .next (h.tokenStep fun u x tok v hu hv => ?_)
  split at hv
  · cases hv; exact hu.produce.advance
  · cases hv

theorem Frame.Keeps.execLiteral {t : Tb} {k : Nat} (h : b.untimed.Keeps s) :
    b.untimed.KeepsOut (execLiteral t k s) := by
  refine .next (h.tokenStep fun u x tok v hu hv => ?_)
  split at hv
  · cases hv; exact hu.produce.advance
  · cases hv

/-- A control token keeps the order where its effect does. -/
theorem Frame.Keeps.controlStep {t : Tb} {k op : Nat} {f : State → At → Nat → State} (h : b.untimed.Keeps s)
    (hf : ∀ u x n, b.untimed.Keeps u → b.untimed.Keeps (f u x n)) : b.untimed.Keeps (s.controlStep t k op f) := by
  refine h.tokenStep fun u x tok v hu hv => ?_
  split at hv
  · split at hv
    · cases hv; exact (hf _ _ _ hu).advance
    · cases hv
  · cases hv

theorem Frame.Keeps.execNop {t : Tb} {k : Nat} (h : b.untimed.Keeps s) : b.untimed.KeepsOut (execNop t k s) :=
  .next (h.controlStep fun _ _ _ hs => hs)

theorem Frame.Keeps.execSwap {t : Tb} {k : Nat} (h : b.untimed.Keeps s) : b.untimed.KeepsOut (execSwap t k s) := by
  refine .next (h.tokenStep fun u x tok v hu hv => ?_)
  split at hv
  · split at hv
    · cases hv; exact hu.leaveBuffer
    · cases hv; exact hu.advance
  · cases hv

theorem Frame.Keeps.timerLevel {k j : Nat} {v : Bool} {origin : Rat} (h : a.Keeps s) :
    a.Keeps (s.timerLevel k j v origin) := by
  unfold State.timerLevel
  simp only
  split
  · exact (h.srcEvent.crossing (origin := Machine.tick origin) (worst := 3)).trigSee
  · exact h.srcEvent

theorem Frame.Keeps.setTimer {k j : Nat} {origin : Rat} {f : Timer → Timer} (h : a.Keeps s) :
    a.Keeps (s.setTimer k j origin f) :=
  .ite h.updSeq.timerLevel h.updSeq

theorem Frame.Keeps.execTimerStart {t : Tb} {k : Nat} (h : b.untimed.Keeps s) :
    b.untimed.KeepsOut (execTimerStart t k s) :=
  .next (h.controlStep fun _ _ _ hs => hs.setTimer)

theorem Frame.Keeps.execTimerStop {t : Tb} {k : Nat} (h : b.untimed.Keeps s) :
    b.untimed.KeepsOut (execTimerStop t k s) :=
  .next (h.controlStep fun _ _ _ hs => hs.setTimer)

theorem Frame.Keeps.execMaskStrobe {t : Tb} {k : Nat} (h : b.untimed.Keeps s) :
    b.untimed.KeepsOut (execMaskStrobe t k s) :=
  .next (h.controlStep fun _ _ _ hs => hs.updSeq)

theorem Frame.Keeps.execUnmaskStrobe {t : Tb} {k : Nat} (h : b.untimed.Keeps s) :
    b.untimed.KeepsOut (execUnmaskStrobe t k s) :=
  .next (h.controlStep fun _ _ _ hs => hs.updSeq)

theorem Frame.Keeps.execSeqEvent {t : Tb} {k : Nat} (h : b.untimed.Keeps s) : b.untimed.KeepsOut (execSeqEvent t k s) :=
  .next (h.controlStep fun _ _ _ hs => hs.pulseTo)

theorem Frame.Keeps.execClusterTimerExpiry {t : Tb} {k : Nat} {j : BitVec 2} (h : b.untimed.Keeps s) :
    b.untimed.KeepsOut (execClusterTimerExpiry t k j s) :=
  .next (.ite h.at.updSeq.timerLevel h.at)

theorem Frame.Keeps.execFailLogEntry {t : Tb} {k copy : Nat} {above below : BitVec 8} {full : Bool}
    (h : b.untimed.Keeps s) :
    b.untimed.KeepsOut (execFailLogEntry t k copy above below full s) := by
  unfold Machine.execFailLogEntry
  simp only
  refine .next ?_
  split
  · exact h.at
  · split
    · exact h.at
    · exact .ite h.at ((Frame.Keeps.ite h.at.updChans.updCluster.houseAsk h.at.updChans.updCluster).foldl
        fun _ _ hs => hs.crossing.srcEvent.srcEvent.pulseTo)

theorem Frame.Keeps.waveInstant {r : Run} {k n : Nat} (h : a.Keeps s) : a.Keeps (s.waveInstant r k n) := by
  unfold State.waveInstant
  extract_lets u
  have hu : a.Keeps u := by
    unfold u
    split
    · split
      · split
        · exact h.updChan
        · split
          · next hw => exact (h.waveStart hw).updChan
          · exact h.updChan.underrun
      · exact h
    · exact h
  clear_value u
  split
  · split
    · exact hu
    · split
      next hw => exact .ite (hu.waveStep hw).updChan.underrun (hu.waveStep hw).updChan
  · exact hu

theorem Frame.Keeps.forceReplies {tags : List (BitVec 12)} (h : a.Keeps s) : a.Keeps (s.forceReplies tags) :=
  h.foldl fun _ _ hs => .ite hs hs.finish

theorem Frame.Keeps.execDacUpdateInstant {t : Tb} {n : Nat} (h : b.untimed.Keeps s) :
    b.untimed.KeepsOut (execDacUpdateInstant t n s) := by
  unfold Machine.execDacUpdateInstant
  simp only
  refine .next ?_
  split
  · exact h.at
  · split
    · split
      · split
        · split
          · exact h.at.updChan
          · have hw : ∀ r, b.untimed.Keeps (((s.at t).updChan n fun c => c.join (s.at t).tb).waveInstant r (clusterOf n) n) :=
              fun _ => h.at.updChan.waveInstant
            exact .ite (hw _).updChan (.ite (hw _).updChan.forceReplies.underrun (hw _).updChan.forceReplies)
        · exact h.at
      · exact h.at.updChan.forceReplies
    · exact h.at.updChan.forceReplies

theorem Frame.Keeps.execSegWatchdog {t : Tb} {k : Nat} (h : b.untimed.Keeps s) :
    b.untimed.KeepsOut (execSegWatchdog t k s) := by
  unfold Machine.execSegWatchdog
  simp only
  refine .next ?_
  split
  · exact h.at
  · exact .ite h.at h.at.fault

end Sys2Proof.Machine

end

section
/-! SUPPORT. The order of the memories and banks through runs, images, services, the serial port and calibration. -/

namespace Sys2Proof.Machine

set_option Elab.async false

variable {a s t : State}

/-! ### RunRows -/

theorem Frame.Keeps.execRunStart {t : Tb} {h' : Hdr} {id : BitVec 64} {group mode : BitVec 8} {startTb : BitVec 64}
    (h : a.untimed.Keeps s) :
    a.untimed.KeepsOut (execRunStart t h' id group mode startTb s) :=
  .next (h.request fun _ _ _ _ hs => hs.same.refreshHolds)

theorem Frame.Keeps.execRunStop {t : Tb} {h' : Hdr} {group : BitVec 8} {runTag : BitVec 16} (h : a.untimed.Keeps s) :
    a.untimed.KeepsOut (execRunStop t h' group runTag s) := by
  unfold Machine.execRunStop
  simp only
  refine .next ?_
  refine h.request fun _ _ _ _ hs => ?_
  split
  · exact .ite hs hs.updRun
  · exact hs

theorem Frame.Keeps.execRunAbort {t : Tb} {h' : Hdr} {group : BitVec 8} {runTag : BitVec 16} (h : a.untimed.Keeps s) :
    a.untimed.KeepsOut (execRunAbort t h' group runTag s) := by
  unfold Machine.execRunAbort
  simp only
  refine .next ?_
  refine h.request fun _ _ _ _ hs => ?_
  split
  · exact .ite hs hs.hostAbort
  · exact hs

theorem Frame.Keeps.execRunQuery {t : Tb} {h' : Hdr} {group : BitVec 8} {runTag : BitVec 16} (h : a.untimed.Keeps s) :
    a.untimed.KeepsOut (execRunQuery t h' group runTag s) := by
  unfold Machine.execRunQuery
  simp only
  refine .next ?_
  refine h.immediate fun _ hs => ?_
  split
  · exact hs
  · exact hs

theorem Frame.Keeps.springAsk {r : Run} {k i : Nat} {e : SpringEntry} {deadline : Tb} (h : a.untimed.Keeps s) :
    a.untimed.Keeps (s.springAsk r k i e deadline) :=
  h.dramAsk

theorem Frame.Keeps.armSettings {m : MapRec} (h : a.untimed.Keeps s) : a.untimed.Keeps (s.armSettings m) :=
  .ite h.updChans.updCluster h.updChans

theorem Mem.wf_loadSram {r : Rd} {k fixed : Nat} {m : Mem} (h : Mem.wf ramByte m = true) :
    Mem.wf ramByte (loadSram r k fixed m) = true := by
  refine Mem.wf_foldl (fun m x hm => ?_) (Mem.wf_clear (Mem.wf_clear h))
  split
  · exact Mem.wf_setBytes hm
  · exact hm

theorem Cluster.canonical_arm {x : Run} {r : Rd} {k fixed load : Nat} {c : Cluster} (h : c.canonical) :
    (armCluster x r k fixed load c).canonical := by
  obtain ⟨hv, hw, hr⟩ := h
  refine ⟨Mem.wf_loadSram hv, hw, ?_⟩
  unfold armCluster
  simp only
  split
  · exact Mem.wf_setBytes hr
  · exact hr

theorem Frame.Keeps.execRunArm {t : Tb} {tag : BitVec 12} (h : a.untimed.Keeps s) :
    a.untimed.KeepsOut (execRunArm t tag s) := by
  unfold Machine.execRunArm
  simp only
  refine .next ?_
  split
  · exact h.at
  · refine .ite h.at (.ite h.at.runFinal (.ite h.at.runFinal ?_))
    refine Frame.Keeps.updRun (Frame.Keeps.foldl (Frame.Keeps.foldl ?_ fun _ _ hs => hs.armSettings) fun _ _ hs =>
      hs.foldl fun _ _ hs => hs.springAsk)
    exact h.at.updClusters fun _ _ hc => Cluster.canonical_arm hc

theorem Frame.Keeps.startRate {r : Run} {k : Nat} {e : SegEntry} {start : Rat} {first : Bool} (h : a.untimed.Keeps s) :
    a.untimed.Keeps (s.startRate r k e start first) :=
  ((Frame.Keeps.ite h.updPll h).updChans).updSeq

theorem Frame.Keeps.startLevels {r : Run} {k : Nat} {e : SegEntry} {first : Bool} (h : a.untimed.Keeps s) :
    a.untimed.Keeps (s.startLevels r k e first) :=
  .ite h.updChans.updSeq h

theorem Frame.Keeps.startChange {r : Run} {k : Nat} {e : SegEntry} (h : a.untimed.Keeps s) :
    a.untimed.Keeps (s.startChange r k e) := by
  unfold State.startChange
  simp only
  split
  · exact h
  · split
    · exact h
    · exact .ite h.rpsChange.raise_ h.rpsChange

theorem Frame.Keeps.startWaves {r : Run} {k : Nat} {e : SegEntry} {start : Rat} (h : a.untimed.Keeps s) :
    a.untimed.Keeps (s.startWaves r k e start) :=
  .ite h h.updChans

theorem Frame.Keeps.startMarks {r : Run} {e : SegEntry} {start : Rat} (h : a.untimed.Keeps s) :
    a.untimed.Keeps (s.startMarks r e start) :=
  h.foldl fun _ _ hs => .ite (.ite hs.lineUp.same hs.lineUp) ((Frame.Keeps.ite hs.lineUp.same hs.lineUp).foldl
    fun _ _ hs => .ite hs.srcPulse hs.srcPulse.pulseTo)

theorem Frame.Keeps.startRecipes {k : Nat} {e : SegEntry} {start : Rat} (h : a.untimed.Keeps s) :
    a.untimed.Keeps (s.startRecipes k e start) :=
  h.foldl fun _ _ hs => hs.startRecipe

theorem Frame.Keeps.startSprings {k : Nat} {e : SegEntry} {start : Rat} (h : a.untimed.Keeps s) :
    a.untimed.Keeps (s.startSprings k e start) :=
  h.updSeq

theorem Frame.Keeps.startSegment {r : Run} {k i : Nat} {start : Rat} {first : Bool} (h : a.untimed.Keeps s) :
    a.untimed.Keeps (s.startSegment r k i start first) :=
  have hs := h.updSeq.updCluster.startRate.startLevels.startChange.startWaves.startMarks.startRecipes.startSprings
  .ite (.ite hs.updSeq hs.updSeq.underrun) hs

theorem Frame.Keeps.execRunBegin {t : Tb} {tag : BitVec 12} {phase : BitVec 32} (h : a.untimed.Keeps s) :
    a.untimed.KeepsOut (execRunBegin t tag phase s) := by
  unfold Machine.execRunBegin
  simp only
  refine .next ?_
  split
  · exact h.at
  · exact .ite h.at
      ((Frame.Keeps.ite ((((((Frame.Keeps.ite h.at h.at.updPll).same).updRun).updClusters).updChans).updChans)
      (((((Frame.Keeps.ite h.at h.at.updPll).same).updRun).updClusters).updChans)).foldl fun _ _ hs =>
      hs.startSegment)

theorem Frame.Keeps.pathDone {r : Run} {k : Nat} {stop : Rat} (h : a.untimed.Keeps s) :
    a.untimed.Keeps (s.pathDone r k stop) :=
  ((Frame.Keeps.ite h.updSeq.updRun h).clusterDone).updRun

theorem Frame.Keeps.stopAll {r : Run} {stop : Rat} {st : Status} {detail : BitVec 8} (h : a.untimed.Keeps s) :
    a.untimed.Keeps (s.stopAll r stop st detail) :=
  h.updRun.foldl fun _ _ hs => .ite hs hs.clusterDone.updRun

theorem Frame.Keeps.endSegment {k : Nat} {a' : At} (h : a.untimed.Keeps s) : a.untimed.Keeps (s.endSegment k a') := by
  unfold State.endSegment
  simp only
  split
  · exact h.stopAll
  · split
    · exact h.updSeq.pathDone
    · exact h.updSeq.closeWindows.updSeq.startSegment

theorem Frame.Keeps.execSegmentStart {t : Tb} {k : Nat} (h : a.untimed.Keeps s) :
    a.untimed.KeepsOut (execSegmentStart t k s) := by
  unfold Machine.execSegmentStart
  simp only
  refine .next ?_
  split
  · exact h.at
  · split
    · exact h.at
    · split
      · exact .ite h.at h.at.abortGroup
      · exact .ite h.at h.at.endSegment

theorem Frame.Keeps.execRunEnd {t : Tb} {tag : BitVec 12} (h : a.untimed.Keeps s) :
    a.untimed.KeepsOut (execRunEnd t tag s) := by
  unfold Machine.execRunEnd
  simp only
  refine .next ?_
  split
  · exact h.at
  · exact .ite ((h.at.runClose.foldl fun _ _ hs => hs.flagEvents).endClusterHandlings) h.at

theorem Frame.Keeps.execRunLimit {t : Tb} {tag : BitVec 12} (h : a.untimed.Keeps s) :
    a.untimed.KeepsOut (execRunLimit t tag s) := by
  unfold Machine.execRunLimit
  simp only
  refine .next ?_
  split
  · exact h.at
  · exact .ite h.at.abortGroup h.at

theorem Frame.Keeps.execRippleAbort {t : Tb} {k : Nat} (h : a.untimed.Keeps s) :
    a.untimed.KeepsOut (execRippleAbort t k s) := by
  unfold Machine.execRippleAbort
  simp only
  refine .next ?_
  split
  · exact h.at
  · exact .ite (.ite h.at.updSeq.clusterStop h.at.updSeq.clusterAbort) h.at

/-! ### Services -/

theorem Frame.Keeps.execIdentify {t : Tb} {h' : Hdr} {hostAddr : BitVec 64} (h : a.untimed.Keeps s) :
    a.untimed.KeepsOut (execIdentify t h' hostAddr s) :=
  .next (h.immediate fun _ hs => .ite hs hs.hostWrite)

theorem Frame.Keeps.execGetStatus {t : Tb} {h' : Hdr} (h : a.untimed.Keeps s) :
    a.untimed.KeepsOut (execGetStatus t h' s) :=
  .next (h.immediate fun _ hs => hs)

theorem Frame.Keeps.shownId {i : Image} (h : a.untimed.Keeps s) :
    a.untimed.Keeps (s.shownId i).2 := .iteSnd h.takeFree h

theorem Frame.Keeps.sumImages (h : a.untimed.Keeps s) : a.untimed.Keeps s.sumImages.2 :=
  Frame.Keeps.foldlSnd h fun _ _ hp => hp.shownId

theorem Frame.Keeps.summary (h : a.untimed.Keeps s) : a.untimed.Keeps s.summary.2 := by
  unfold State.summary
  simp only
  exact h.sumImages

theorem Frame.Keeps.execResync {t : Tb} {h' : Hdr} {hostAddr : BitVec 64} (h : a.untimed.Keeps s) :
    a.untimed.KeepsOut (execResync t h' hostAddr s) :=
  .next (h.immediate fun _ hs => (Frame.Keeps.summary hs).hostWrite)

theorem Frame.Keeps.execEventConfig {t : Tb} {h' : Hdr} {minSev watch hostLoss : BitVec 8} (h : a.untimed.Keeps s) :
    a.untimed.KeepsOut (execEventConfig t h' minSev watch hostLoss s) :=
  .next (h.immediate fun _ hs => hs.updEv)

theorem Frame.Keeps.execHeartbeat {t : Tb} {h' : Hdr} (h : a.untimed.Keeps s) :
    a.untimed.KeepsOut (execHeartbeat t h' s) :=
  .next (h.immediate fun _ hs => hs.hostSign)

theorem Frame.Keeps.execEventQuery {t : Tb} {h' : Hdr} (h : a.untimed.Keeps s) :
    a.untimed.KeepsOut (execEventQuery t h' s) :=
  .next (h.immediate fun _ hs => hs)

theorem Frame.Keeps.execHostWatchTimeout {t : Tb} (h : a.untimed.Keeps s) :
    a.untimed.KeepsOut (execHostWatchTimeout t s) :=
  .next (.ite (.ite ((Frame.Keeps.ite h.at.updEv.raise h.at.updEv.raise.disconnectUnheld).hostAbortAll)
    (.ite h.at.updEv.raise h.at.updEv.raise.disconnectUnheld)) h.at)

theorem Frame.Keeps.patchAll (h : a.untimed.Keeps s) : a.untimed.Keeps s.patchAll.2 := by
  obtain ⟨f, hf⟩ : ∃ f, State.patchDie = f := ⟨_, rfl⟩
  have hp {u : State} {d : Nat} (hu : a.untimed.Keeps u) : a.untimed.Keeps (f u d).2 := hf ▸ hu.patchDie
  unfold State.patchAll
  rw [hf]
  refine Frame.Keeps.foldlSnd h fun p x hu => ?_
  simp only
  exact (hp hu).rpsPump

theorem Frame.Keeps.runPatch {h' : Hdr} (h : a.untimed.Keeps s) : a.untimed.Keeps (s.runPatch h') :=
  .ite h.patchAll.finish h.patchAll.finish

theorem Frame.Keeps.execPatchQuery {t : Tb} {h' : Hdr} (h : a.untimed.Keeps s) :
    a.untimed.KeepsOut (execPatchQuery t h' s) :=
  .next (h.immediate fun _ hs => hs)

theorem Frame.Keeps.execRegRead {t : Tb} {h' : Hdr} {addr : BitVec 64} {count snap : BitVec 8} {hostAddr : BitVec 64}
    (h : a.untimed.Keeps s) :
    a.untimed.KeepsOut (execRegRead t h' addr count snap hostAddr s) :=
  .next (h.immediate fun _ hs => .iteSnd (.ite hs.burstRead hs.burstRead.hostWrite) hs.burstRead)

theorem Frame.Keeps.execRegWrite {t : Tb} {h' : Hdr} {addr : BitVec 64} {count : BitVec 8} {words : List Word}
    (h : a.untimed.Keeps s) :
    a.untimed.KeepsOut (execRegWrite t h' addr count words s) :=
  .next (h.immediate fun _ hs => hs.burstWrite)

theorem Frame.Keeps.answerFetched {i : Nat} {r : Rd} {dbTb : Tb} {st : Status} {detail : Nat} (h : a.untimed.Keeps s) :
    a.untimed.Keeps (s.answerFetched i r dbTb st detail) :=
  h.noteDecision.post

theorem Frame.Keeps.place {i : BitVec 4} {bytes : List Byte} {payload : Option (List Byte)} {dbTb : Tb}
    (h : a.untimed.Keeps s) :
    a.untimed.Keeps (s.place i bytes payload dbTb) := by
  unfold State.place
  simp only
  split
  · exact h.answerFetched
  · split
    · exact h.answerFetched
    · split
      · split
        · exact h.answerFetched
        · exact h
      · exact h.useTag.updInlet

theorem Frame.Keeps.execDescriptorFetch {t : Tb} {i : BitVec 4} {bytes : List Byte} {payload : Option (List Byte)}
    {ns : Nat} (h : a.untimed.Keeps s) :
    a.untimed.KeepsOut (execDescriptorFetch t i bytes payload ns s) :=
  .next (.ite h.at.consume.fetched.place h.at)

theorem Frame.Keeps.bulkBreak {w : Work} {detail cause : Nat} (h : a.untimed.Keeps s) :
    a.untimed.Keeps (s.bulkBreak w detail cause) :=
  .ite h.takeFree.bulkStop h.takeFree.bulkStop

theorem Frame.Keeps.breakAll (h : a.untimed.Keeps s) : a.untimed.Keeps s.breakAll := h.foldl fun _ _ hs => hs.bulkBreak

theorem Frame.Keeps.execHostDmaFail {t : Tb} {what : DmaRead} {bytes : List Byte} (h : a.untimed.Keeps s) :
    a.untimed.KeepsOut (execHostDmaFail t what bytes s) := by
  unfold Machine.execHostDmaFail
  simp only
  refine .next ?_
  split
  · exact .ite (.ite h.at.misc.stopInlet h.at.misc.updInlet) h.at
  · exact .ite h.at.takeFree.misc.consume.fetched.place h.at
  · split
    · exact .ite h.at.misc.bulkBreak h.at
    · exact h.at

theorem Frame.Keeps.execD3hotEntry {t : Tb} (h : a.untimed.Keeps s) : a.untimed.KeepsOut (execD3hotEntry t s) :=
  .next (.ite h.at h.at.updPci.hostAbortAll.breakAll)

theorem Frame.Keeps.execReturnToD0 {t : Tb} (h : a.untimed.Keeps s) : a.untimed.KeepsOut (execReturnToD0 t s) :=
  .next (.ite h.at.updPci.flushAll h.at)

theorem Frame.Keeps.execInterfaceReset {t : Tb} (h : a.untimed.Keeps s) : a.untimed.KeepsOut (execInterfaceReset t s) :=
  .next ((h.at.withInlets (List.length_map _)).withOutlets (List.length_map _)).same.updPci.breakAll

theorem Frame.Keeps.execLinkChange {t : Tb} {width : BitVec 6} {speed : BitVec 3} (h : a.untimed.Keeps s) :
    a.untimed.KeepsOut (execLinkChange t width speed s) :=
  .next (.ite h.at h.at.updPci.misc.raise_.linkFell)

/-! ### SerialRows -/

theorem Frame.Keeps.updOp {f : FlashOp → FlashOp} (h : a.untimed.Keeps s) : a.untimed.Keeps (s.updOp f) := h.updSerial

theorem Frame.Keeps.endOp {st : Status} {detail : Nat} {res : BitVec 128} (h : a.untimed.Keeps s) :
    a.untimed.Keeps (s.endOp st detail res) := by
  unfold State.endOp
  split
  · exact h
  · exact h.updSerial.finish?

theorem Frame.Keeps.goOp (h : a.untimed.Keeps s) : a.untimed.Keeps s.goOp := by
  unfold State.goOp
  split
  · exact h
  · exact .ite h.updSerial (.ite h.hostWrite.endOp h.updSerial.updOp)

theorem Frame.Keeps.startOp {o : FlashOp} (h : a.untimed.Keeps s) : a.untimed.Keeps (s.startOp o) := h.updSerial.goOp

theorem Frame.Keeps.writeDone {o : FlashOp} (h : a.untimed.Keeps s) : a.untimed.Keeps (s.writeDone o) := by
  unfold State.writeDone
  simp only
  split
  · exact h.endOp
  · exact h.updSerial.endOp

theorem Frame.Keeps.commitFails {o : FlashOp} {header : Bool} (h : a.untimed.Keeps s) :
    a.untimed.Keeps (s.commitFails o header) :=
  (Frame.Keeps.ite h.flashErase h).endOp

theorem Frame.Keeps.commitDone {o : FlashOp} (h : a.untimed.Keeps s) : a.untimed.Keeps (s.commitDone o) := h.same.endOp

theorem Frame.Keeps.commitStep {o : FlashOp} {erase : Bool} {a' : Nat} {bs : List Byte} (h : a.untimed.Keeps s) :
    a.untimed.Keeps (s.commitStep o erase a' bs) :=
  .ite (((Frame.Keeps.ite h.same h).updSerial).commitFails) (.ite ((Frame.Keeps.ite h.same h).commitFails)
    (.ite ((Frame.Keeps.ite h.same h).commitDone) (((Frame.Keeps.ite h.same h).updOp).goOp)))

theorem Frame.Keeps.opStep (h : a.untimed.Keeps s) : a.untimed.Keeps s.opStep := by
  unfold State.opStep
  simp only
  split
  · exact h
  · split
    · exact .ite ((((Frame.Keeps.ite h.flashErase h.flashProgram).updSerial).updOp).writeDone)
        (((((Frame.Keeps.ite h.flashErase h.flashProgram).updSerial).updOp).updOp).goOp)
    · exact .ite ((((Frame.Keeps.ite h.flashErase h.flashProgram).updSerial).updOp).endOp)
        (((((Frame.Keeps.ite h.flashErase h.flashProgram).updSerial).updOp).updOp).goOp)
    · exact (((Frame.Keeps.ite h.flashErase h.flashProgram).updSerial).updOp).commitStep

theorem Frame.Keeps.flashDone (h : a.untimed.Keeps s) : a.untimed.Keeps s.flashDone := .ite h.opStep h

theorem Frame.Keeps.opFails (h : a.untimed.Keeps s) : a.untimed.Keeps s.opFails := by
  unfold State.opFails
  simp only
  split
  · exact h
  · exact .ite h.tear.commitFails (.ite h.tear.endOp h.tear.endOp)

theorem Frame.Keeps.foreign (h : a.untimed.Keeps s) : a.untimed.Keeps s.foreign := by
  unfold State.foreign
  simp only
  split
  · exact h.updSerial
  · exact .ite h.updSerial (.ite ((Frame.Keeps.ite h.updSerial h.updSerial.raise_).opFails)
      (((Frame.Keeps.ite h.updSerial h.updSerial.raise_).updOp).updSerial))

theorem Frame.Keeps.backoff {idle : Bool} (h : a.untimed.Keeps s) : a.untimed.Keeps (s.backoff idle) :=
  .ite h (.ite h.updSerial.goOp (.ite h h.updSerial.goOp))

theorem Frame.Keeps.xipLate (h : a.untimed.Keeps s) : a.untimed.Keeps s.xipLate := by
  unfold State.xipLate
  simp only
  split
  · exact h
  · exact .ite h.updSerial.opFails (.ite h.opFails h)

theorem Frame.Keeps.slaveFall {opcodeSent : Bool} (h : a.untimed.Keeps s) : a.untimed.Keeps (s.slaveFall opcodeSent) :=
  .ite h h.updSerial

theorem Frame.Keeps.slaveRise {partialWord : Bool} (h : a.untimed.Keeps s) :
    a.untimed.Keeps (s.slaveRise partialWord) :=
  .ite h.updSerial.goOp h

theorem Frame.Keeps.execSpSlvSelNFall {t : Tb} {opcodeSent : Bool} (h : a.untimed.Keeps s) :
    a.untimed.KeepsOut (execSpSlvSelNFall t opcodeSent s) :=
  .next h.at.slaveFall

theorem Frame.Keeps.appendJob (h : a.untimed.Keeps s) : a.untimed.Keeps s.appendJob := by
  unfold State.appendJob
  simp only
  split
  · exact h
  · exact .ite h (.ite h.updEv.journalPut.updOp h.updEv.journalPut.goOp)

theorem Frame.Keeps.runNvmRead {h' : Hdr} {off len : BitVec 32} {hostAddr : BitVec 64} (h : a.untimed.Keeps s) :
    a.untimed.Keeps (s.runNvmRead h' off len hostAddr) :=
  h.startOp

theorem Frame.Keeps.runNvmWrite {h' : Hdr} {off len : BitVec 32} {data : List Byte} (h : a.untimed.Keeps s) :
    a.untimed.Keeps (s.runNvmWrite h' off len data) :=
  h.startOp

theorem Frame.Keeps.runNvmErase {h' : Hdr} {off len : BitVec 32} (h : a.untimed.Keeps s) :
    a.untimed.Keeps (s.runNvmErase h' off len) :=
  h.startOp

theorem Frame.Keeps.execNvmStatus {t : Tb} {h' : Hdr} (h : a.untimed.Keeps s) :
    a.untimed.KeepsOut (execNvmStatus t h' s) :=
  .next (h.immediate fun _ hs => hs)

theorem Frame.Keeps.slaveOp {op : Nat} {args : List Word} (h : a.untimed.Keeps s) :
    a.untimed.Keeps (s.slaveOp op args).2.2.2 := by
  unfold State.slaveOp
  simp only
  split
  · exact h
  · split
    · split
      · exact h
      · exact h
    · exact h
    · split
      · exact h
      · exact h.burstRead
    · split
      · exact h
      · exact h
    · exact .ite h.disconnectUnheld.hostAbortAll h.disconnectUnheld
    · exact h

theorem Frame.Keeps.slaveReply {ws : List Word} (h : a.untimed.Keeps s) :
    a.untimed.Keeps (s.slaveReply ws) := h.updSerial

theorem Frame.Keeps.slaveFrame {op : Nat} {words : List Word} (h : a.untimed.Keeps s) :
    a.untimed.Keeps (s.slaveFrame op words) := by
  unfold State.slaveFrame
  simp only
  split
  · exact h
  · exact .ite h (.ite h.updSerial.slaveReply (.ite h.slaveReply (.ite h.slaveReply
      (.ite h.slaveReply h.slaveOp.slaveReply))))

theorem Frame.Keeps.execSlvEcho {t : Tb} {words : List Word} (h : a.untimed.Keeps s) :
    a.untimed.KeepsOut (execSlvEcho t words s) :=
  .next h.at.slaveFrame

theorem Frame.Keeps.execSlvStatus {t : Tb} {words : List Word} (h : a.untimed.Keeps s) :
    a.untimed.KeepsOut (execSlvStatus t words s) :=
  .next h.at.slaveFrame

theorem Frame.Keeps.execSlvRegRead {t : Tb} {words : List Word} (h : a.untimed.Keeps s) :
    a.untimed.KeepsOut (execSlvRegRead t words s) :=
  .next h.at.slaveFrame

theorem Frame.Keeps.execSlvThermal {t : Tb} {words : List Word} (h : a.untimed.Keeps s) :
    a.untimed.KeepsOut (execSlvThermal t words s) :=
  .next h.at.slaveFrame

theorem Frame.Keeps.execSlvStill {t : Tb} {words : List Word} (h : a.untimed.Keeps s) :
    a.untimed.KeepsOut (execSlvStill t words s) :=
  .next h.at.slaveFrame

/-! ### CalRows -/

theorem Frame.Keeps.execCalStatus {t : Tb} {h' : Hdr} (h : a.untimed.Keeps s) :
    a.untimed.KeepsOut (execCalStatus t h' s) :=
  .next (h.immediate fun _ hs => hs)

theorem Frame.Keeps.runCalRead {h' : Hdr} {d off len : Nat} {hostAddr : BitVec 64} (h : a.untimed.Keeps s) :
    a.untimed.Keeps (s.runCalRead h' d off len hostAddr) :=
  h.hostWrite.finish

/-- A change of a die that leaves its DRAM and writes its calibration RAM in canonical form. -/
theorem Frame.Keeps.updCal {d : Nat} {f : Die → Die} (h : a.untimed.Keeps s) (hd : ∀ x : Die, (f x).dram = x.dram)
    (hc : ∀ x : Die, Mem.wf ramByte x.cal = true → Mem.wf ramByte (f x).cal = true) :
    a.untimed.Keeps (s.updDie d f) := by
  refine h.updDie fun x hx => ?_
  obtain ⟨hdram, hcal⟩ := hx
  exact ⟨(hd x).symm ▸ hdram, hc x hcal⟩

theorem Frame.Keeps.runCalWrite {h' : Hdr} {d off len : Nat} {data : List Byte} (h : a.untimed.Keeps s) :
    a.untimed.Keeps (s.runCalWrite h' d off len data) := by
  unfold State.runCalWrite
  refine Frame.Keeps.finish (Frame.Keeps.updChans (h.holdAna.updCal (fun _ => rfl) fun _ hm => ?_))
  exact Mem.wf_setBytes hm

theorem Frame.Keeps.calReply {tag : BitVec 12} {d : Nat} {steps : BitVec 16} {limit : Bool} {meas : List Int}
    (h : a.untimed.Keeps s) :
    a.untimed.Keeps (s.calReply tag d steps limit meas) :=
  h.finish

theorem Mem.wf_putVals {m : Mem} {base : Nat} {vs : List CalVal} (h : Mem.wf ramByte m = true) :
    Mem.wf ramByte (putVals m base vs) = true := by
  refine Mem.wf_foldl (fun m v hm => ?_) h
  split
  · exact Mem.wf_setBytes hm
  · exact hm

theorem Mem.wf_putCrc {m : Mem} {off n : Nat} (h : Mem.wf ramByte m = true) :
    Mem.wf ramByte (putCrc m off n) = true :=
  Mem.wf_setBytes h

theorem Mem.wf_calMark {m : Mem} {n bitNo : Nat} {ok : Bool} (h : Mem.wf ramByte m = true) :
    Mem.wf ramByte (calMark m n bitNo ok) = true :=
  Mem.wf_setBytes (Mem.wf_set (Mem.wf_setBytes h))

theorem Frame.Keeps.calStore {tag : BitVec 12} {step n x : Nat} {meas : List Int} (h : a.untimed.Keeps s) :
    a.untimed.Keeps (s.calStore tag step n x meas) := by
  unfold State.calStore
  refine Frame.Keeps.calReply (Frame.Keeps.updChan (h.holdAna.updCal (fun _ => rfl) fun _ hm => ?_))
  exact Mem.wf_calMark (Mem.wf_putVals hm)

theorem Frame.Keeps.calFinish {tag : BitVec 12} {n : Nat} {meas : List Int} (h : a.untimed.Keeps s) :
    a.untimed.Keeps (s.calFinish tag n meas) := by
  unfold State.calFinish
  refine .ite (Frame.Keeps.calReply (h.holdAna.updCal (fun _ => rfl) fun _ hm => ?_)) h.finish
  exact Mem.wf_putCrc (Mem.wf_set (Mem.wf_setBytes hm))

theorem Frame.Keeps.calDieStep {tag : BitVec 12} {step d x : Nat} {value : Int} {meas : List Int}
    (h : a.untimed.Keeps s) :
    a.untimed.Keeps (s.calDieStep tag step d x value meas) := by
  unfold State.calDieStep
  refine Frame.Keeps.calReply (h.takeFree.holdAna.updCal (fun _ => rfl) fun _ hm => ?_)
  exact Mem.wf_putCrc (Mem.wf_putVals hm)

theorem Frame.Keeps.runCalStep {c : Instr} (h : a.untimed.Keeps s) : a.untimed.Keeps (s.runCalStep c) := by
  unfold State.runCalStep
  simp only
  split
  · exact .ite h.calDieStep (.ite h.calFinish (.ite h.finish h.updDie.rpsSubmit))
  · exact h

theorem Frame.Keeps.calRouted {d : Nat} {q : RpsReq} (h : a.untimed.Keeps s) : a.untimed.Keeps (s.calRouted d q) := by
  unfold State.calRouted
  simp only
  split
  · split
    · split
      · exact .ite h.calStore h.updDie.rpsSubmit
      · exact h
    · exact h
  · exact h

theorem Frame.Keeps.runCalCommit {h' : Hdr} (h : a.untimed.Keeps s) :
    a.untimed.Keeps (s.runCalCommit h') := .ite h.finish h.startOp

end Sys2Proof.Machine

end

section
/-! SUPPORT. The order of the memories and banks through springs, DRAM, the thermal unit, class 3 work and the lock
link. -/

namespace Sys2Proof.Machine

set_option Elab.async false

variable {a s t : State}

/-! ### Spring -/

theorem Frame.Keeps.stretchFails {r : Run} {k : Nat} (h : a.untimed.Keeps s) :
    a.untimed.Keeps (s.stretchFails r k) := h.fault

theorem Frame.Keeps.execSpringIssue {t : Tb} {k i : Nat} (h : a.untimed.Keeps s) :
    a.untimed.KeepsOut (execSpringIssue t k i s) := by
  unfold Machine.execSpringIssue
  simp only
  refine .next ?_
  split
  · exact .ite (.ite h.at.updSeq.springAsk.stretchFails h.at.updSeq.springAsk) h.at
  · exact h.at

theorem Frame.Keeps.springLand {r : Run} {k : Nat} {e : SpringEntry} {at_ : Nat} (h : a.untimed.Keeps s) :
    a.untimed.Keeps (s.springLand r k e at_) := by
  unfold State.springLand
  simp only
  split
  · refine .ite (Frame.Keeps.updSeq (h.updCluster fun x hx => ?_)) (h.updCluster fun x hx => ?_)
    all_goals
      obtain ⟨hv, hrest⟩ := hx
      exact ⟨Mem.wf_setBytes hv, hrest⟩
  · refine h.updCluster fun x hx => ?_
    obtain ⟨hv, hrest⟩ := hx
    exact ⟨Mem.wf_foldl (fun _ _ hm => Mem.wf_set hm) hv, hrest⟩

theorem Frame.Keeps.lateOver {r : Run} (h : a.untimed.Keeps s) : a.untimed.Keeps (s.lateOver r) := .ite h.updRun h

theorem Frame.Keeps.execSpringComplete {t : Tb} {k i : Nat} (h : a.untimed.Keeps s) :
    a.untimed.KeepsOut (execSpringComplete t k i s) := by
  unfold Machine.execSpringComplete
  simp only
  refine .next ?_
  split
  · exact .ite (.ite h.at.springLand.updSeq.lateOver h.at.springLand.updSeq) h.at
  · exact h.at

theorem Frame.Keeps.execSpringLate {t : Tb} {k i : Nat} (h : a.untimed.Keeps s) :
    a.untimed.KeepsOut (execSpringLate t k i s) := by
  unfold Machine.execSpringLate
  simp only
  refine .next ?_
  split
  · exact .ite h.at.updSeq.updRun.raise_ h.at
  · exact h.at

theorem Frame.Keeps.execHold {t : Tb} {g : Nat} {h' : Tb} {d : Nat} (h : a.untimed.Keeps s) :
    a.untimed.KeepsOut (execHold t g h' d s) := by
  unfold Machine.execHold
  simp only
  refine .next ?_
  split
  · exact h.at
  · split
    · exact h.at
    · split
      · exact h.at
      · exact .ite h.at.stretchFails (h.at.foldl fun _ _ hs => hs.updSeq)

theorem Frame.Keeps.execHoldEntry {t : Tb} {k : Nat} (h : a.untimed.Keeps s) :
    a.untimed.KeepsOut (execHoldEntry t k s) := by
  unfold Machine.execHoldEntry
  simp only
  refine .next ?_
  split
  · exact h.at
  · split
    · exact h.at
    · exact .ite h.at h.at.updSeq.updRun

theorem Frame.Keeps.execResume {t : Tb} {g : Nat} (h : a.untimed.Keeps s) : a.untimed.KeepsOut (execResume t g s) := by
  unfold Machine.execResume
  simp only
  refine .next ?_
  split
  · exact h.at
  · split
    · exact .ite h.at (.ite ((((h.at.foldl fun _ _ hs => hs.updSeq).raise_).updRun).stretchFails)
        (((h.at.foldl fun _ _ hs => hs.updSeq).raise_).updRun))
    · exact h.at

theorem Frame.Keeps.shiftTimeline {r : Run} {k : Nat} {dv : Rat} {hold : Nat} (h : a.untimed.Keeps s) :
    a.untimed.Keeps (s.shiftTimeline r k dv hold) :=
  h.updSeq.updChans

theorem Frame.Keeps.execTimelineResume {t : Tb} {k : Nat} (h : a.untimed.Keeps s) :
    a.untimed.KeepsOut (execTimelineResume t k s) := by
  unfold Machine.execTimelineResume
  simp only
  refine .next ?_
  split
  · exact h.at
  · split
    · exact h.at
    · exact .ite h.at (.ite h.at.shiftTimeline h.at.shiftTimeline.updRun)

theorem Frame.Keeps.execStretchLimit {t : Tb} {g : Nat} (h : a.untimed.Keeps s) :
    a.untimed.KeepsOut (execStretchLimit t g s) := by
  unfold Machine.execStretchLimit
  simp only
  refine .next ?_
  split
  · exact h.at
  · exact .ite h.at.stretchFails h.at

/-! ### DramRows -/

theorem Frame.Keeps.execDramStatus {t : Tb} {h' : Hdr} {die : BitVec 8} (h : a.untimed.Keeps s) :
    a.untimed.KeepsOut (execDramStatus t h' die s) :=
  .next (h.immediate fun _ hs => hs)

theorem Frame.Keeps.runDramConfig {h' : Hdr} {mask apply : BitVec 8} {ageNs pdUs rhThr interval : BitVec 16}
    {eyeMin : BitVec 8} (h : a.untimed.Keeps s) :
    a.untimed.Keeps (s.runDramConfig h' mask apply ageNs pdUs rhThr interval eyeMin) :=
  (h.foldl fun _ _ hs => hs.updDram).finish

theorem Frame.Keeps.recordsAgain {d : Nat} (h : a.untimed.Keeps s) : a.untimed.Keeps (s.recordsAgain d) := h

theorem Frame.Keeps.springsFail {d : Nat} (h : a.untimed.Keeps s) : a.untimed.Keeps (s.springsFail d) := by
  unfold State.springsFail
  refine h.foldl fun _ _ hs => ?_
  split
  · split
    · exact hs.stretchFails
    · exact hs
  · exact hs

theorem Frame.Keeps.dramGone {d seq : Nat} (h : a.untimed.Keeps s) : a.untimed.Keeps (s.dramGone d seq) := by
  have hw {f g : State → Work → State} {u v : List Work} (hf : ∀ t w, a.untimed.Keeps t → a.untimed.Keeps (f t w))
      (hg : ∀ t w, a.untimed.Keeps t → a.untimed.Keeps (g t w)) :
    a.untimed.Keeps (v.foldl g (u.foldl f (s.dieContentLost d 0x01 seq))) :=
    (h.dieContentLost.foldl hf).foldl hg
  unfold State.dramGone
  refine Frame.Keeps.capFell (Frame.Keeps.springsFail (Frame.Keeps.updDie
    (hw (fun _ _ hs => hs.bulkBreak) fun _ _ hs => hs.finish) fun _ hx => Die.canonical_ite hx hx))

theorem Frame.Keeps.retrainReplies {d : Nat} {tags : List (BitVec 12)} (h : a.untimed.Keeps s) :
    a.untimed.Keeps (s.retrainReplies d tags) :=
  h.foldl fun _ _ hs => hs.finish

theorem Frame.Keeps.dramOffline {d detail : Nat} (h : a.untimed.Keeps s) : a.untimed.Keeps (s.dramOffline d detail) :=
  h.updDram.raise.dramGone.recordsAgain.retrainReplies

theorem Frame.Keeps.dramHalf {d ch lane : Nat} (h : a.untimed.Keeps s) : a.untimed.Keeps (s.dramHalf d ch lane) :=
  h.updDram.raise.dramGone

theorem Frame.Keeps.retrainEnds {d : Nat} {at_ : Tb} (h : a.untimed.Keeps s) : a.untimed.Keeps (s.retrainEnds d at_) :=
  .ite h.updDram.retrainReplies h

theorem Frame.Keeps.channelFails {d ch lane : Nat} (h : a.untimed.Keeps s) :
    a.untimed.Keeps (s.channelFails d ch lane) :=
  .ite h.updDram.dramOffline h.updDram.dramHalf.retrainEnds

/-- A change of a die's DRAM unit that leaves its contents. -/
theorem Frame.Keeps.updDramUnit {d : Nat} {f : Dram → Dram}
    (h : a.untimed.Keeps s) (hf : ∀ x : Dram, (f x).mem = x.mem) :
    a.untimed.Keeps (s.updDram d f) :=
  h.updDram fun x hx => (hf x).symm ▸ hx

@[simp] theorem Dram.begin_mem (x : Dram) (w0 : Tb) : (x.begin_ w0).mem = x.mem := by
  unfold Dram.begin_
  split
  · rfl
  · rfl

@[simp] theorem Dram.slot_mem (x : Dram) (c : Nat) (tb : Tb) : (x.slot c tb).mem = x.mem := by
  have hspend (y : Dram) (p : Nat) (o : DramOwner) :
      (if p = 0 then y.spend .age else if p = 1 then y.spend o else y).mem = y.mem := by
    split
    · rfl
    · split
      · rfl
      · rfl
  unfold Dram.slot
  simp only
  split
  · rfl
  · split
    · rfl
    · exact hspend _ _ _

@[simp] theorem Dram.slots_mem (c n : Nat) (tb : Tb) (x : Dram) : (Dram.slots c n tb x).mem = x.mem := by
  induction n generalizing tb x with
  | zero => rfl
  | succ n ih =>
    unfold Dram.slots
    split
    · rfl
    · rw [ih, Dram.slot_mem]

@[simp] theorem Dram.serveFrame_mem (x : Dram) (c : Nat) (w0 : Tb) : (x.serveFrame c w0).mem = x.mem :=
  Dram.slots_mem c frameSlots (w0 - 1600) x

@[simp] theorem Dram.refreshed_mem (x : Dram) (c : Nat) (w0 : Tb) : (x.refreshed c w0).mem = x.mem := by
  unfold Dram.refreshed
  split
  · rfl
  · rfl

@[simp] theorem Dram.promote_mem (x : Dram) (tb : Tb) : (x.promote tb).mem = x.mem := by
  unfold Dram.promote
  simp only
  split
  · split
    · rfl
    · rfl
  · rfl

theorem Frame.Keeps.retrainWindow {d ch : Nat} {w0 : Tb} {pass : BitVec 2} (h : a.untimed.Keeps s) :
    a.untimed.Keeps (s.retrainWindow d ch w0 pass) := by
  have hb : a.untimed.Keeps (s.updDram d fun x => x.begin_ w0) := h.updDramUnit fun x => x.begin_mem w0
  unfold State.retrainWindow
  simp only
  split
  · exact hb
  · split
    · exact Frame.Keeps.retrainEnds (hb.updDram fun _ hx => hx)
    · split
      · exact hb.takeFree.updDram.channelFails
      · exact hb.takeFree.updDram

theorem Frame.Keeps.dramLive {d : Nat} (h : a.untimed.Keeps s) : a.untimed.Keeps (s.dramLive d) := h.updDram

theorem Frame.Keeps.window {d ch : Nat} {mr4 mr4b : Option (BitVec 3)} {pass wake : BitVec 2} (h : a.untimed.Keeps s) :
    a.untimed.Keeps (s.window d ch mr4 mr4b pass wake) := by
  have hs {w0 : Tb} : a.untimed.Keeps ((s.dramLive d).updDram d fun x => (x.serveFrame ch w0).refreshed ch w0) :=
    h.dramLive.updDramUnit fun x => by rw [Dram.refreshed_mem, Dram.serveFrame_mem]
  unfold State.window
  simp only
  split
  · split
    · exact hs.updDram.takeFree.dramOffline
    · exact Frame.Keeps.retrainWindow (Frame.Keeps.ite hs.updDram.updDram hs.updDram)
  · exact h

theorem Frame.Keeps.wantRetrain {d : Nat} (h : a.untimed.Keeps s) : a.untimed.Keeps (s.wantRetrain d) := by
  refine .ite (h.updDramUnit fun x => ?_) h
  split
  · rfl
  · rfl

theorem Frame.Keeps.execRetrainInterval {t : Tb} {d : Nat} (h : a.untimed.Keeps s) :
    a.untimed.KeepsOut (execRetrainInterval t d s) :=
  .next (.ite h.at.wantRetrain h.at)

theorem Frame.Keeps.execReformDone {t : Tb} {d : Nat} (h : a.untimed.Keeps s) :
    a.untimed.KeepsOut (execReformDone t d s) :=
  .next (.ite (Frame.Keeps.recordsAgain (Frame.Keeps.updClusters (h.at.updDram fun _ _ => Mem.wf_nil _))) h.at)

theorem Frame.Keeps.execDramPowerDown {t : Tb} {d ch rank : Nat} (h : a.untimed.Keeps s) :
    a.untimed.KeepsOut (execDramPowerDown t d ch rank s) :=
  .next (.ite h.at.updDram h.at)

theorem Frame.Keeps.execAgePromotion {t : Tb} {d : Nat} (h : a.untimed.Keeps s) :
    a.untimed.KeepsOut (execAgePromotion t d s) :=
  .next (.ite (h.at.dramLive.updDramUnit fun x => Dram.promote_mem x _) h.at)

theorem Frame.Keeps.fullStart {d : Nat} {tag : BitVec 12} (h : a.untimed.Keeps s) :
    a.untimed.Keeps (s.fullStart d tag) :=
  h.dieContentLost.updDie.updDram

theorem Frame.Keeps.runRetrain {h' : Hdr} {d : Nat} {full : Bool} (h : a.untimed.Keeps s) :
    a.untimed.Keeps (s.runRetrain h' d full) :=
  .ite (.ite h.finish h.fullStart) (.ite h.wantRetrain.updDram h.finish)

theorem Frame.Keeps.fullDone {d : Nat} {env : DramEnv} (h : a.untimed.Keeps s) : a.untimed.Keeps (s.fullDone d env) :=
  .ite (Frame.Keeps.retrainReplies (h.trainDie.updDie fun _ hx => Die.canonical_ite hx hx)) h

/-! ### ThermalRows -/

theorem Frame.Keeps.execThermalRead {t : Tb} {h' : Hdr} {die sensor : BitVec 8} (h : a.untimed.Keeps s) :
    a.untimed.KeepsOut (execThermalRead t h' die sensor s) :=
  .next (h.request fun _ _ _ _ hs => hs.updThm)

theorem Frame.Keeps.execThermalConfig {t : Tb} {h' : Hdr} {die apply : BitVec 8}
    {watchMs warn throttle shutdown graceMs : BitVec 16} {extType : BitVec 8} {a' b c : BitVec 32} (h : a.untimed.Keeps s) :
    a.untimed.KeepsOut (execThermalConfig t h' die apply watchMs warn throttle shutdown graceMs extType a' b c s) :=
  .next (h.requestNow fun _ hs => hs.updThm)

theorem Frame.Keeps.execThermalClear {t : Tb} {h' : Hdr} {die : BitVec 8} (h : a.untimed.Keeps s) :
    a.untimed.KeepsOut (execThermalClear t h' die s) :=
  .next (h.request fun _ _ _ _ hs => hs.updThm)

theorem Frame.Keeps.execThermalStatus {t : Tb} {h' : Hdr} {die : BitVec 8} (h : a.untimed.Keeps s) :
    a.untimed.KeepsOut (execThermalStatus t h' die s) :=
  .next (h.immediate fun _ hs => hs)

theorem Frame.Keeps.commitStops (h : a.untimed.Keeps s) : a.untimed.Keeps s.commitStops := by
  unfold State.commitStops
  split
  · exact h
  · exact .ite h (.ite h.updOp h.commitFails)

theorem Frame.Keeps.thermalMove {d : Nat} {tj : BitVec 16} {tb : Tb} {rec : Option RecEnv} {boot : Option BootEnv}
    (h : a.untimed.Keeps s) : a.untimed.Keeps (s.thermalMove d tj tb rec boot) := by
  have hcap {u : State} {p : Prop} [Decidable p] (hu : a.untimed.Keeps u) :
      a.untimed.Keeps (if p then u.updDie d fun y => if y.st = .active then { y with loadCap := 16000 } else y else u) :=
    .ite (hu.updDie fun _ hx => Die.canonical_ite hx hx) hu
  unfold State.thermalMove
  simp only
  split
  · exact .ite (hcap h.updThm).commitStops.fault (hcap h.updThm).raise_
  · exact hcap h.updThm

theorem Frame.Keeps.watchReading {d : Nat} {tj : BitVec 16} {tb : Tb} (h : a.untimed.Keeps s) :
    a.untimed.Keeps (s.watchReading d tj tb) :=
  .ite h.updDie.wantRetrain h.updDie

theorem Frame.Keeps.clearAt {d : Nat} {tj : BitVec 16} {tag : BitVec 12} (h : a.untimed.Keeps s) :
    a.untimed.Keeps (s.clearAt d tj tag) :=
  .ite h.stillAgain.updDie.raise_.finish h.finish

theorem Frame.Keeps.thermalReplies {d : Nat} {v : BitVec 16} {tb : Tb} {tags : List (BitVec 12)}
    (h : a.untimed.Keeps s) :
    a.untimed.Keeps (s.thermalReplies d v tb tags) := by
  unfold State.thermalReplies
  simp only
  refine h.foldl fun _ _ hs => ?_
  split
  · exact hs.finish
  · exact hs.clearAt
  · exact hs

theorem Frame.Keeps.execThermalWatch {t : Tb} {d : Nat} (h : a.untimed.Keeps s) :
    a.untimed.KeepsOut (execThermalWatch t d s) :=
  .next (.ite h.at.updThm h.at)

theorem Frame.Keeps.execThermalConversion {t : Tb} {d : Nat} {reading : Option (BitVec 16)} {rec : Option RecEnv}
    {boot : Option BootEnv} (h : a.untimed.Keeps s) :
    a.untimed.KeepsOut (execThermalConversion t d reading rec boot s) := by
  unfold Machine.execThermalConversion
  simp only
  refine .next ?_
  split
  · exact h.at
  · exact .ite h.at (.ite h.at.updThm.watchReading.thermalReplies.thermalMove
      (.ite (h.at.updThm.foldl fun _ _ hs => hs.finish) h.at.updThm.updThm.thermalReplies))

theorem Frame.Keeps.stopHot {d seq n : Nat} (h : a.untimed.Keeps s) : a.untimed.Keeps (s.stopHot d seq n) := by
  induction n generalizing s with
  | zero => exact h
  | succ n ih =>
    unfold State.stopHot
    simp only
    split
    · split
      · exact ih h.updRun
      · exact h
    · exact h

theorem Frame.Keeps.shedCharges {d n : Nat} {es : List (Nat × Rat)} (h : a.untimed.Keeps s) : a.untimed.Keeps
    (s.shedCharges d es n) := by
  induction n generalizing s es with
  | zero => exact h
  | succ n ih =>
    unfold State.shedCharges
    simp only
    split
    · exact h
    · split
      · exact ih h.orderlyDisconnect.updThm
      · exact h

theorem Frame.Keeps.enforce {d : Nat} (h : a.untimed.Keeps s) : a.untimed.Keeps (s.enforce d) :=
  h.updDie.raise.capFell.stopHot.shedCharges

theorem Frame.Keeps.execGraceExpiry {t : Tb} {d : Nat} (h : a.untimed.Keeps s) :
    a.untimed.KeepsOut (execGraceExpiry t d s) :=
  .next (.ite h.at.enforce h.at)

/-! ### Background -/

theorem Frame.Keeps.run3 {c : Instr} (h : a.untimed.Keeps s) : a.untimed.Keeps (s.run3 c) := by
  unfold State.run3
  split
  · exact h.runCalRead
  · exact h.runCalWrite
  · exact h.runCalCommit
  · exact h.runCalStep
  · exact h.runNvmRead
  · exact h.runNvmWrite
  · exact h.runNvmErase
  · exact h.runPatch
  · exact h.runDramConfig
  · exact h.runRetrain
  · exact h

theorem Frame.Keeps.pump3N {n : Nat} (h : a.untimed.Keeps s) : a.untimed.Keeps (s.pump3N n) := by
  induction n generalizing s with
  | zero => exact h
  | succ n ih =>
    unfold State.pump3N
    split
    · exact ih h.updWork.run3
    · exact h

theorem Frame.Keeps.pump3 (h : a.untimed.Keeps s) : a.untimed.Keeps s.pump3 := h.pump3N

theorem Frame.Keeps.tick (h : a.untimed.Keeps s) : a.untimed.Keeps s.tick := h.at.pump3

theorem Frame.Keeps.start3 {c : Instr} (h : a.untimed.Keeps s) : a.untimed.Keeps (s.start3 c) := by
  unfold State.start3
  split
  · exact h.run3
  · exact h

theorem Frame.Keeps.class3 {t : Tb} {h' : Hdr} {c : Instr} {err : Machine.State → Option (Status × Nat)}
    {res : BitVec 9} {bound : Machine.State → Nat} {dies : BitVec 8} (h : a.untimed.Keeps s) :
    a.untimed.Keeps (s.class3 t h' c err res bound dies) :=
  h.request fun _ _ _ _ hs => hs.start3

theorem Frame.Keeps.execCalRead {t : Tb} {h' : Hdr} {die : BitVec 8} {off len : BitVec 32} {hostAddr : BitVec 64}
    (h : a.untimed.Keeps s) :
    a.untimed.KeepsOut (execCalRead t h' die off len hostAddr s) :=
  .next h.class3

theorem Frame.Keeps.execCalWrite {t : Tb} {h' : Hdr} {die : BitVec 8} {off len : BitVec 32} {hostAddr : BitVec 64}
    {data : List Byte} (h : a.untimed.Keeps s) :
    a.untimed.KeepsOut (execCalWrite t h' die off len hostAddr data s) :=
  .next h.class3

theorem Frame.Keeps.execCalStep {t : Tb} {h' : Hdr} {step : BitVec 16} {arg : List Byte} {meas : List Int}
    (h : a.untimed.Keeps s) :
    a.untimed.KeepsOut (execCalStep t h' step arg meas s) :=
  .next h.class3

theorem Frame.Keeps.execCalCommit {t : Tb} {h' : Hdr} (h : a.untimed.Keeps s) :
    a.untimed.KeepsOut (execCalCommit t h' s) :=
  .next (h.request fun _ _ _ _ hs => hs.start3)

theorem Frame.Keeps.execNvmRead {t : Tb} {h' : Hdr} {off len : BitVec 32} {hostAddr : BitVec 64}
    (h : a.untimed.Keeps s) :
    a.untimed.KeepsOut (execNvmRead t h' off len hostAddr s) :=
  .next h.class3

theorem Frame.Keeps.execNvmWrite {t : Tb} {h' : Hdr} {off len : BitVec 32} {hostAddr : BitVec 64} {data : List Byte}
    (h : a.untimed.Keeps s) :
    a.untimed.KeepsOut (execNvmWrite t h' off len hostAddr data s) :=
  .next h.class3

theorem Frame.Keeps.execNvmErase {t : Tb} {h' : Hdr} {off len : BitVec 32} (h : a.untimed.Keeps s) :
    a.untimed.KeepsOut (execNvmErase t h' off len s) :=
  .next h.class3

theorem Frame.Keeps.execPatchApply {t : Tb} {h' : Hdr} (h : a.untimed.Keeps s) :
    a.untimed.KeepsOut (execPatchApply t h' s) :=
  .next h.class3

theorem Frame.Keeps.execDramConfig {t : Tb} {h' : Hdr} {mask apply : BitVec 8} {ageNs pdUs rhThr interval : BitVec 16}
    {eyeMin : BitVec 8} (h : a.untimed.Keeps s) :
    a.untimed.KeepsOut (execDramConfig t h' mask apply ageNs pdUs rhThr interval eyeMin s) :=
  .next h.takeFree.class3

theorem Frame.Keeps.execDramRetrain {t : Tb} {h' : Hdr} {die mode : BitVec 8} (h : a.untimed.Keeps s) :
    a.untimed.KeepsOut (execDramRetrain t h' die mode s) :=
  .next (h.request fun _ _ _ _ hs => hs.start3)

theorem Frame.Keeps.execRpsDone {t : Tb} {d c : Nat} {kelvinFail : BitVec 8} (h : a.untimed.Keeps s) :
    a.untimed.KeepsOut (execRpsDone t d c kelvinFail s) := by
  unfold Machine.execRpsDone
  simp only
  refine .next ?_
  split
  · exact .ite h.at h.at.rpsEnd.calRouted.pump3
  · exact h.at

theorem Frame.Keeps.execMaintenanceWindow {t : Tb} {d ch : Nat} {mr4 mr4b : Option (BitVec 3)} {pass wake : BitVec 2}
    (h : a.untimed.Keeps s) :
    a.untimed.KeepsOut (execMaintenanceWindow t d ch mr4 mr4b pass wake s) :=
  .next h.at.window.pump3

theorem Frame.Keeps.execFullRetrainDone {t : Tb} {d : Nat} {env : DramEnv} (h : a.untimed.Keeps s) :
    a.untimed.KeepsOut (execFullRetrainDone t d env s) :=
  .next h.at.fullDone.pump3

theorem Frame.Keeps.execFlashOpDone {t : Tb} (h : a.untimed.Keeps s) : a.untimed.KeepsOut (execFlashOpDone t s) :=
  .next h.at.flashDone.pump3

theorem Frame.Keeps.execMmf {t : Tb} (h : a.untimed.Keeps s) :
    a.untimed.KeepsOut (execMmf t s) := .next h.at.foreign.pump3

theorem Frame.Keeps.execMmfBackoffExpiry {t : Tb} {idle : Bool} (h : a.untimed.Keeps s) :
    a.untimed.KeepsOut (execMmfBackoffExpiry t idle s) :=
  .next h.at.backoff.pump3

theorem Frame.Keeps.execXipTimeout {t : Tb} (h : a.untimed.Keeps s) : a.untimed.KeepsOut (execXipTimeout t s) :=
  .next h.at.xipLate.pump3

theorem Frame.Keeps.execJournalAppend {t : Tb} (h : a.untimed.Keeps s) : a.untimed.KeepsOut (execJournalAppend t s) :=
  .next h.at.appendJob.pump3

theorem Frame.Keeps.execSpSlvSelNRise {t : Tb} {partialWord : Bool} (h : a.untimed.Keeps s) :
    a.untimed.KeepsOut (execSpSlvSelNRise t partialWord s) :=
  .next h.at.slaveRise.pump3

/-! ### Measure -/

theorem Frame.Keeps.endBatch {k : Nat} {last : Bool} (h : a.untimed.Keeps s) : a.untimed.Keeps (s.endBatch k last) :=
  .ite (h.withFlags fun _ hs => hs.batchEnd) h

theorem Frame.Keeps.deliverSar {n stamp last value : Nat} {w : Word} {sm : RedSample} {batchEnd : Bool}
    (h : a.untimed.Keeps s) :
    a.untimed.Keeps (s.deliverSar n stamp last value w sm batchEnd) := by
  unfold State.deliverSar
  simp only
  refine .foldl ?_ fun _ _ hs => hs.finish
  refine .endBatch ?_
  refine .trigSample ?_
  split
  · exact h.capSample.feedRed
  · exact h.capSample

theorem Frame.Keeps.execSarSample {t : Tb} {n : Nat} {codes : List (BitVec 18)} {clamp hit live batchEnd : Bool}
    (h : a.untimed.Keeps s) :
    a.untimed.KeepsOut (execSarSample t n codes clamp hit live batchEnd s) := by
  unfold Machine.execSarSample
  simp only
  refine .next ?_
  split
  · exact h.at
  · exact .ite h.at h.at.updChan.deliverSar

theorem Frame.Keeps.capOpened {n : Nat} {lo hi : Tb} (h : a.untimed.Keeps s) :
    a.untimed.Keeps (s.capOpened n lo hi) := by
  unfold State.capOpened
  split
  · exact h.capDisconnect
  · exact h

theorem Frame.Keeps.takeCharge {n : Nat} {frac : Int} {x : RedSample} {live : Bool} (h : a.untimed.Keeps s) :
    a.untimed.Keeps (s.takeCharge n frac x live) := by
  unfold State.takeCharge
  simp only
  split
  · exact h.updChan.capSample.capOpened.feedRed
  · exact h.updChan.capSample.capOpened

theorem Frame.Keeps.execChargeIncrement {t : Tb} {n m : Nat} {dq : Int} {ovr clamp hit live batchEnd : Bool}
    (h : a.untimed.Keeps s) :
    a.untimed.KeepsOut (execChargeIncrement t n m dq ovr clamp hit live batchEnd s) :=
  .next (.ite h.at ((Frame.Keeps.ite h.at.capOpened.takeCharge h.at.capOpened).endBatch))

theorem Frame.Keeps.execChargeClear {t : Tb} {h' : Hdr} {k lanes : BitVec 8} {b : BitVec 64} (h : a.untimed.Keeps s) :
    a.untimed.KeepsOut (execChargeClear t h' k lanes b s) :=
  .next (h.request fun _ _ _ _ hs => .ite hs.finish hs)

theorem Frame.Keeps.execChargeClearTick {t : Tb} {tag : BitVec 12} (h : a.untimed.Keeps s) :
    a.untimed.KeepsOut (execChargeClearTick t tag s) := by
  unfold Machine.execChargeClearTick
  simp only
  refine .next ?_
  split
  · exact h.at
  · split
    · exact h.at
    · split
      · exact .ite h.at h.at.updChans.finish
      · split
        · exact h.at.updChans
        · exact h.at
      · exact h.at

theorem Frame.Keeps.execCaptureConfig {t : Tb} {h' : Hdr} {k i mode sram : BitVec 8} {chunk pre post : BitVec 16}
    {ringBase : BitVec 64} {ringSize : BitVec 32} (h : a.untimed.Keeps s) :
    a.untimed.KeepsOut (execCaptureConfig t h' k i mode sram chunk pre post ringBase ringSize s) :=
  .next (h.requestNow fun _ hs => hs.updCap)

theorem Frame.Keeps.execCaptureStart {t : Tb} {h' : Hdr} {k : BitVec 8} {streams : BitVec 16} {tick : BitVec 64}
    (h : a.untimed.Keeps s) :
    a.untimed.KeepsOut (execCaptureStart t h' k streams tick s) :=
  .next (h.request fun _ _ _ _ hs => hs.foldl fun _ _ hs => hs.updCap)

theorem Frame.Keeps.execCaptureStop {t : Tb} {h' : Hdr} {k : BitVec 8} {streams : BitVec 16} {tick : BitVec 64}
    (h : a.untimed.Keeps s) :
    a.untimed.KeepsOut (execCaptureStop t h' k streams tick s) :=
  .next (h.request fun _ _ _ _ hs => hs.foldl fun _ _ hs => hs.updCap)

theorem Frame.Keeps.capReplies {k : Nat} (h : a.untimed.Keeps s) :
    a.untimed.Keeps (s.capReplies k) := h.foldl fun _ _ hs => hs.finish

theorem Frame.Keeps.execCaptureStartTick {t : Tb} {k i : Nat} (h : a.untimed.Keeps s) :
    a.untimed.KeepsOut (execCaptureStartTick t k i s) := by
  unfold Machine.execCaptureStartTick
  simp only
  refine .next ?_
  split
  · exact .ite h.at.updCap.capReplies h.at
  · exact h.at

theorem Frame.Keeps.execCaptureStopTick {t : Tb} {k i : Nat} (h : a.untimed.Keeps s) :
    a.untimed.KeepsOut (execCaptureStopTick t k i s) := by
  unfold Machine.execCaptureStopTick
  simp only
  refine .next ?_
  split
  · exact .ite h.at.capStopNow.updCap.capReplies h.at
  · exact h.at

theorem Frame.Keeps.execCaptureRelease {t : Tb} {h' : Hdr} {k i : BitVec 8} {readOff : BitVec 32}
    (h : a.untimed.Keeps s) :
    a.untimed.KeepsOut (execCaptureRelease t h' k i readOff s) :=
  .next (h.requestNow fun _ hs => hs.updCap)

theorem Frame.Keeps.execCaptureQuery {t : Tb} {h' : Hdr} {k i : BitVec 8} (h : a.untimed.Keeps s) :
    a.untimed.KeepsOut (execCaptureQuery t h' k i s) := by
  unfold Machine.execCaptureQuery
  simp only
  refine .next ?_
  refine h.immediate fun _ hs => ?_
  split
  · exact hs
  · exact hs

theorem Frame.Keeps.execGapRecord {t : Tb} {k i : Nat} (h : a.untimed.Keeps s) :
    a.untimed.KeepsOut (execGapRecord t k i s) :=
  .next h.at.gapNow

theorem Frame.Keeps.execRecordCloseTimeout {t : Tb} {k i : Nat} (h : a.untimed.Keeps s) :
    a.untimed.KeepsOut (execRecordCloseTimeout t k i s) :=
  .next (.ite h.at.updCap h.at)

theorem Frame.Keeps.execCaptureDrain {t : Tb} {k i : Nat} (h : a.untimed.Keeps s) :
    a.untimed.KeepsOut (execCaptureDrain t k i s) :=
  .next h.at.drainNow

theorem Frame.Keeps.execFailLogConfig {t : Tb} {h' : Hdr} {k policy : BitVec 8} (h : a.untimed.Keeps s) :
    a.untimed.KeepsOut (execFailLogConfig t h' k policy s) :=
  .next (h.requestNow fun _ hs => hs.updCluster)

theorem Frame.Keeps.execFailClear {t : Tb} {h' : Hdr} {k lanes : BitVec 8} (h : a.untimed.Keeps s) :
    a.untimed.KeepsOut (execFailClear t h' k lanes s) :=
  .next (h.requestNow fun _ hs => hs.updChans.updCluster)

theorem Frame.Keeps.execWindowOpen {t : Tb} {k i : Nat} (h : a.untimed.Keeps s) :
    a.untimed.KeepsOut (execWindowOpen t k i s) :=
  .next (.ite (h.at.withFlags fun _ hs => hs.openWindow) h.at)

theorem Frame.Keeps.execClosePass {t : Tb} {k i : Nat} (h : a.untimed.Keeps s) :
    a.untimed.KeepsOut (execClosePass t k i s) := by
  unfold Machine.execClosePass
  simp only
  refine .next ?_
  split
  · exact h.at
  · exact .ite ((h.at.withFlags fun _ hs => hs.closePass).lastPass) h.at

/-! ### Trigger -/

theorem Frame.Keeps.execTrigConfig {t : Tb} {h' : Hdr} {k : BitVec 8} {source : BitVec 4} {cond pol : BitVec 2}
    {select : BitVec 16} {lane : BitVec 8} {thrHi thrLo : BitVec 32} (h : a.untimed.Keeps s) :
    a.untimed.KeepsOut (execTrigConfig t h' k source cond pol select lane thrHi thrLo s) :=
  .next (h.requestNow fun _ hs => hs.updTrig)

theorem Frame.Keeps.execTrigArm {t : Tb} {h' : Hdr} {kind id opts : BitVec 8} {max : BitVec 32} {hold a' : BitVec 64}
    (h : a.untimed.Keeps s) :
    a.untimed.KeepsOut (execTrigArm t h' kind id opts max hold a' s) :=
  .next (h.request fun _ _ _ _ hs => hs.updClusters)

theorem Frame.Keeps.execTrigDisarm {t : Tb} {h' : Hdr} {kind id : BitVec 8} {d : BitVec 64} (h : a.untimed.Keeps s) :
    a.untimed.KeepsOut (execTrigDisarm t h' kind id d s) :=
  .next (h.request fun _ _ _ _ hs => hs.updClusters)

theorem Frame.Keeps.trigReplies {kind id : Nat} {disarm : Bool} (h : a.untimed.Keeps s) :
    a.untimed.Keeps (s.trigReplies kind id disarm) :=
  h.foldl fun _ _ hs => hs.finish

theorem Frame.Keeps.armAll {ks : List Nat} {tick : Tb} (h : a.untimed.Keeps s) : a.untimed.Keeps (s.armAll ks tick) :=
  h.foldl fun _ _ hs => .ite hs.updTrig.armEngine hs

theorem Frame.Keeps.execRippleArm {t : Tb} {kind : BitVec 1} {id : Nat} (h : a.untimed.Keeps s) :
    a.untimed.KeepsOut (execRippleArm t kind id s) :=
  .next (.ite h.at (.ite (.ite h.at.lineUp h.at) (.ite (((Frame.Keeps.ite h.at.lineUp h.at).armAll).trigReplies)
    h.at)))

theorem Frame.Keeps.fireSource {ks : List Nat} {origin len : Nat} (h : a.untimed.Keeps s) :
    a.untimed.Keeps (s.fireSource ks origin len) :=
  h.foldl fun _ _ hs => hs.srcPulse

theorem Frame.Keeps.execRippleFire {t : Tb} {kind : BitVec 1} {id : Nat} (h : a.untimed.Keeps s) :
    a.untimed.KeepsOut (execRippleFire t kind id s) := by
  unfold Machine.execRippleFire
  simp only
  refine .next ?_
  split
  · split
    · exact h.at.foldl fun _ _ hs => hs.trigFlush
    · exact .ite ((((h.at.foldl fun _ _ hs => hs.trigFlush).same).fireSource).fireAll)
        (h.at.foldl fun _ _ hs => hs.trigFlush)
  · split
    · exact .ite ((h.at.foldl fun _ _ hs => hs.trigFlush).fireAll) (h.at.foldl fun _ _ hs => hs.trigFlush)
    · exact h.at.foldl fun _ _ hs => hs.trigFlush

theorem Frame.Keeps.execHoldoffEnd {t : Tb} {k : Nat} (h : a.untimed.Keeps s) :
    a.untimed.KeepsOut (execHoldoffEnd t k s) := by
  unfold Machine.execHoldoffEnd
  simp only
  refine .next ?_
  split
  · exact .ite h.at.updTrig h.at
  · exact h.at

theorem Frame.Keeps.execRearmEnd {t : Tb} {k : Nat} (h : a.untimed.Keeps s) : a.untimed.KeepsOut (execRearmEnd t k s) :=
  .next (.ite h.at.updTrig.armEngine h.at)

theorem Frame.Keeps.execDisarmTick {t : Tb} {kind : BitVec 1} {id : Nat} (h : a.untimed.Keeps s) :
    a.untimed.KeepsOut (execDisarmTick t kind id s) := by
  unfold Machine.execDisarmTick
  simp only
  refine .next ?_
  split
  · exact h.at
  · exact (h.at.foldl fun _ _ hs => hs.trigFlush.updTrig.stopWindows).trigReplies

theorem Frame.Keeps.execTrigInEdge {t : Tb} {line : BitVec 2} {level : Bool} (h : a.untimed.Keeps s) :
    a.untimed.KeepsOut (execTrigInEdge t line level s) :=
  .next (.ite h.at (h.at.same.foldl fun _ _ hs => .ite hs.srcEvent.trigSee hs.srcEvent))

/-! ### Link -/

theorem Frame.Keeps.execLockGroupSet {t : Tb} {h' : Hdr} {group master flags slot : BitVec 8} {mask : BitVec 64}
    (h : a.untimed.Keeps s) : a.untimed.KeepsOut (execLockGroupSet t h' group master flags slot mask s) :=
  .next (h.requestNow fun _ hs => hs.withGroups (List.length_set.trans (List.length_map _)))

theorem Frame.Keeps.execLockGroupQuery {t : Tb} {h' : Hdr} {group : BitVec 8} (h : a.untimed.Keeps s) :
    a.untimed.KeepsOut (execLockGroupQuery t h' group s) :=
  .next (h.immediate fun _ hs => hs)

theorem Frame.Keeps.execWeirConfig {t : Tb} {h' : Hdr} {horizonRun horizonBulk : BitVec 32} (h : a.untimed.Keeps s) :
    a.untimed.KeepsOut (execWeirConfig t h' horizonRun horizonBulk s) :=
  .next (h.requestNow fun _ hs => hs)

theorem Frame.Keeps.pllNext {d : Nat} (h : a.untimed.Keeps s) : a.untimed.Keeps (s.pllNext d) := h.updPll

theorem Frame.Keeps.pllAnswer {d : Nat} {st : Status} {detail : Nat} (h : a.untimed.Keeps s) :
    a.untimed.Keeps (s.pllAnswer d st detail) := by
  unfold State.pllAnswer
  split
  · exact h.finish.pllNext
  · exact h

theorem Frame.Keeps.execPllSet {t : Tb} {h' : Hdr} {die : BitVec 8} {setting : PllArg} (h : a.untimed.Keeps s) :
    a.untimed.KeepsOut (execPllSet t h' die setting s) :=
  .next (h.request fun _ _ _ _ hs => hs.updPll)

theorem Frame.Keeps.trigHeard {d : Nat} (h : a.untimed.Keeps s) : a.untimed.Keeps (s.trigHeard d) :=
  h.foldl fun _ _ hs => .ite hs.trigAtLevel hs

theorem Frame.Keeps.relocked {d : Nat} (h : a.untimed.Keeps s) : a.untimed.Keeps (s.relocked d) := h.updPll.trigHeard

theorem Frame.Keeps.execTrackedStepDone {t : Tb} {d : Nat} (h : a.untimed.Keeps s) :
    a.untimed.KeepsOut (execTrackedStepDone t d s) :=
  .next (.ite h.at.updPll.pllAnswer h.at)

theorem Frame.Keeps.execRelockDone {t : Tb} {d : Nat} {ok : Bool} (h : a.untimed.Keeps s) :
    a.untimed.KeepsOut (execRelockDone t d ok s) :=
  .next (.ite h.at (.ite h.at.relocked.pllAnswer (.ite h.at.updPll.pllAnswer h.at)))

theorem Frame.Keeps.execHoldoverExit {t : Tb} {d : Nat} (h : a.untimed.Keeps s) :
    a.untimed.KeepsOut (execHoldoverExit t d s) :=
  .next (.ite h.at.relocked h.at)

theorem Frame.Keeps.execGuardHit {t : Tb} {d : Nat} (h : a.untimed.Keeps s) : a.untimed.KeepsOut (execGuardHit t d s) :=
  .next (.ite h.at.updPll.raise_ h.at.updPll)

theorem Frame.Keeps.lolStill {d : Nat} (h : a.untimed.Keeps s) : a.untimed.Keeps (s.lolStill d) := by
  unfold State.lolStill
  simp only
  refine h.foldl fun _ _ hs => ?_
  split
  · refine .updLanes ?_
    split
    · exact hs.takeOverrides
    · exact hs
  · refine .rpsUrgent ?_
    refine .rpsDropWaiting ?_
    refine .updLanes ?_
    split
    · exact hs.takeOverrides
    · exact hs

theorem Frame.Keeps.syncLost {d : Nat} (h : a.untimed.Keeps s) : a.untimed.Keeps (s.syncLost d) := h.sameUntimed

theorem Frame.Keeps.execPllLol {t : Tb} {d : Nat} (h : a.untimed.Keeps s) : a.untimed.KeepsOut (execPllLol t d s) :=
  .next (.ite (.ite h.at.updPll.syncLost.updClusters.fault.lolStill.pllAnswer
    h.at.updPll.syncLost.updClusters.fault.lolStill) h.at)

theorem Frame.Keeps.execPllSync {t : Tb} {h' : Hdr} {mask : BitVec 8} {tick : BitVec 64} (h : a.untimed.Keeps s) :
    a.untimed.KeepsOut (execPllSync t h' mask tick s) :=
  .next (h.request fun _ _ _ _ hs => hs)

theorem Frame.Keeps.execRippleSync {t : Tb} {tag : BitVec 12} (h : a.untimed.Keeps s) :
    a.untimed.KeepsOut (execRippleSync t tag s) := by
  unfold Machine.execRippleSync
  simp only
  refine .next ?_
  split
  · exact h.at
  · split
    · exact .ite (.ite h.at.syncDies.same.finish h.at.syncDies.same.finish) h.at
    · exact h.at

theorem Frame.Keeps.execLockLinkCfg {t : Tb} {h' : Hdr} {role lat : BitVec 8} (h : a.untimed.Keeps s) :
    a.untimed.KeepsOut (execLockLinkCfg t h' role lat s) :=
  .next (h.requestNow fun _ hs => hs.updLink)

/-- TB steps, and every die notes it. -/
theorem Frame.Keeps.tbStep {u : State} {new : Tb} (h : a.untimed.Keeps s)
    (hu : u = { s with tb := new, dies := s.dies.map fun x => { x with stepped := true } }) : a.untimed.Keeps u := by
  subst hu
  have hd : a.untimed.Keeps { s with dies := s.dies.map fun x => { x with stepped := true } } :=
    h.withDies (List.length_map _) (forall_mem_map_of fun _ hx => hx)
  exact hd.sameUntimed

theorem Frame.Keeps.execTbAlign {t : Tb} {h' : Hdr} (h : a.untimed.Keeps s) :
    a.untimed.KeepsOut (execTbAlign t h' s) := by
  unfold Machine.execTbAlign
  refine .next (h.requestNow fun u hu => ?_)
  simp only
  exact .ite hu.updLink (Frame.Keeps.raise_ (hu.updLink.tbStep rfl))

theorem Frame.Keeps.linkFault {dn : Bool} {kind : Nat} (h : a.untimed.Keeps s) :
    a.untimed.Keeps (s.linkFault dn kind) := h.fault

theorem Frame.Keeps.linkLate {dn : Bool} {slot : Nat} (h : a.untimed.Keeps s) :
    a.untimed.Keeps (s.linkLate dn slot) := by
  unfold State.linkLate
  simp only
  split
  · exact h.updLink.raise_
  · exact h.updLink.fault

theorem Frame.Keeps.linkOverdue
    (h : a.untimed.Keeps s) : a.untimed.Keeps s.linkOverdue := h.updLink.foldl fun _ _ hs => hs.linkLate

theorem Frame.Keeps.execLlLinkLost {t : Tb} {dn : Bool} (h : a.untimed.Keeps s) :
    a.untimed.KeepsOut (execLlLinkLost t dn s) :=
  .next (.ite h.at.updLink.linkFault h.at)

theorem Frame.Keeps.linkSent (h : a.untimed.Keeps s) : a.untimed.Keeps s.linkSent := h.updOut.updLink

theorem Frame.Keeps.linkEvent {dn : Bool} {e : LlEvent} (h : a.untimed.Keeps s) : a.untimed.Keeps (s.linkEvent dn e) :=
  .ite h (.ite h.linkLate h.updLink.linkOverdue)

theorem Frame.Keeps.execLlFrame {t : Tb} {dn : Bool} {frame : BitVec 80} (h : a.untimed.Keeps s) :
    a.untimed.KeepsOut (execLlFrame t dn frame s) :=
  .next (.ite h.at.linkSent (.ite h.at.linkSent.updLink.linkFault
    (h.at.linkSent.updLink.foldl fun _ _ hs => hs.linkEvent)))

theorem Frame.Keeps.execLlSuperframe {t : Tb} {dn : Bool} {sf : BitVec 128} {phaseErr : BitVec 16}
    (h : a.untimed.Keeps s) :
    a.untimed.KeepsOut (execLlSuperframe t dn sf phaseErr s) :=
  .next (.ite h.at (.ite h.at.updLink (.ite h.at.updLink h.at.updLink.updLink.updOut)))

theorem Frame.Keeps.remoteAbort {g : Nat} {act : Tb} (h : a.untimed.Keeps s) :
    a.untimed.Keeps (s.remoteAbort g act) := by
  unfold State.remoteAbort
  simp only
  refine .same (s := _) ?_
  split
  · exact .ite h h.takeFree.updRun
  · exact h

theorem Frame.Keeps.actEvent {g : Nat} {e : LlEvent} {act : Tb} (h : a.untimed.Keeps s) :
    a.untimed.Keeps (s.actEvent g e act) :=
  .ite h.armAll.trigReplies (.ite (((h.foldl fun _ _ hs => hs.trigFlush).fireSource).fireAll)
    (.ite h.remoteAbort (h.same.foldl fun _ _ hs => hs.srcPulse.pulseTo)))

theorem Frame.Keeps.execLlEventAct {t : Tb} (h : a.untimed.Keeps s) : a.untimed.KeepsOut (execLlEventAct t s) :=
  .next (h.at.linkSent.linkOverdue.updLink.foldl fun _ _ hs => hs.foldl fun _ _ hs => hs.actEvent)

end Sys2Proof.Machine

end

section
/-! Every step keeps the order of the memories and banks, and has a next state. -/

namespace Sys2Proof.Machine

set_option Elab.async false

variable {a s t : State}

/-- Every instruction goes on to a state that keeps the order, a lemma for each. -/
theorem Frame.Keeps.exec {i : Instr} (h : a.untimed.Keeps s) :
    a.untimed.KeepsOut (exec i s) := by
  unfold Machine.exec
  split
  · exact h.execIdentify
  · exact h.execGetStatus
  · exact h.execResync
  · exact h.execChannelConfig
  · exact h.execChannelConnect
  · exact h.execChannelDisconnect
  · exact h.execChannelRange
  · exact h.execChannelForce
  · exact h.execChannelMeasure
  · exact h.execGangSet
  · exact h.execRefDacSet
  · exact h.execGuardSet
  · exact h.execChannelQuery
  · exact h.execImageLoad
  · exact h.execImageVerify
  · exact h.execImageUnload
  · exact h.execImageQuery
  · exact h.execRunStart
  · exact h.execRunStop
  · exact h.execRunAbort
  · exact h.execRunQuery
  · exact h.execTrigConfig
  · exact h.execTrigArm
  · exact h.execTrigDisarm
  · exact h.execCaptureConfig
  · exact h.execCaptureStart
  · exact h.execCaptureStop
  · exact h.execCaptureRelease
  · exact h.execCaptureRead
  · exact h.execResultsRead
  · exact h.execFailLogRead
  · exact h.execFailLogConfig
  · exact h.execFailClear
  · exact h.execChargeClear
  · exact h.execCaptureQuery
  · exact h.execLockGroupSet
  · exact h.execLockGroupQuery
  · exact h.execPllSet
  · exact h.execPllSync
  · exact h.execTbAlign
  · exact h.execLockLinkCfg
  · exact h.execWeirConfig
  · exact h.execCalRead
  · exact h.execCalWrite
  · exact h.execCalCommit
  · exact h.execCalStep
  · exact h.execCalStatus
  · exact h.execThermalRead
  · exact h.execThermalConfig
  · exact h.execThermalClear
  · exact h.execThermalStatus
  · exact h.execNvmRead
  · exact h.execNvmWrite
  · exact h.execNvmErase
  · exact h.execNvmStatus
  · exact h.execEventConfig
  · exact h.execHeartbeat
  · exact h.execEventQuery
  · exact h.execPatchApply
  · exact h.execPatchQuery
  · exact h.execRegRead
  · exact h.execRegWrite
  · exact h.execDramStatus
  · exact h.execDramConfig
  · exact h.execDramRetrain
  · exact h.execSlvEcho
  · exact h.execSlvStatus
  · exact h.execSlvRegRead
  · exact h.execSlvThermal
  · exact h.execSlvStill
  · exact h.execInletDb
  · exact h.execOutletDb
  · exact h.execEventDb
  · exact h.execRingCfgWrite
  · exact h.execSnapshot
  · exact h.execDiagGo
  · exact h.execDiagDataEarly
  · exact h.execApertureWrite
  · exact h.execRegisterWrite
  · exact h.execRcRead
  · exact h.execLoReadLatch
  · exact h.execBar2Read
  · exact h.execBar2Write
  · exact h.execD3hotEntry
  · exact h.execInterfaceReset
  · exact h.execLinkChange
  · exact h.execL1Entry
  · exact h.execPtmDialogue
  · exact h.execDescriptorFetch
  · exact h.execHostDmaFail
  · exact h.execBulkComplete
  · exact h.execMsixCoalesce
  · exact h.execEventPost
  · exact h.execHostWatchTimeout
  · exact h.execPowerOnReset
  · exact h.execPerstNAssert
  · exact h.execPerstNRelease
  · exact h.execBootStageTimeout
  · exact h.execFwWatchdog
  · exact h.execDieRecoveryTimeout
  · exact h.execHandlingDequeue
  · exact h.execJournalAppend
  · exact h.execProtTrip
  · exact h.execSenseDiverge
  · exact h.execOvertempStage
  · exact h.execOtFlagClear
  · exact h.execPllLol
  · exact h.execHoldoverExit
  · exact h.execRelockDone
  · exact h.execTrackedStepDone
  · exact h.execGuardHit
  · exact h.execTbpllLol
  · exact h.execRpsFault
  · exact h.execBridgeDegrade
  · exact h.execLlFrame
  · exact h.execLlSuperframe
  · exact h.execLlEventAct
  · exact h.execLlLinkLost
  · exact h.execTrigInEdge
  · exact h.execRippleArm
  · exact h.execRippleFire
  · exact h.execHoldoffEnd
  · exact h.execRearmEnd
  · exact h.execDisarmTick
  · exact h.execRippleAbort
  · exact h.execRippleSync
  · exact h.execRefdacUpdate
  · exact h.execChargeClearTick
  · exact h.execCaptureStartTick
  · exact h.execCaptureStopTick
  · exact h.execRunArm
  · exact h.execRunBegin
  · exact h.execSegmentStart
  · exact h.execRunEnd
  · exact h.execBranchDecision
  · exact h.execDict
  · exact h.execRepeatTok
  · exact h.execLiteral
  · exact h.execNop
  · exact h.execSwap
  · exact h.execTimerStart
  · exact h.execTimerStop
  · exact h.execMaskStrobe
  · exact h.execUnmaskStrobe
  · exact h.execSeqEvent
  · exact h.execClusterTimerExpiry
  · exact h.execFailLogEntry
  · exact h.execDacUpdateInstant
  · exact h.execSpringIssue
  · exact h.execSpringComplete
  · exact h.execSpringLate
  · exact h.execHold
  · exact h.execHoldEntry
  · exact h.execResume
  · exact h.execTimelineResume
  · exact h.execStretchLimit
  · exact h.execRunLimit
  · exact h.execSegWatchdog
  · exact h.execSarSample
  · exact h.execChargeIncrement
  · exact h.execGapRecord
  · exact h.execRecordCloseTimeout
  · exact h.execCaptureDrain
  · exact h.execWindowOpen
  · exact h.execClosePass
  · exact h.execRpsDone
  · exact h.execMaintenanceWindow
  · exact h.execRetrainInterval
  · exact h.execReformDone
  · exact h.execDramPowerDown
  · exact h.execAgePromotion
  · exact h.execThermalWatch
  · exact h.execThermalConversion
  · exact h.execGraceExpiry
  · exact h.execMmf
  · exact h.execMmfBackoffExpiry
  · exact h.execFlashOpDone
  · exact h.execXipTimeout
  · exact h.execSpSlvSelNFall
  · exact h.execSpSlvSelNRise
  · exact h.execReturnToD0
  · exact h.execBulkTransferStart
  · exact h.execBulkDeadlineStop
  · exact h.execFullRetrainDone
  · exact h.execVerificationDone

theorem Frame.Keeps.step (h : a.untimed.Keeps s) : a.untimed.KeepsOut (step s) := by
  unfold Machine.step
  split
  · exact h.same.exec
  · exact .next h.tick

/-- Settles O47: the step that keeps the order of the memories and banks is there in every state. -/
theorem stepAlwaysGoesOn : Obligations.StepAlwaysGoesOn := by
  intro s
  obtain ⟨t, ht, _⟩ := (Frame.Keeps.refl s).step
  exact ⟨t, ht⟩

/-- Settles O45: the queue's first command is the step's. -/
theorem stepRunsFront : Obligations.StepRunsFront := by
  intro s c cs h
  simp only [step, h]

/-- Settles O46: an empty queue leaves the tick. -/
theorem idleStepIsATick : Obligations.IdleStepIsATick := by
  intro s h
  simp only [step, h, State.tick]

/-- Settles O48, by one lemma for each operation of the model. -/
theorem stepKeepsCanonical : Obligations.StepKeepsCanonical := by
  intro s t hs hst
  obtain ⟨u, hu, hk⟩ := (Frame.Keeps.refl s).step
  obtain rfl : u = t := by simpa only [hu, Host.Outcome.next.injEq] using hst
  exact hk.1 hs

/-- Settles O49, by one lemma for each operation of the model. -/
theorem stepKeepsSized : Obligations.StepKeepsSized := by
  intro s t hs hst
  obtain ⟨u, hu, hk⟩ := (Frame.Keeps.refl s).step
  obtain rfl : u = t := by simpa only [hu, Host.Outcome.next.injEq] using hst
  exact hk.2.1 hs

end Sys2Proof.Machine

end

section
/-! A mailbox command that fails a check of its descriptor (R308, R311; O53). -/

namespace Sys2Proof.Machine

/-- The state in which a mailbox command comes to its TB: a DRAM_CONFIG has drawn its bound (log entry 7). -/
def State.drawnFor (s : State) (c : Instr) : State :=
  match c with
  | .dramConfig .. => { s with free := s.free + 1 }
  | _ => s

/-- A mailbox command of class 0 answers at once, any other is decided, each after the checks of its descriptor. -/
theorem exec_of_descOf {s : State} {c : Instr} {d : Desc} (h : descOf c = some d) :
    (∃ body, exec c s = .next ((s.drawnFor c).immediate (arrivalOf c) c body)) ∨
      ∃ plan go, exec c s = .next ((s.drawnFor c).request (arrivalOf c) c plan go) := by
  cases c with
  | identify | getStatus | resync | channelQuery | imageQuery | runQuery | captureQuery | lockGroupQuery
  | calStatus | thermalStatus | nvmStatus | eventConfig | heartbeat | eventQuery | patchQuery | regRead
  | regWrite | dramStatus => exact .inl ⟨_, rfl⟩
  | channelConfig | channelConnect | channelDisconnect | channelRange | channelForce | channelMeasure | gangSet
  | refDacSet | guardSet | imageLoad | imageVerify | imageUnload | runStart | runStop | runAbort | trigConfig
  | trigArm | trigDisarm | captureConfig | captureStart | captureStop | captureRelease | captureRead
  | resultsRead | failLogRead | failLogConfig | failClear | chargeClear | lockGroupSet | pllSet | pllSync
  | tbAlign | lockLinkCfg | weirConfig | calRead | calWrite | calCommit | calStep | thermalRead | thermalConfig
  | thermalClear | nvmRead | nvmWrite | nvmErase | patchApply | dramConfig | dramRetrain =>
    exact .inr ⟨_, _, rfl⟩
  | _ => exact nomatch h

theorem State.received_some {s u : State} {c : Instr} {d : Desc} {own : Bool} (h : s.received c = some (d, own, u)) :
    descOf c = some d ∧ ((s.drawnFor c).at (arrivalOf c)).receive d = some (own, u) := by
  change (match descOf c with
    | some d => (((s.drawnFor c).at (arrivalOf c)).receive d).map fun x : Bool × State => (d, x.1, x.2)
    | none => none) = _ at h
  split at h
  · next e hd =>
    obtain ⟨⟨o, v⟩, hr, hx⟩ := Option.map_eq_some_iff.mp h
    cases hx
    exact ⟨hd, hr⟩
  · contradiction

section
variable {s u : State} {t : Tb} {c : Instr} {d : Desc} {own : Bool} {st : Status} {e : Nat}
  (hd : descOf c = some d) (hr : (s.at t).receive d = some (own, u)) (he : u.descErr d c own = some (st, e))
include hd hr he

theorem State.immediate_descErr (body : State → Answer × State) :
    s.immediate t c body = u.single d own st e 0 := by
  simp only [State.immediate, hd, hr, he]

theorem State.request_descErr (plan : State → (Status × Nat) ⊕ Plan) (go : State → Tb → Tb → List Grant → State) :
    s.request t c plan go = u.single d own st e 0 := by
  simp only [State.request, hd, hr, he]

end

/-- Settles O53: both ways of a mailbox command check its descriptor first. -/
theorem descriptorChecksAnswer : Obligations.DescriptorChecksAnswer := by
  intro s u c d own st e h he
  obtain ⟨hd, hr⟩ := State.received_some h
  rcases exec_of_descOf (s := s) hd with ⟨body, hx⟩ | ⟨plan, go, hx⟩
  · rw [hx, State.immediate_descErr hd hr he]
  · rw [hx, State.request_descErr hd hr he]

end Sys2Proof.Machine

end

section
/-! What the weir grants and decides (R212, R213; O55, O56). -/

namespace Sys2Proof.Machine

/-! ### Grants -/

theorem State.grantRate_le {s : State} {tab : List Resv} {die bytes n r : Nat} {dir : Bool} {start : Tb}
    (hr : r ≤ 6250) : s.grantRate tab die bytes dir start n r ≤ 6250 := by
  induction n generalizing r with
  | zero => exact hr
  | succ n ih =>
    have step (r' : Nat) : (if r ≤ r' then r else s.grantRate tab die bytes dir start n r') ≤ 6250 := by
      split
      · exact hr
      · exact ih (by omega)
    unfold State.grantRate
    split
    · exact Nat.zero_le _
    · exact step _

/-- The limits of R213 for one granted transfer over the reservations `tab`. -/
def State.GrantLimits (s : State) (start : Tb) (tab : List Resv) (g : Grant) : Prop :=
  250 ≤ g.rate ∧ g.rate ≤ 6250 ∧ g.stop = start + ceilDiv (g.ask.bytes * 1000) g.rate + 20000 ∧
    g.channel < 8 ∧ s.queuedOn g.channel < 16 ∧ ∀ x ∈ tab, x.chan = some g.channel → x.meets start g.stop = false

/-- The window of a transfer ends after its start. -/
theorem lt_windowEnd (start : Tb) (n : Nat) : start < start + n + 20000 :=
  Nat.lt_of_le_of_lt (Nat.le_add_right start n) (Nat.lt_add_of_pos_right (by decide))

/-- A transfer within its limits does not use a channel that a reservation from the same start on holds. -/
theorem State.GrantLimits.channel_ne {s : State} {start : Tb} {tab : List Resv} {g : Grant} {e : Resv} {c : Nat}
    (h : s.GrantLimits start (tab ++ [e]) g) (hc : e.chan = some c) (hlo : e.lo = start)
    (hhi : ∃ stop, e.hi = some stop ∧ start < stop) : c ≠ g.channel := by
  rintro rfl
  obtain ⟨_, _, hstop, _, _, hfree⟩ := h
  obtain ⟨stop, hs, hlt⟩ := hhi
  have hmeets := hfree e (List.mem_append_right tab (List.mem_singleton.mpr rfl)) hc
  simp only [Resv.meets, hlo, hs, Bool.and_eq_false_iff, decide_eq_false_iff_not] at hmeets
  rcases hmeets with h | h
  · exact h (hstop ▸ lt_windowEnd ..)
  · exact h hlt

theorem State.GrantLimits.mono {s : State} {start : Tb} {tab : List Resv} {g : Grant} {e : Resv}
    (h : s.GrantLimits start (tab ++ [e]) g) : s.GrantLimits start tab g := by
  obtain ⟨hlo, hhi, hstop, hch, hq, hfree⟩ := h
  exact ⟨hlo, hhi, hstop, hch, hq, fun x hx => hfree x (List.mem_append_left _ hx)⟩

/-- The transfers granted to the rest of a command's asks follow those granted before. -/
theorem State.grants_limits {s : State} {start : Tb} {asks : List BulkAsk} {tab : List Resv} {gs all : List Grant}
    (h : s.grants start asks tab gs = .inr all) :
    ∃ new, all = gs ++ new ∧ new.map (·.ask) = asks ∧ new.Pairwise (fun a b => a.channel ≠ b.channel) ∧
      ∀ g ∈ new, s.GrantLimits start tab g := by
  induction asks generalizing tab gs with
  | nil =>
    obtain rfl : gs = all := by simpa only [State.grants, Sum.inr.injEq] using h
    exact ⟨[], by simp⟩
  | cons a rest ih =>
    simp only [State.grants] at h
    split at h
    · contradiction
    · next hrate =>
      split at h
      · contradiction
      · next c hfind =>
        obtain ⟨new, rfl, hasks, hpair, hlim⟩ := ih h
        have hrange : c < 8 := List.mem_range.mp (List.mem_of_find?_eq_some hfind)
        have hok := List.find?_some hfind
        simp only [Bool.and_eq_true, Bool.not_eq_true', decide_eq_true_eq, List.any_eq_false, beq_iff_eq, not_and,
          Bool.not_eq_true] at hok
        obtain ⟨hfree, hroom⟩ := hok
        refine ⟨_ :: new, List.append_assoc .., ?_, ?_, ?_⟩
        · rw [List.map_cons, hasks]
        · refine List.pairwise_cons.mpr ⟨fun g hg => ?_, hpair⟩
          exact (hlim g hg).channel_ne rfl rfl ⟨_, rfl, lt_windowEnd ..⟩
        · intro g hg
          rcases List.mem_cons.mp hg with rfl | hg
          · exact ⟨by simp only; omega, State.grantRate_le (by omega), rfl, hrange, by simp only; omega, hfree⟩
          · exact (hlim g hg).mono

/-- Settles O56: each transfer is granted on what those before it left. -/
theorem grantsKeepTheirLimits : Obligations.GrantsKeepTheirLimits := by
  intro s start asks tab gs h
  obtain ⟨new, rfl, hasks, hpair, hlim⟩ := State.grants_limits h
  exact ⟨hasks, hpair, hlim⟩

/-! ### Decisions -/

theorem pairwise_eraseDups {xs : List Tb} {r : Tb → Tb → Prop} (h : xs.Pairwise r) : xs.eraseDups.Pairwise r := by
  induction hn : xs.length using Nat.strongRecOn generalizing xs with
  | ind n ih =>
    cases xs with
    | nil => simp
    | cons x xs =>
      obtain ⟨hx, hxs⟩ := List.pairwise_cons.mp h
      rw [List.eraseDups_cons]
      refine List.pairwise_cons.mpr ⟨fun y hy => ?_, ih _ ?_ (hxs.filter _) rfl⟩
      · exact hx y (List.mem_filter.mp (List.mem_eraseDups.mp hy)).1
      · rw [← hn]
        exact Nat.lt_succ_of_le (List.length_filter_le ..)

theorem pairwise_sorted_instants (xs : List Tb) : (xs.mergeSort fun x y => decide (x ≤ y)).Pairwise (· ≤ ·) := by
  have htrans (x y z : Tb) (hx : decide (x ≤ y) = true) (hy : decide (y ≤ z) = true) : decide (x ≤ z) = true :=
    decide_eq_true (Nat.le_trans (of_decide_eq_true hx) (of_decide_eq_true hy))
  have htotal (x y : Tb) : (decide (x ≤ y) || decide (y ≤ x)) = true := by
    rw [Bool.or_eq_true, decide_eq_true_eq, decide_eq_true_eq]
    exact Nat.le_total x y
  exact (List.pairwise_mergeSort htrans htotal xs).imp fun h => of_decide_eq_true h

theorem candidates_sorted {tab : List Resv} {a : Ask} {s0 : Tb} :
    (candidates tab a s0).Pairwise (· ≤ ·) :=
  pairwise_eraseDups (pairwise_sorted_instants _)

theorem mem_candidates_self {tab : List Resv} {a : Ask} {s0 : Tb} : s0 ∈ candidates tab a s0 := by
  simp [candidates, sortTb]

/-- The first fitting candidate is among the candidates and fits. -/
theorem firstFit_fits {a : Ask} {cs : List Tb} {c p : Tb} {gs : List Grant} (h : firstFit a cs = some (c, p, gs)) :
    c ∈ cs ∧ a.fit c = .inr (p, gs) := by
  obtain ⟨b, hb, hf⟩ := List.exists_of_findSome?_eq_some h
  split at hf
  · next hfit =>
    cases hf
    exact ⟨hb, hfit⟩
  · contradiction

/-- No candidate before the first fitting one fits, where the candidates rise. -/
theorem firstFit_first {a : Ask} {cs : List Tb} {b c p : Tb} {gs : List Grant} (hs : cs.Pairwise (· ≤ ·))
    (h : firstFit a cs = some (c, p, gs)) (hb : b ∈ cs) (hlt : b < c) : ∃ x, a.fit b = .inl x := by
  obtain ⟨l, e, r, rfl, he, hl⟩ := List.findSome?_eq_some_iff.mp h
  obtain rfl : e = c := by
    split at he
    · simp_all
    · contradiction
  rcases List.mem_append.mp hb with hb | hb
  · have hn := hl b hb
    split at hn
    · contradiction
    · next x hx => exact ⟨x, hx⟩
  · rcases List.mem_cons.mp hb with rfl | hb
    · exact absurd hlt (Nat.lt_irrefl _)
    · have := (List.pairwise_cons.mp (List.pairwise_append.mp hs).2.1).1 b hb
      exact absurd (Nat.lt_of_lt_of_le hlt this) (Nat.lt_irrefl _)

/-- The EARLIEST of a refusal, taken from the first fitting candidate, is one that fits. -/
theorem firstFit_earliest {a : Ask} {cs : List Tb} {e : Tb} (h : (firstFit a cs).map (·.1) = some e) :
    e ∈ cs ∧ ∃ p gs, a.fit e = .inr (p, gs) := by
  obtain ⟨⟨c, p, gs⟩, hf, rfl⟩ := Option.map_eq_some_iff.mp h
  obtain ⟨hc, hfit⟩ := firstFit_fits hf
  exact ⟨hc, p, gs, hfit⟩

theorem Budget.status_mem (b : Budget) :
    b.status ∈ [Status.refusedTime, Status.refusedBandwidth, Status.refusedPower] := by
  cases b with
  | load => decide
  | spring => decide
  | dram => decide
  | dma => decide
  | link => decide

/-- A start lies beyond the horizon of its work. -/
def Ask.beyond (a : Ask) (now c : Tb) : Bool := match a.horizon with | some h => decide (c > now + h) | none => false

/-- An AT start lies before the earliest start. -/
def Ask.past (a : Ask) : Bool := match a.atTb with | some t => decide (t < a.s0) | none => false

theorem Ask.past_eq_false {a : Ask} (h : ¬ a.past = true) {t : Tb} (ht : a.atTb = some t) : a.s0 ≤ t := by
  simp only [Ask.past, ht, decide_eq_true_eq] at h
  exact Nat.not_lt.mp h

theorem Ask.beyond_eq_false {a : Ask} {now c : Tb} :
    a.beyond now c = false ↔ ∀ h, a.horizon = some h → c ≤ now + h := by
  unfold Ask.beyond
  split
  · next h hh => simp [hh]
  · next hh => simp [hh]

/-- The candidates within the horizon; of an AT start the start alone. -/
def Ask.near (a : Ask) (tab : List Resv) (now : Tb) : List Tb :=
  (if a.atTb.isSome then [a.atTb.getD a.s0] else candidates tab a (a.atTb.getD a.s0)).filter fun c => !a.beyond now c

/-- What BLOCK of a refusal names: the budget that the work's start finds short. -/
def Ask.block (a : Ask) : Nat := match a.fit (a.atTb.getD a.s0) with | .inl f => f.budget.code | .inr _ => 0

/-- The first start that fits, within the horizon or not. -/
def Ask.free (a : Ask) (tab : List Resv) : Option (Tb × Tb × List Grant) :=
  firstFit a (candidates tab a (a.atTb.getD a.s0))

section
variable {s : State} {tab : List Resv} {a : Ask}

theorem State.weirDecide_past (h : a.past = true) :
    s.weirDecide tab a =
      .refuse { status := .refusedTime, detail := 0x02, earliest := (firstFit a (candidates tab a a.s0)).map (·.1) } :=
  if_pos h

theorem State.weirDecide_beyond (hp : ¬ a.past = true) (h : a.beyond s.tb (a.atTb.getD a.s0) = true) :
    s.weirDecide tab a =
      .refuse { status := .refusedTime, detail := 0x03, earliest := (a.free tab).map (·.1), block := a.block } :=
  (if_neg hp).trans (if_pos h)

theorem State.weirDecide_near {c p : Tb} {gs : List Grant} (hp : ¬ a.past = true)
    (hb : ¬ a.beyond s.tb (a.atTb.getD a.s0) = true) (h : firstFit a (a.near tab s.tb) = some (c, p, gs)) :
    s.weirDecide tab a =
      if a.deadline ≠ 0 ∧ p > a.deadline then
        .refuse { status := .refusedTime, detail := 0x01, earliest := some c, block := a.block,
                  required := satTo 32 (ceilDiv (p - a.deadline) 1000) }
      else .accept c p gs := by
  refine (if_neg hp).trans ((if_neg hb).trans ?_)
  change (match firstFit a (a.near tab s.tb) with | some (c, p, gs) => _ | none => _) = _
  rw [h]
  rfl

theorem State.weirDecide_none (hp : ¬ a.past = true) (hb : ¬ a.beyond s.tb (a.atTb.getD a.s0) = true)
    (h : firstFit a (a.near tab s.tb) = none) :
    s.weirDecide tab a =
      if a.atTb.isNone ∧ (a.free tab).isSome then
        .refuse { status := .refusedTime, detail := 0x03, earliest := (a.free tab).map (·.1), block := a.block }
      else
        match a.fit (a.atTb.getD a.s0) with
        | .inl f => .refuse { status := f.budget.status, detail := f.budget.code, earliest := (a.free tab).map (·.1),
                              die := f.die, required := satTo 32 f.required, available := f.available }
        | .inr _ => .refuse { status := .refusedTime, detail := 0x03 } := by
  refine (if_neg hp).trans ((if_neg hb).trans ?_)
  change (match firstFit a (a.near tab s.tb) with | some (c, p, gs) => _ | none => _) = _
  rw [h]
  rfl

theorem State.weirDecide_accept {c p : Tb} {gs : List Grant} (h : s.weirDecide tab a = .accept c p gs) :
    firstFit a (a.near tab s.tb) = some (c, p, gs) ∧ (a.deadline = 0 ∨ p ≤ a.deadline) ∧
      ∀ t, a.atTb = some t → a.s0 ≤ t := by
  by_cases hp : a.past = true
  · rw [State.weirDecide_past hp] at h
    contradiction
  by_cases hb : a.beyond s.tb (a.atTb.getD a.s0) = true
  · rw [State.weirDecide_beyond hp hb] at h
    contradiction
  cases hf : firstFit a (a.near tab s.tb) with
  | none =>
    rw [State.weirDecide_none hp hb hf] at h
    split at h
    · contradiction
    · split at h
      · contradiction
      · contradiction
  | some x =>
    obtain ⟨c, p, gs⟩ := x
    rw [State.weirDecide_near hp hb hf] at h
    split at h
    · contradiction
    · next hdl =>
      cases h
      refine ⟨rfl, ?_, fun t ht => Ask.past_eq_false hp ht⟩
      by_cases hd : a.deadline = 0
      · exact .inl hd
      · exact .inr (Nat.not_lt.mp fun hp => hdl ⟨hd, hp⟩)

theorem mem_candidates_of_near {c : Tb} (h : c ∈ a.near tab s.tb) : c ∈ candidates tab a (a.atTb.getD a.s0) := by
  have hc := (List.mem_filter.mp h).1
  split at hc
  · rw [List.mem_singleton.mp hc]
    exact mem_candidates_self
  · exact hc

theorem State.weirDecide_refuse {r : Refuse} (h : s.weirDecide tab a = .refuse r) :
    (∀ e, r.earliest = some e → e ∈ candidates tab a a.s0 ++ candidates tab a (a.atTb.getD a.s0) ∧
      ∃ p gs, a.fit e = .inr (p, gs)) ∧
    r.status ∈ [Status.refusedTime, .refusedBandwidth, .refusedPower] := by
  have hfree {e : Tb} (he : (a.free tab).map (·.1) = some e) :
      e ∈ candidates tab a a.s0 ++ candidates tab a (a.atTb.getD a.s0) ∧ ∃ p gs, a.fit e = .inr (p, gs) :=
    (firstFit_earliest he).imp_left (List.mem_append_right _)
  by_cases hp : a.past = true
  · rw [State.weirDecide_past hp] at h
    cases h
    exact ⟨fun e he => (firstFit_earliest he).imp_left (List.mem_append_left _), List.mem_cons_self⟩
  by_cases hb : a.beyond s.tb (a.atTb.getD a.s0) = true
  · rw [State.weirDecide_beyond hp hb] at h
    cases h
    exact ⟨fun e he => hfree he, List.mem_cons_self⟩
  cases hf : firstFit a (a.near tab s.tb) with
  | none =>
    rw [State.weirDecide_none hp hb hf] at h
    split at h
    · cases h
      exact ⟨fun e he => hfree he, List.mem_cons_self⟩
    · split at h
      · next f _ =>
        cases h
        exact ⟨fun e he => hfree he, f.budget.status_mem⟩
      · cases h
        exact ⟨fun e he => (nomatch he), List.mem_cons_self⟩
  | some x =>
    obtain ⟨c, p, gs⟩ := x
    rw [State.weirDecide_near hp hb hf] at h
    split at h
    · cases h
      refine ⟨fun e he => ?_, List.mem_cons_self⟩
      obtain rfl : c = e := by simpa using he
      obtain ⟨hc, hfit⟩ := firstFit_fits hf
      exact ⟨List.mem_append_right _ (mem_candidates_of_near hc), p, gs, hfit⟩
    · contradiction

end

/-- Settles O55: the decision is the first fitting candidate within the horizon, and the candidates rise. -/
theorem weirDecisionHolds : Obligations.WeirDecisionHolds := by
  intro s tab a
  refine ⟨fun c p gs h => ?_, fun r h => State.weirDecide_refuse h⟩
  obtain ⟨hfirst, hdl, hat⟩ := State.weirDecide_accept h
  obtain ⟨hmem, hfit⟩ := firstFit_fits hfirst
  obtain ⟨hc, hnear⟩ := List.mem_filter.mp hmem
  have hnear : a.beyond s.tb c = false := by simpa using hnear
  refine ⟨hfit, hdl, Ask.beyond_eq_false.mp hnear, fun t ht => ⟨?_, hat t ht⟩, fun hn => ?_⟩
  · simpa [ht] using hc
  · rw [Ask.near, hn] at hfirst
    rw [hn] at hc
    refine ⟨hc, fun b hb hlt => firstFit_first (candidates_sorted.filter _) hfirst ?_ hlt⟩
    refine List.mem_filter.mpr ⟨hb, ?_⟩
    rw [Bool.not_eq_true', Ask.beyond_eq_false]
    exact fun x hx => Nat.le_trans (Nat.le_of_lt hlt) (Ask.beyond_eq_false.mp hnear x hx)

end Sys2Proof.Machine

end

section
/-! What the memories give back (O57). -/

namespace Sys2Proof.Machine

/-- An address below all entries reads as an unlisted one. -/
theorem Mem.get_of_lt {d : Byte} {m : Mem} {x : Nat} (h : ∀ c ∈ m, x < c.1) : Mem.get d m x = d := by
  induction m with
  | nil => rfl
  | cons c m ih =>
    have hc := h c List.mem_cons_self
    rw [Mem.get, if_neg (by omega), ih fun e he => h e (List.mem_cons_of_mem c he)]

/-- The first entry of a canonical memory lies below the others, which are canonical themselves. -/
theorem Mem.wf_cons {d : Byte} {c : Host.Cell} {m : Mem} (h : Mem.wf d (c :: m) = true) :
    (∀ e ∈ m, c.1 < e.1) ∧ Mem.wf d m = true := by
  simp only [Mem.wf, Bool.and_eq_true, List.all_eq_true, decide_eq_true_eq] at h
  exact ⟨h.1.2, h.2⟩

theorem Mem.get_set {d v : Byte} {m : Mem} {a x : Nat} (h : Mem.wf d m = true) :
    Mem.get d (Mem.set d m a v) x = if x = a then v else Mem.get d m x := by
  induction m with
  | nil => simp only [Mem.set]; split <;> simp_all [Mem.get]
  | cons c m ih =>
    obtain ⟨hlt, hm⟩ := Mem.wf_cons h
    have below : x < c.1 → Mem.get d m x = d := fun hx => Mem.get_of_lt fun e he => Nat.lt_trans hx (hlt e he)
    have here : x = c.1 → Mem.get d m x = d := fun hx => Mem.get_of_lt fun e he => hx ▸ hlt e he
    unfold Mem.set
    split
    · split
      · simp only [Mem.get]; grind
      · simp only [Mem.get]
    · split
      · split
        · simp only [Mem.get]; grind
        · simp only [Mem.get]; grind
      · simp only [Mem.get, ih hm]; grind

theorem Mem.get_setBytes {d : Byte} {bs : List Byte} {m : Mem} {a x : Nat} (h : Mem.wf d m = true) :
    Mem.get d (Mem.setBytes d m a bs) x =
      if a ≤ x ∧ x < a + bs.length then bs.getD (x - a) 0 else Mem.get d m x := by
  induction bs generalizing m a with
  | nil => rw [if_neg (by simp only [List.length_nil]; omega)]; rfl
  | cons v vs ih =>
    rw [Mem.setBytes, ih (Mem.wf_set h), Mem.get_set h, List.length_cons]
    obtain hx | rfl | hx := Nat.lt_trichotomy x a
    · rw [if_neg (by omega), if_neg (by omega), if_neg (by omega)]
    · rw [if_neg (by omega), if_pos rfl, if_pos (by omega), Nat.sub_self, List.getD_cons_zero]
    · obtain ⟨k, rfl⟩ : ∃ k, x = a + 1 + k := ⟨x - (a + 1), by omega⟩
      rw [show a + 1 + k - a = k + 1 by omega, List.getD_cons_succ, show a + 1 + k - (a + 1) = k by omega,
        if_neg (show ¬ a + 1 + k = a by omega)]
      exact ite_congr (propext (by omega)) (fun _ => rfl) (fun _ => rfl)

/-- A memory with only the entries at some addresses reads there as before, elsewhere as an unlisted one. -/
theorem Mem.get_filter {d : Byte} {m : Mem} {p : Nat → Bool} {x : Nat} :
    Mem.get d (m.filter fun c => p c.1) x = if p x then Mem.get d m x else d := by
  induction m with
  | nil => simp [Mem.get]
  | cons c m ih =>
    rw [List.filter_cons]
    split
    · simp only [Mem.get, ih]; grind
    · rw [ih, Mem.get]; grind

theorem Mem.get_clear {d : Byte} {m : Mem} {a n x : Nat} :
    Mem.get d (Mem.clear m a n) x = if a ≤ x ∧ x < a + n then d else Mem.get d m x := by
  rw [Mem.clear, Mem.get_filter (p := fun k => decide (k < a ∨ a + n ≤ k))]
  by_cases hx : a ≤ x ∧ x < a + n
  · rw [if_pos hx, if_neg (by rw [decide_eq_true_eq]; omega)]
  · rw [if_neg hx, if_pos (by rw [decide_eq_true_eq]; omega)]

/-- The entries below the one after a written byte: those below the byte, and the byte. -/
theorem Mem.filter_lt_set {d v : Byte} {m : Mem} {a : Nat} (h : Mem.wf d m = true) :
    (Mem.set d m a v).filter (fun c => decide (c.1 < a + 1)) =
      m.filter (fun c => decide (c.1 < a)) ++ Mem.ofBytes d a [v] := by
  induction m with
  | nil => simp only [Mem.set, Mem.ofBytes]; split <;> simp
  | cons c m ih =>
    obtain ⟨hlt, hm⟩ := Mem.wf_cons h
    have tail {k : Nat} (hk : k ≤ c.1 + 1) : m.filter (fun c => decide (c.1 < k)) = [] :=
      List.filter_eq_nil_iff.mpr fun e he => by have := hlt e he; rw [decide_eq_true_eq]; omega
    have all {k : Nat} (hk : k ≤ c.1) : (c :: m).filter (fun c => decide (c.1 < k)) = [] := by
      rw [List.filter_cons_of_neg (by rw [decide_eq_true_eq]; omega), tail (by omega)]
    unfold Mem.set
    simp only [Mem.ofBytes]
    split
    · next hc =>
      rw [all (k := a) (by omega)]
      split
      · exact all (by omega)
      · rw [List.filter_cons_of_pos (by simp), all (by omega)]; rfl
    · split
      · next hc =>
        rw [all (k := a) (by omega)]
        split
        · exact tail (by omega)
        · rw [List.filter_cons_of_pos (by simp), tail (by omega)]; rfl
      · rw [List.filter_cons_of_pos (by simp; omega), List.filter_cons_of_pos (by simp; omega), ih hm,
          Mem.ofBytes, List.cons_append]; rfl

/-- A written byte leaves the entries above it. -/
theorem Mem.filter_ge_set {d v : Byte} {m : Mem} {a k : Nat} (hk : a < k) :
    (Mem.set d m a v).filter (fun c => decide (k ≤ c.1)) = m.filter fun c => decide (k ≤ c.1) := by
  induction m with
  | nil => unfold Mem.set; split <;> simp [hk]
  | cons c m ih =>
    unfold Mem.set
    split
    · split <;> simp [hk, List.filter_cons]
    · split
      · split <;> simp_all
      · rw [List.filter_cons, ih, List.filter_cons]

/-- A canonical memory is what stands below an address and what stands from it on. -/
theorem Mem.filter_lt_append_ge {d : Byte} {m : Mem} {a : Nat} (h : Mem.wf d m = true) :
    m.filter (fun c => decide (c.1 < a)) ++ m.filter (fun c => decide (a ≤ c.1)) = m := by
  induction m with
  | nil => rfl
  | cons c m ih =>
    obtain ⟨hlt, hm⟩ := Mem.wf_cons h
    by_cases hc : c.1 < a
    · rw [List.filter_cons_of_pos (by simpa using hc), List.filter_cons_of_neg (by simpa using hc), List.cons_append,
        ih hm]
    · rw [List.filter_cons_of_neg (by simpa using hc), List.filter_cons_of_pos (by simp; omega),
        List.filter_eq_nil_iff.mpr, List.filter_eq_self.mpr, List.nil_append]
      · intro e he; have := hlt e he; simp; omega
      · intro e he; have := hlt e he; simp; omega

theorem Mem.put_eq_setBytes {d : Byte} {m : Mem} {a : Nat} {bs : List Byte} (h : Mem.wf d m = true) :
    Mem.put d m a bs = Mem.setBytes d m a bs := by
  induction bs generalizing m a with
  | nil => rw [Mem.put, Mem.ofBytes, List.append_nil, List.length_nil, Nat.add_zero, Mem.filter_lt_append_ge h]; rfl
  | cons v vs ih =>
    have hof : Mem.ofBytes d a (v :: vs) = Mem.ofBytes d a [v] ++ Mem.ofBytes d (a + 1) vs := by
      simp only [Mem.ofBytes]; split <;> rfl
    rw [Mem.setBytes, ← ih (Mem.wf_set h), Mem.put, Mem.put, Mem.filter_lt_set h, Mem.filter_ge_set (by omega), hof,
      List.length_cons, List.append_assoc _ (Mem.ofBytes d a [v]), show a + 1 + vs.length = a + (vs.length + 1) by omega]

theorem State.flashProgram_flashRd {s : State} {off x : Nat} {bs : List Byte}
    (h : Mem.wf flashByte s.serial.flash = true) :
    (s.flashProgram off bs).flashRd x =
      if off ≤ x ∧ x < off + bs.length then s.flashRd x &&& bs.getD (x - off) 0 else s.flashRd x := by
  have hl : (programmed (s.flashBytes off bs.length) bs).length = bs.length := by
    simp [programmed, State.flashBytes, Mem.bytes]
  have hr : (s.flashProgram off bs).flashRd x =
      Mem.get flashByte (Mem.setBytes flashByte s.serial.flash off (programmed (s.flashBytes off bs.length) bs)) x := rfl
  rw [hr, Mem.get_setBytes h, hl]
  split
  · next hx =>
    obtain ⟨k, rfl⟩ : ∃ k, x = off + k := ⟨x - off, by omega⟩
    have hk : k < bs.length := by omega
    simp [programmed, State.flashBytes, Mem.bytes, State.flashRd, hk]
  · rfl

/-- Settles O57, by what one written byte changes. -/
theorem memoriesReadBack : Obligations.MemoriesReadBack :=
  ⟨fun _ _ _ _ _ h => Mem.get_setBytes h, fun _ _ _ _ h => Mem.put_eq_setBytes h, fun _ _ _ _ _ => Mem.get_clear,
    fun _ _ _ _ h => State.flashProgram_flashRd h, fun _ _ _ _ => Mem.get_clear, fun _ _ _ _ => ⟨rfl, rfl⟩⟩

end Sys2Proof.Machine

end

section
/-! What an event does to the device queue (R318, R348; O58). -/

namespace Sys2Proof.Machine

/-- The records of a queue that are no EPOCH_MARK and no PART_RECOVERY. -/
def otherRecords (q : List Event) : List Event := q.filter fun x => !x.kept

/-- An event of severity INFO that may be dropped. -/
abbrev Event.loose (x : Event) : Prop := x.sev = .info ∧ ¬ x.kept = true

/-! ### The newest INFO event -/

theorem dropNewestInfo_go_none {es : List Event} (h : ∀ x ∈ es, ¬ x.loose) : dropNewestInfo.go es = none := by
  induction es with
  | nil => rfl
  | cons e es ih =>
    rw [dropNewestInfo.go, if_neg (h e List.mem_cons_self), ih fun x hx => h x (List.mem_cons_of_mem e hx)]
    rfl

theorem dropNewestInfo_go_some {l r : List Event} {x : Event} (hx : x.loose) (hl : ∀ y ∈ l, ¬ y.loose) :
    dropNewestInfo.go (l ++ x :: r) = some (l ++ r) := by
  induction l with
  | nil => exact if_pos hx
  | cons e l ih =>
    rw [List.cons_append, dropNewestInfo.go, if_neg (hl e List.mem_cons_self),
      ih fun y hy => hl y (List.mem_cons_of_mem e hy)]
    rfl

theorem dropNewestInfo_none {q : List Event} (h : ∀ x ∈ q, ¬ x.loose) : dropNewestInfo q = none := by
  rw [dropNewestInfo, dropNewestInfo_go_none fun x hx => h x (List.mem_reverse.mp hx)]
  rfl

/-- The newest droppable INFO event is the one with no other behind it. -/
theorem dropNewestInfo_some {a b : List Event} {x : Event} (hx : x.loose) (hb : ∀ y ∈ b, ¬ y.loose) :
    dropNewestInfo (a ++ x :: b) = some (a ++ b) := by
  rw [dropNewestInfo, show (a ++ x :: b).reverse = b.reverse ++ x :: a.reverse by simp,
    dropNewestInfo_go_some hx fun y hy => hb y (List.mem_reverse.mp hy)]
  simp

/-- A queue holds a newest droppable INFO event, or none at all. -/
theorem newest_loose (q : List Event) :
    (∀ x ∈ q, ¬ x.loose) ∨ ∃ a x b, q = a ++ x :: b ∧ x.loose ∧ ∀ y ∈ b, ¬ y.loose := by
  induction q with
  | nil => exact .inl (by simp)
  | cons e q ih =>
    rcases ih with h | ⟨a, x, b, rfl, hx, hb⟩
    · by_cases he : e.loose
      · exact .inr ⟨[], e, q, rfl, he, h⟩
      · exact .inl (List.forall_mem_cons.mpr ⟨he, h⟩)
    · exact .inr ⟨e :: a, x, b, rfl, hx, hb⟩

/-! ### An arrival, case by case -/

section
variable {s : State} {e : NewEvent}

theorem State.arrive_mark (h : e.code = evEpochMark ∨ e.code = evPartRecovery) :
    s.arrive e = (s.ev.seqNext, s.enqueue e) :=
  if_pos h

variable (hm : ¬ (e.code = evEpochMark ∨ e.code = evPartRecovery))
include hm

theorem State.arrive_filtered (h : evSev e.code = .info ∧ s.ev.minSev = true) :
    s.arrive e = (0, s.updEv fun v => { v with filterCnt := inc32 v.filterCnt }) :=
  (if_neg hm).trans (if_pos h)

variable (hf : ¬ (evSev e.code = .info ∧ s.ev.minSev = true))
include hf

theorem State.arrive_room (h : (otherRecords s.ev.queue).length < 1008) : s.arrive e = (s.ev.seqNext, s.enqueue e) :=
  (if_neg hm).trans ((if_neg hf).trans (if_pos h))

variable (hr : ¬ (otherRecords s.ev.queue).length < 1008)
include hr

theorem State.arrive_dropped (h : evSev e.code = .info) : s.arrive e = (0, s.countDrop) :=
  (if_neg hm).trans ((if_neg hf).trans ((if_neg hr).trans (if_pos h)))

variable (hi : ¬ evSev e.code = .info)
include hi

theorem State.arrive_full :
    s.arrive e = match dropNewestInfo s.ev.queue with
      | some q => (s.ev.seqNext, ((s.updEv fun v => { v with queue := q }).countDrop).enqueue e)
      | none => (0, s.countDrop) :=
  (if_neg hm).trans ((if_neg hf).trans ((if_neg hr).trans (if_neg hi)))

theorem State.arrive_refused (h : ∀ x ∈ s.ev.queue, ¬ x.loose) : s.arrive e = (0, s.countDrop) := by
  rw [State.arrive_full hm hf hr hi, dropNewestInfo_none h]

theorem State.arrive_replaces {a b : List Event} {x : Event} (hq : s.ev.queue = a ++ x :: b) (hx : x.loose)
    (hb : ∀ y ∈ b, ¬ y.loose) :
    s.arrive e = (s.ev.seqNext, ((s.updEv fun v => { v with queue := a ++ b }).countDrop).enqueue e) := by
  rw [State.arrive_full hm hf hr hi, hq, dropNewestInfo_some hx hb]

end

/-! ### What it leaves -/

/-- The marks of `q` stand in `q'`, and the other records of `q'` keep the bound of 1,008 where those of `q` do. -/
def KeepsMarks (q q' : List Event) : Prop :=
  q.filter (·.kept) ⊆ q' ∧ ((otherRecords q).length ≤ 1008 → (otherRecords q').length ≤ 1008)

theorem KeepsMarks.refl (q : List Event) : KeepsMarks q q := ⟨List.filter_sublist.subset, id⟩

theorem KeepsMarks.append_mark {q : List Event} {x : Event} (hx : x.kept = true) : KeepsMarks q (q ++ [x]) :=
  ⟨List.subset_append_of_subset_left _ (List.filter_sublist.subset), fun h => by simpa [otherRecords, hx] using h⟩

theorem KeepsMarks.append_room {q : List Event} {x : Event} (h : (otherRecords q).length < 1008) : KeepsMarks q (q ++ [x]) := by
  refine ⟨List.subset_append_of_subset_left _ (List.filter_sublist.subset), fun _ => ?_⟩
  have hx : ([x].filter fun x => !x.kept).length ≤ 1 := List.length_filter_le ..
  rw [otherRecords, List.filter_append, List.length_append]
  rw [otherRecords] at h
  omega

theorem KeepsMarks.replace {a b : List Event} {x y : Event} (hx : x.loose) : KeepsMarks (a ++ x :: b) (a ++ b ++ [y]) := by
  obtain ⟨_, hk⟩ := hx
  refine ⟨fun z hz => ?_, fun h => ?_⟩
  · obtain ⟨hz, hzk⟩ := List.mem_filter.mp hz
    grind
  · have hy : ([y].filter fun x => !x.kept).length ≤ 1 := List.length_filter_le ..
    simp only [otherRecords, List.filter_append, List.length_append, List.filter_cons, hk, Bool.not_false, if_true,
      List.length_cons] at h hy ⊢
    grind

/-- A message to the host leaves the event unit, the boot state and the cause of a dropped event. -/
theorem State.sendMsi_eventOvf (s : State) (v : Nat) :
    (s.sendMsi v).ev = s.ev ∧ (s.sendMsi v).boot = s.boot ∧
      (s.sendMsi v).pci.intEventOvf = s.pci.intEventOvf := by
  unfold State.sendMsi
  split
  · exact ⟨rfl, rfl, rfl⟩
  · exact ⟨rfl, rfl, rfl⟩

theorem State.countDrop_ev (s : State) : s.countDrop.ev = { s.ev with ovfCnt := inc32 s.ev.ovfCnt, ovfBefore := true } :=
  (State.sendMsi_eventOvf _ _).1

theorem State.countDrop_boot (s : State) : s.countDrop.boot = s.boot := (State.sendMsi_eventOvf _ _).2.1

theorem State.countDrop_intEventOvf (s : State) : s.countDrop.pci.intEventOvf = true :=
  (State.sendMsi_eventOvf _ _).2.2

theorem State.enqueue_ev (s : State) (e : NewEvent) :
    (s.enqueue e).ev = { s.ev with
      queue := s.ev.queue ++ [e.record s.ev.seqNext s.boot.epoch], seqNext := nextSeq s.ev.seqNext } :=
  rfl

/-- The event unit after an event took the place of one of the queue, of which `q` is left. -/
theorem State.replaced_ev (s : State) (e : NewEvent) (q : List Event) :
    (((s.updEv fun v => { v with queue := q }).countDrop).enqueue e).ev = { s.ev with
      queue := q ++ [e.record s.ev.seqNext s.boot.epoch], seqNext := nextSeq s.ev.seqNext, ovfCnt := inc32 s.ev.ovfCnt
      ovfBefore := true } := by
  rw [State.enqueue_ev, State.countDrop_ev, State.countDrop_boot]
  rfl

theorem one_le_nextSeq (n : Nat) : 1 ≤ nextSeq n := by
  unfold nextSeq
  split
  · exact Nat.le_refl 1
  · exact Nat.le_add_left 1 n

theorem NewEvent.record_kept {e : NewEvent} {seq : Nat} {epoch : BitVec 16}
    (h : e.code = evEpochMark ∨ e.code = evPartRecovery) : (e.record seq epoch).kept = true := by
  rcases h with h | h
  · simp [NewEvent.record, Event.kept, h]
  · simp [NewEvent.record, Event.kept, h]

/-- The records of other events stand among those of the queue. -/
theorem forall_loose_of_others {q : List Event} (h : ∀ y ∈ otherRecords q, y.sev ≠ .info) : ∀ y ∈ q, ¬ y.loose := by
  intro y hy hl
  obtain ⟨hs, hk⟩ := hl
  exact h y (List.mem_filter.mpr ⟨hy, by simpa using hk⟩) hs

/-- Settles O58, by the cases of an arrival: a mark, an event that is filtered, one that finds room, one that is dropped,
and one that takes the place of the newest INFO event. -/
theorem deviceQueueKeepsItsMarks : Obligations.DeviceQueueKeepsItsMarks := by
  intro s t e n _ rfl h
  rw [← and_assoc]
  change KeepsMarks s.ev.queue t.ev.queue ∧ _
  by_cases hm : e.code = evEpochMark ∨ e.code = evPartRecovery
  · rw [State.arrive_mark hm] at h
    cases h
    exact ⟨.append_mark (NewEvent.record_kept hm), fun _ => ⟨rfl, rfl⟩, fun h1 h2 => absurd hm (not_or.mpr ⟨h1, h2⟩),
      fun _ => one_le_nextSeq _⟩
  by_cases hf : evSev e.code = .info ∧ s.ev.minSev = true
  · rw [State.arrive_filtered hm hf] at h
    cases h
    refine ⟨.refl _, fun h => absurd h hm, fun _ _ => ⟨fun _ _ => rfl, fun h => ?_⟩, id⟩
    exact absurd hf (by rcases h with h | h <;> simp [h])
  have hpass {p : Prop} (h1 : evSev e.code = .info) (h2 : s.ev.minSev = true) : p := absurd ⟨h1, h2⟩ hf
  by_cases hr : (otherRecords s.ev.queue).length < 1008
  · rw [State.arrive_room hm hf hr] at h
    cases h
    exact ⟨.append_room hr, fun h => absurd h hm,
      fun _ _ => ⟨hpass, fun _ => ⟨fun _ => ⟨rfl, rfl⟩, fun h => absurd hr (Nat.not_lt.mpr h)⟩⟩, fun _ => one_le_nextSeq _⟩
  by_cases hi : evSev e.code = .info
  · rw [State.arrive_dropped hm hf hr hi] at h
    cases h
    rw [State.countDrop_ev]
    exact ⟨.refl _, fun h => absurd h hm,
      fun _ _ => ⟨hpass, fun _ => ⟨fun h => absurd h hr,
        fun _ => ⟨rfl, rfl, State.countDrop_intEventOvf s, fun _ => ⟨rfl, rfl⟩,
        fun h => absurd hi h, fun _ _ _ h => absurd hi h⟩⟩⟩, id⟩
  rcases newest_loose s.ev.queue with hnone | ⟨a, x, b, hq, hx, hb⟩
  · rw [State.arrive_refused hm hf hr hi hnone] at h
    cases h
    rw [State.countDrop_ev]
    refine ⟨.refl _, fun h => absurd h hm,
      fun _ _ => ⟨hpass, fun _ => ⟨fun h => absurd h hr,
        fun _ => ⟨rfl, rfl, State.countDrop_intEventOvf s, fun h => absurd h hi,
        fun _ _ => ⟨rfl, rfl⟩, fun a b x _ hq hs hk _ => absurd ⟨hs, by simp [hk]⟩ (hnone x ?_)⟩⟩⟩, id⟩
    simp [hq]
  · have h' := h
    rw [State.arrive_replaces hm hf hr hi hq hx hb] at h
    cases h
    have hev := s.replaced_ev e (a ++ b)
    refine ⟨by rw [hev, hq]; exact .replace hx, fun h => absurd h hm,
      fun _ _ => ⟨hpass, fun _ => ⟨fun h => absurd h hr,
        fun _ => ⟨by rw [hev], by rw [hev], State.countDrop_intEventOvf _,
        fun h => absurd h hi,
        fun _ hall => absurd hx (forall_loose_of_others hall x ?_), fun a' b' x' _ hq' hs hk hb' => ⟨rfl, ?_⟩⟩⟩⟩,
      fun _ => by rw [hev]; exact one_le_nextSeq _⟩
    · simp [hq]
    · rw [State.arrive_replaces hm hf hr hi hq' ⟨hs, by simp [hk]⟩ (forall_loose_of_others hb')] at h'
      rw [← (Prod.mk.inj h').2, State.replaced_ev]

end Sys2Proof.Machine

end

section
/-! The way of a mailbox row that is taken: answered at once, or accepted at its decision (R193, R195, R214). -/

namespace Sys2Proof.Machine

/-! ### State checks -/

theorem firstErr_eq_none {cs : List (Bool × Status × Nat)} : firstErr cs = none ↔ ∀ c ∈ cs, c.1 = true := by
  simp [firstErr]

/-- The checks of a row pass: a first one, and those of its list. -/
theorem orElse_firstErr {o : Option (Status × Nat)} {cs : List (Bool × Status × Nat)} (h : o = none)
    (hc : ∀ c ∈ cs, c.1 = true) : (o <|> firstErr cs) = none := by
  rw [h, none_orElse, firstErr_eq_none.mpr hc]

theorem imageErr_eq_none {u : State} {id : Nat} {ok : IState → Bool} {i : Image} (hi : u.image? id = some i)
    (ho : ok i.state = true) : u.imageErr id ok = none := by
  simp only [State.imageErr, hi, ho, if_true]

@[simp] theorem orPlan_none (p : Plan) : orPlan none p = .inr p := rfl

@[simp] theorem orPlan_some (e : Status × Nat) (p : Plan) : orPlan (some e) p = .inl e := rfl

/-! ### What an acceptance leaves -/

section
variable (u : State) (d : Desc) (g : Option Nat) (m : BitVec 8) (k : WorkKind) (p : Tb)

@[simp] theorem State.acceptNow_tb : (u.acceptNow d g m k p).tb = u.tb := State.accept_tb ..

@[simp] theorem State.acceptNow_gangLanes (n : Nat) : (u.acceptNow d g m k p).gangLanes n = u.gangLanes n :=
  State.gangLanes_congr (State.accept_chans ..) n

@[simp] theorem State.acceptNow_cluster (c : Nat) : (u.acceptNow d g m k p).cluster c = u.cluster c :=
  State.accept_cluster ..

@[simp] theorem State.acceptNow_chan (n : Nat) : (u.acceptNow d g m k p).chan n = u.chan n := State.accept_chan ..

@[simp] theorem State.acceptNow_die (n : Nat) : (u.acceptNow d g m k p).die n = u.die n := State.accept_die ..

@[simp] theorem State.acceptNow_trig (c : Nat) : (u.acceptNow d g m k p).trig c = u.trig c := by
  rw [State.trig, State.acceptNow_cluster, State.trig]

@[simp] theorem State.acceptNow_cap (c i : Nat) : (u.acceptNow d g m k p).cap c i = u.cap c i := by
  rw [State.cap, State.acceptNow_cluster, State.cap]

@[simp] theorem State.acceptNow_refDac (n j : Nat) : (u.acceptNow d g m k p).refDac n j = u.refDac n j := by
  rw [State.refDac, State.acceptNow, State.accept_die, State.refDac]

@[simp] theorem State.acceptNow_wholeGangs (c : Nat) (ls : BitVec 8) :
    (u.acceptNow d g m k p).wholeGangs c ls = u.wholeGangs c ls :=
  State.accept_wholeGangs ..

end

section
variable (s : State) {p : Nat → Chan → Bool} {f : Nat → Chan → Chan} (hf : ∀ n c, (f n c).st = c.st)
include hf

/-- A change of channels that leaves their status. -/
theorem State.updChans_st (n : Nat) : ((s.updChans p f).chan n).st = (s.chan n).st := by
  simp only [State.chan, State.updChans, List.getD_eq_getElem?_getD, List.getElem?_mapIdx]
  cases s.chans[n]? with
  | none => rfl
  | some c =>
    simp only [Option.map_some, Option.getD_some]
    split
    · exact hf n c
    · rfl

theorem State.wholeGangs_updChans (k : Nat) (m : BitVec 8) :
    (s.updChans p f).wholeGangs k m = s.wholeGangs k m := by
  simp only [State.wholeGangs, State.gangLanes, State.updChans_st s hf]

theorem State.updChans_connected (n : Nat) : (s.updChans p f).connected n = s.connected n := by
  rw [State.connected, State.updChans_st s hf, State.connected]

end

/-! ### Rows

A row hands its request on from the state `s` that it makes of the state `s₀` that it is given. -/

section
variable {s₀ s u : State} {t : Tb} {c : Instr} {d : Desc} {h : Hdr}

/-- The header of a command that is taken is the one that it was sent with. -/
theorem State.taken_header (ht : s.taken t c = some (d, u)) (hh : (descOf c).map (·.h) = some h) : d.h = h := by
  rw [State.taken_desc ht] at hh
  exact Option.some.inj hh

/-- A class 0 row that is taken runs its body and answers. -/
theorem exec_immediate {body : State → Answer × State} (hx : exec c s₀ = .next (s.immediate t c body))
    (ht : s.taken t c = some (d, u)) : exec c s₀ = .next ((body u).2.reply0 d (body u).1) :=
  hx.trans (congrArg _ (State.immediate_taken body ht))

variable {plan : State → (Status × Nat) ⊕ Plan} {go : State → Tb → Tb → List Grant → State}
  (hx : exec c s₀ = .next (s.request t c plan go)) (ht : s.taken t c = some (d, u))
include hx ht

/-- A row whose state checks stop it is answered at once. -/
theorem exec_checked {st : Status} {e : Nat} (hp : plan u = .inl (st, e)) :
    exec c s₀ = .next (u.single d true st e 0) :=
  hx.trans (congrArg _ (State.request_checked ht hp))

/-- A row that the weir grants takes its effect at the granted start. -/
theorem exec_granted {p : Plan} {start promise : Tb} {gs : List Grant} (hh : (descOf c).map (·.h) = some h)
    (hp : plan u = .inr p) (hr : p.refuse = none) (hs : u.slotsFor h)
    (hw : u.weirDecide p.tab p.ask = .accept start promise gs) :
    exec c s₀ = .next (go (u.accept d p.group p.dies p.kind start promise (p.arm start)) start promise gs) := by
  rw [hx, State.request_taken ht hp, State.decideWork_accept hr (State.taken_header ht hh ▸ hs) hw]

/-- A row that the weir grants and that arms nothing. -/
theorem exec_placed {g : Option Nat} {m : BitVec 8} {kind : WorkKind} {tab : List Resv} {ask : Ask}
    {refuse : Option Refuse} {start promise : Tb} {gs : List Grant} (hh : (descOf c).map (·.h) = some h)
    (hp : plan u = .inr { group := g, dies := m, kind, tab, refuse, ask }) (hr : refuse = none) (hs : u.slotsFor h)
    (hw : u.weirDecide tab ask = .accept start promise gs) :
    exec c s₀ = .next (go (u.accept d g m kind start promise 0) start promise gs) :=
  (exec_granted hx ht hh hp hr hs hw).trans rfl

/-- A timed row that passes its checks, finds its budgets free and keeps its DEADLINE takes its effect now. -/
theorem exec_timed {p : Plan} {promise : Tb} {short : Tb → Option Short} (hh : (descOf c).map (·.h) = some h)
    (hp : plan u = .inr p) (hr : p.refuse = none) (ha : p.ask = u.timed h promise short) (hf : short u.tb = none)
    (hs : u.slotsFor h) (hd : promiseKept h promise) :
    exec c s₀ = .next (go (u.accept d p.group p.dies p.kind u.tb promise (p.arm u.tb)) u.tb promise []) :=
  exec_granted hx ht hh hp hr hs (by rw [ha]; exact State.weirDecide_timed u _ _ _ _ hf hd)

/-- A timed row as most are: it arms nothing, so that its effect follows its acceptance. -/
theorem exec_now {g : Option Nat} {m : BitVec 8} {kind : WorkKind} {tab : List Resv} {promise : Tb}
    {short : Tb → Option Short} (hh : (descOf c).map (·.h) = some h)
    (hp : plan u = .inr { group := g, dies := m, kind, tab, ask := u.timed h promise short })
    (hf : short u.tb = none) (hs : u.slotsFor h) (hd : promiseKept h promise) :
    exec c s₀ = .next (go (u.acceptNow d g m kind promise) u.tb promise []) :=
  (exec_timed (promise := promise) (short := short) hx ht hh hp rfl rfl hf hs hd).trans rfl

/-- A timed row that asks for no budget. -/
theorem exec_waits {g : Option Nat} {m : BitVec 8} {kind : WorkKind} {promise : Tb}
    (hh : (descOf c).map (·.h) = some h)
    (hp : plan u = .inr { group := g, dies := m, kind, ask := u.timed h promise }) (hs : u.slotsFor h)
    (hd : promiseKept h promise) :
    exec c s₀ = .next (go (u.acceptNow d g m kind promise) u.tb promise []) :=
  exec_now (short := fun _ => none) (tab := []) hx ht hh hp rfl hs hd

/-- A row of the RPS that passes its checks is accepted behind what is queued for its cluster. -/
theorem exec_rps {k : Nat} {op : RpsOp} {changes : Bool} {extra : List (Nat × Rat)}
    (hh : (descOf c).map (·.h) = some h) (hp : plan u = .inr (u.rpsPlan h k op changes extra))
    (hf : extra = [] ∨ u.powerShort (dieOfCluster k) extra u.tb = none) (hs : u.slotsFor h)
    (hd : promiseKept h (u.bound (op.bound changes + u.queuedBound k))) :
    exec c s₀ = .next (go (u.acceptNow d (u.groupOf k) (dieBit (dieOfCluster k))
      (.rps (u.die (dieOfCluster k)).rps.nextId) (u.bound (op.bound changes + u.queuedBound k))) u.tb
      (u.bound (op.bound changes + u.queuedBound k)) []) := by
  refine (exec_timed (promise := u.bound (op.bound changes + u.queuedBound k))
    (short := fun c => if extra.isEmpty then none else u.powerShort (dieOfCluster k) extra c) hx ht hh hp rfl rfl ?_ hs
    hd).trans rfl
  rcases hf with rfl | hf
  · rfl
  · simp only [hf, ite_self]

/-- A row under the bound of 10 µs that passes its checks takes its effect at its acceptance. -/
theorem exec_plain {g : Option Nat} {m : BitVec 8} (hh : (descOf c).map (·.h) = some h)
    (hp : plan u = .inr (u.quickPlan h g m)) (hs : u.slotsFor h) (hd : promiseKept h (u.bound 10000)) :
    exec c s₀ = .next (go (u.acceptNow d g m .plain (u.bound 10000)) u.tb (u.bound 10000) []) :=
  (exec_timed (promise := u.bound 10000) (short := fun _ => none) hx ht hh hp rfl rfl rfl hs hd).trans rfl

end

/-- A row that takes its effect at its acceptance, under the bound of 10 µs, and is answered then. -/
theorem exec_quick {s₀ s u : State} {t : Tb} {c : Instr} {d : Desc} {h : Hdr} {plan : State → (Status × Nat) ⊕ Plan}
    {effect : State → BitVec 128 × State} {g : Option Nat} {m : BitVec 8}
    (hx : exec c s₀ = .next (s.requestNow t h c plan effect)) (ht : s.taken t c = some (d, u))
    (hh : (descOf c).map (·.h) = some h) (hp : plan u = .inr (u.quickPlan h g m)) (hs : u.slotsFor h)
    (hd : promiseKept h (u.bound 10000)) :
    exec c s₀ = .next ((effect (u.acceptNow d g m .plain (u.bound 10000))).2.finish h.tag .ok 0
      (effect (u.acceptNow d g m .plain (u.bound 10000))).1 0) :=
  (exec_plain hx ht hh hp hs hd).trans rfl

end Sys2Proof.Machine

end

section
/-! What class 0 commands answer (R193, R311; O1, O2). -/

namespace Sys2Proof.Machine


/-- Settles O1: each query's body, on the state in which it is taken. -/
theorem queriesAnswer : Obligations.QueriesAnswer := by
  refine ⟨fun s u t h d a => ⟨fun ht => (exec_immediate rfl ht).trans rfl, fun ht => (exec_immediate rfl ht).trans rfl,
    fun ht => (exec_immediate rfl ht).trans rfl, fun ht => (exec_immediate rfl ht).trans rfl⟩,
    fun s u t h d => ⟨fun n ht => ?channel, fun k i ht => ?capture, fun id ht => ?image, fun g tag ht => ?run,
      fun g ht => ?group, fun x ht => (exec_immediate rfl ht).trans rfl, fun ht => (exec_immediate rfl ht).trans rfl,
      fun ht => (exec_immediate rfl ht).trans rfl, fun x ht => (exec_immediate rfl ht).trans rfl⟩⟩
  case channel =>
    refine (exec_immediate rfl ht).trans ?_
    cases u.unavailable [n.toNat / 64] false with
    | none => rfl
    | some e => rfl
  case capture =>
    refine (exec_immediate rfl ht).trans ?_
    cases u.unavailable [dieOfCluster k.toNat] false with
    | none => rfl
    | some e => rfl
  case image =>
    refine (exec_immediate rfl ht).trans ?_
    cases u.image? id.toNat with
    | none => rfl
    | some i =>
      simp only [beq_iff_eq]
      rfl
  case run =>
    refine (exec_immediate rfl ht).trans ?_
    cases hr : u.namedRun g tag with
    | inl e => rfl
    | inr r =>
      cases hm : u.masterOf r.group with
      | none => simp only [hm]; rfl
      | some k => simp only [hm]; rfl
  case group =>
    refine (exec_immediate rfl ht).trans ?_
    cases hk : u.masterOf g.toNat with
    | none => simp only [hk]; rfl
    | some k => simp only [hk]; rfl

/-- REG_READ and REG_WRITE name no fault of an access that gave words. -/
theorem State.regDetail_ok {s : State} {a : Nat} {st : Status} (h : st = .ok ∨ st = .short) : s.regDetail a st = 0 := by
  rcases h with rfl | rfl
  · rfl
  · rfl

/-- Settles O2: each row's body on the state in which the command is taken; EVENT_CONFIG by the sign of life that it
may give. -/
theorem hostServiceCommands : Obligations.HostServiceCommands := by
  refine fun s u t h d => ⟨fun a ht => ?_, fun _ _ _ ht => (exec_immediate rfl ht).trans rfl, fun ht => ?_,
    fun a host count snap st ws n lat v ht hb => ?_, fun a count words st n v ht hb => ?_⟩
  · refine (exec_immediate rfl ht).trans ?_
    rfl
  · refine (exec_immediate rfl ht).trans ?_
    simp only [State.hostSign]
    cases u.ev.watch with
    | false => rfl
    | true =>
      cases hl : u.ev.hostLost with
      | false => simp [hl]
      | true => simp [hl]; rfl
  · refine (exec_immediate rfl ht).trans ?_
    simp only [hb]
    split
    · next hst =>
      rw [State.regDetail_ok hst]
      split
      · rfl
      · rfl
    · rfl
  · refine (exec_immediate rfl ht).trans ?_
    simp only [hb]
    split
    · next hst =>
      rw [State.regDetail_ok hst]
    · rfl

end Sys2Proof.Machine

end

section
/-! What channel rows do when they are taken (O3 to O5). -/

namespace Sys2Proof.Machine

/-- CHANNEL_CONFIG leaves the status of a channel. -/
theorem Chan.configure_st (c : Chan) (apply cfg sel : BitVec 8) (avg div : BitVec 16) (tb : Tb) :
    (c.configure apply cfg sel avg div tb).st = c.st := by
  simp only [Chan.configure, apply_ite Chan.st, ite_self]

/-- Settles O3: the state checks of each row pass, so the plan is the row's bound, and its effect is the request to
the RPS. -/
theorem rpsCommandsAreQueued : Obligations.RpsCommandsAreQueued := by
  refine ⟨fun s u t h d k lanes mode range force levels m ht hfree hot hwatch hopen hm hpow hs hd => ?connect,
    fun s u t h d k lanes => ⟨fun ht hfree hs ns hns hd => ?disconnect, fun range ht hfree hpow hs hd => ?range,
      fun l0 m range ht ls op hform hdis hfree hstill hs hd => ?gang,
      fun apply mode cfg sel avg div m ht hs hm => ⟨fun hap hfree hcon hpow hd => ?mode, fun hap hfree hd => ?config⟩⟩⟩
  case connect =>
    have hchecks : (u.lanesFree k.toNat lanes true <|> firstErr
        [((lanesOf k (u.wholeGangs k.toNat lanes)).all fun n =>
          !((u.chan n).st.otDrvLive || (u.chan n).st.otPmuLive), .badState, dOtActive),
        ((u.die (dieOfCluster k.toNat)).thm.watchMs != 0, .badState, dState),
        ((lanesOf k lanes).all fun n => !u.connected n, .badState, dState)]) = none :=
      orElse_firstErr hfree (by simpa using ⟨hot, hwatch, hopen⟩)
    refine (exec_rps (k := k.toNat) (op := .connect m (range.setWidth 3) { force := force.setWidth 18, levels })
      (changes := false) rfl ht rfl ?_ (.inr hpow) hs hd).trans ?_
    · simp only [hchecks, hm, Option.getD_some]
    · simp only [hm, Option.getD_some, State.acceptNow_wholeGangs]
      rfl
  case disconnect =>
    subst hns
    refine (exec_rps (k := k.toNat) (op := .disconnect) (extra := [])
      (changes := u.stillChangesRange k.toNat (u.wholeGangs k.toNat lanes)) rfl ht rfl ?_ (.inl rfl) hs hd).trans ?_
    · simp only [hfree]
    · simp only [State.acceptNow_wholeGangs]
      rfl
  case range =>
    refine (exec_rps (k := k.toNat) (op := .range (range.setWidth 3)) (changes := false) rfl ht rfl ?_ (.inr hpow) hs
      hd).trans ?_
    · simp only [hfree]
    · simp only [State.acceptNow_wholeGangs]
      rfl
  case gang =>
    have hls : (if m != 0 then maskOf 8 ((List.range m.toNat).map (· + l0.toNat))
        else maskOf 8 (u.gangLanes (chanOf k.toNat l0.toNat))) = ls := by
      by_cases hm : m = 0
      · rw [(hdis hm).1, hm]; rfl
      · rw [(hform hm).1, if_pos (bne_iff_ne.mpr hm)]
    have hop : (if m != 0 then RpsOp.gangForm l0.toNat m.toNat (range.setWidth 3) else .gangDissolve l0.toNat) = op := by
      by_cases hm : m = 0
      · rw [(hdis hm).2, hm]; rfl
      · rw [(hform hm).2.1, if_pos (bne_iff_ne.mpr hm)]
    have hbound : op.bound false = 62000 := by
      rw [← hop]
      split
      · rfl
      · rfl
    have hchecks : (u.lanesFree k.toNat ls true <|> firstErr
        [((lanesOf k ls).all fun n => (u.chan n).st.still && !u.connected n, .badState, dState),
        (!(m != 0) || (lanesOf k ls).all fun n =>
          !((u.chan n).st.gangMember || (u.chan n).st.gangMeas) &&
            !((u.futureChan n).st.gangMember || (u.futureChan n).st.gangMeas), .badState, dState)]) = none := by
      refine orElse_firstErr hfree (List.forall_mem_cons.mpr ⟨?_, List.forall_mem_cons.mpr ⟨?_, by simp⟩⟩)
      · simpa using hstill
      · by_cases hm : m = 0
        · simp [hm]
        · have hlone := (hform hm).2.2
          simp only [List.all_eq_true, Bool.or_eq_true, Bool.and_eq_true, Bool.not_eq_true']
          exact .inr fun n hn => hlone n hn
    refine (exec_rps (k := k.toNat) (op := op) (changes := false) (extra := []) rfl ht rfl ?_ (.inl rfl) hs
      (hbound ▸ hd)).trans ?_
    · simp only [hls, hop, hchecks]
    · simp only [State.acceptNow_gangLanes, hls, hop, hbound]
  case mode =>
    refine (exec_rps (k := k.toNat) (op := .config m) (changes := false) rfl ht rfl ?_ (.inr hpow) hs hd).trans ?_
    · simp only [hap]
      rw [orElse_firstErr hfree (by simpa using hcon)]
      simp only [hm, Option.getD_some, if_true]
    · simp only [hap, hm, Option.getD_some, if_true, State.acceptNow_tb]
      rw [State.wholeGangs_updChans _ fun _ c => c.configure_st .., State.acceptNow_wholeGangs]
      rfl
  case config =>
    refine (exec_plain (g := u.groupOf k.toNat) (m := dieBit (dieOfCluster k.toNat)) rfl ht rfl ?_ hs hd).trans ?_
    · simp only [hap]
      rw [orElse_firstErr hfree (by simp)]
      rfl
    · simp only [hap, State.acceptNow_tb]
      rfl

/-- Settles O4: the checks pass; accepting leaves the clock and the lanes that the effect reads as they were. -/
theorem pinCommandsAreAccepted : Obligations.PinCommandsAreAccepted := by
  refine fun s u t h d => ⟨fun k lanes kinds force levels ht hfree hpow hs hd => ?force,
    fun k lanes n ht hav hs hn hd => ?measure, fun k guard ht hav hheld hs hd => ?guard,
    fun x j code tick ht hav hs hd v hv => ?refDac⟩
  case force =>
    refine (exec_now rfl ht rfl (by simp only [hfree]; rfl) hpow hs hd).trans ?_
    simp only [State.acceptNow_tb]
  case measure =>
    subst hn
    exact exec_now (short := fun _ => none) rfl ht rfl (by simp only [hav]; rfl) rfl hs hd
  case guard =>
    refine (exec_quick (g := u.groupOf k.toNat) (m := dieBit (dieOfCluster k.toNat)) rfl ht rfl ?_ hs hd).trans rfl
    simp only [hav, none_orElse]
    rw [firstErr_eq_none.mpr (by simpa using hheld)]
    rfl
  case refDac =>
    subst hv
    refine (exec_now (short := fun _ => none) rfl ht rfl (by simp only [hav]; rfl) rfl hs hd).trans ?_
    simp only [State.refSet, State.acceptNow_tb, State.acceptNow_refDac]

/-- Settles O5: the first check that fails is the row's answer, by `exec_checked`. -/
theorem channelChecksAnswer : Obligations.ChannelChecksAnswer := by
  refine fun s u t h d k lanes mode range st e => ⟨fun force levels ht he => ?_, fun ht he => ?_, fun ht he => ?_,
    fun kinds force levels ht he => ?_, fun ht he => ?_⟩
  · exact exec_checked rfl ht (by simp only [he, some_orElse])
  · exact exec_checked rfl ht (by simp only [he])
  · exact exec_checked rfl ht (by simp only [he])
  · exact exec_checked rfl ht (by simp only [he])
  · exact exec_checked rfl ht (by simp only [he])

end Sys2Proof.Machine

end

section
/-! Settings that take effect at their acceptance (R214; O6). -/

namespace Sys2Proof.Machine

/-- What CAPTURE_CONFIG makes of stream `i` of cluster `k`. -/
def State.captureSetting (u : State) (k i mode sram : BitVec 8) (chunk pre post : BitVec 16) (base : BitVec 64)
    (size : BitVec 32) : Cap :=
  if mode = 0 then { Cap.reset with dropped := (u.cap k.toNat i.toNat).dropped }
  else
    { Cap.reset with
      mode := mode.toNat, sramSize := sram.toNat, chunk := chunk.toNat, pre := pre.toNat, post := post.toNat
      ringBase := base.toNat, ringSize := size.toNat, dropped := (u.cap k.toNat i.toNat).dropped
      rate := u.streamRate k.toNat i.toNat }

section
variable (u : State) (d : Desc) (g : Option Nat) (m : BitVec 8) (k : WorkKind) (p : Tb)

theorem State.acceptNow_streamRate (c i : Nat) :
    (u.acceptNow d g m k p).streamRate c i = u.streamRate c i := by
  simp only [State.streamRate, State.streamIval, State.ivalOf, State.acceptNow_chan]

theorem State.acceptNow_captureSetting (c i mode sram : BitVec 8) (chunk pre post : BitVec 16) (base : BitVec 64)
    (size : BitVec 32) :
    (u.acceptNow d g m k p).captureSetting c i mode sram chunk pre post base size =
      u.captureSetting c i mode sram chunk pre post base size := by
  simp only [State.captureSetting, State.acceptNow_cap, State.acceptNow_streamRate]

theorem State.acceptNow_sourceLevel (c : Nat) (x : Trig) :
    (u.acceptNow d g m k p).sourceLevel c x = u.sourceLevel c x := by
  simp only [State.sourceLevel, State.red, State.seq, State.acceptNow_cluster]
  simp only [State.acceptNow, State.accept_ripple]
  rfl

/-- An acceptance counts in the weir and leaves its horizons. -/
theorem State.acceptNow_horizonRun : (u.acceptNow d g m k p).weir.horizonRun = u.weir.horizonRun :=
  congrArg (·.weir.horizonRun) (State.mute_accept ..)

theorem State.acceptNow_horizonBulk : (u.acceptNow d g m k p).weir.horizonBulk = u.weir.horizonBulk :=
  congrArg (·.weir.horizonBulk) (State.mute_accept ..)

end

/-- Settles O6: accepting moves none of the settings that a row reads, so its effect is that on the state before it.
-/
theorem settingsTakeEffect : Obligations.SettingsTakeEffect := by
  refine ⟨fun s u t h d k v hv hav hs hd => ⟨fun policy ht hheld => ?failLog, fun lanes ht hheld => ?failClear,
    fun i off c ht hmode hrel => ?release, fun i mode sram chunk pre post base size c ht hact hst hoff hon => ?capture,
    fun source cond pol sel lane hi lo g ht hst hg => ?trig⟩,
    fun s u t h d hs => ⟨fun run bulk ht hd => ?weir, fun role lat ht hd hspan => ?link,
      fun g master flags slot mask ht hd hav hruns hrest => ?group,
      fun x apply watch warn throttle shut grace ext a b c ht hd hav hconn => ?thermal,
      fun id i ht hd hi hl hv hr himg => ?unload, fun ht hd hrole hw hruns href hrest new v hnew hv => ?align⟩⟩
  case failLog =>
    subst hv
    refine (exec_quick (g := u.groupOf k.toNat) (m := dieBit (dieOfCluster k.toNat)) rfl ht rfl ?_ hs hd).trans rfl
    rw [orElse_firstErr hav (by simp [hheld]), orPlan_none]
  case failClear =>
    subst hv
    refine (exec_quick (g := u.groupOf k.toNat) (m := dieBit (dieOfCluster k.toNat)) rfl ht rfl ?_ hs hd).trans rfl
    rw [orElse_firstErr hav (by simp [hheld]), orPlan_none]
  case release =>
    subst hv
    refine (exec_quick (g := u.groupOf k.toNat) (m := dieBit (dieOfCluster k.toNat)) rfl ht rfl ?_ hs hd).trans rfl
    rw [orElse_firstErr hav (by simp [hmode, hrel]), orPlan_none]
  case capture =>
    subst hv
    have hchecks : (u.unavailable [dieOfCluster k.toNat] true <|>
        (if mode = 0 then none else u.noDram [dieOfCluster k.toNat]) <|> firstErr
          [(!(u.cap k.toNat i.toNat).active, .badState, dState),
          ((u.trig k.toNat).state == .idle || (u.trig k.toNat).state == .done, .badState, dState)]) = none := by
      rw [hav, none_orElse]
      refine orElse_firstErr ?_ (by simp [hact, hst])
      by_cases hm : mode = 0
      · exact if_pos hm
      · rw [if_neg hm, (hon hm).2.1]
    have hset : u.captureSetting k i mode sram chunk pre post base size = c := by
      by_cases hm : mode = 0
      · exact (if_pos hm).trans (hoff hm).symm
      · exact (if_neg hm).trans (hon hm).1.symm
    refine (exec_now (g := u.groupOf k.toNat) (m := dieBit (dieOfCluster k.toNat)) (kind := .plain) (tab := u.table)
      (short := fun x => if mode = 0 then none
        else (u.updCap k.toNat i.toNat fun _ => u.captureSetting k i mode sram chunk pre post base size).shortDram
          (u.updCap k.toNat i.toNat fun _ => u.captureSetting k i mode sram chunk pre post base size).table
          [dieOfCluster k.toNat] x none) rfl ht rfl ?_ ?_ hs hd).trans ?_
    · simp only [hchecks]
      rfl
    · rw [hset]
      by_cases hm : mode = 0
      · exact if_pos hm
      · exact (if_neg hm).trans (hon hm).2.2
    · rw [← hset, ← State.acceptNow_captureSetting]
      rfl
  case trig =>
    subst hv hg
    refine (exec_quick (g := u.groupOf k.toNat) (m := dieBit (dieOfCluster k.toNat)) rfl ht rfl ?_ hs hd).trans ?_
    · rw [orElse_firstErr hav (by simpa [Trig.atRest] using hst), orPlan_none]
    · simp only [State.acceptNow_trig, State.acceptNow_sourceLevel]
  case weir =>
    refine (exec_quick (g := none) (m := 0) rfl ht rfl rfl hs hd).trans ?_
    simp only [State.acceptNow_horizonRun, State.acceptNow_horizonBulk]
  case link =>
    refine (exec_quick (g := none) (m := 0) rfl ht rfl ?_ hs hd).trans ?_
    · rw [firstErr_eq_none.mpr (by simpa using hspan), orPlan_none]
    · by_cases hr : role = 0
      · simp only [hr, if_true]
        rfl
      · simp only [hr, if_false]
  case group =>
    refine (exec_quick (g := some g.toNat) (m := maskOf 8 ((bitsOf mask).map dieOfCluster).eraseDups) rfl ht rfl ?_ hs
      hd).trans ?_
    · simp only
      rw [orElse_firstErr hav ?_, orPlan_none]
      refine List.forall_mem_cons.mpr ⟨?_, List.forall_mem_cons.mpr ⟨List.all_eq_true.mpr hrest, by simp⟩⟩
      exact List.all_eq_true.mpr fun o ho => by rw [hruns o ho]; rfl
    · simp only [State.acceptNow, State.accept_groups]
  case thermal =>
    refine (exec_now (tab := []) (short := fun _ => none) rfl ht rfl ?_ rfl hs hd).trans rfl
    rw [orElse_firstErr hav (List.forall_mem_singleton.mpr ?_), orPlan_none]
    simp only [Bool.or_eq_true, Bool.not_eq_true', Bool.and_eq_false_iff, List.all_eq_true, List.mem_range,
      beq_eq_false_iff_ne]
    by_cases ha : hasBit apply 0 = true
    · by_cases hw : watch = 0
      · exact .inr (hconn ⟨ha, hw⟩)
      · exact .inl (.inr hw)
    · exact .inl (.inl (by simpa using ha))
  case unload =>
    refine (exec_now (g := none) (m := 0) (kind := .plain) (tab := []) (short := fun _ => none)
      rfl ht rfl ?_ rfl hs hd).trans ?_
    · rw [orElse_firstErr (imageErr_eq_none hi (by simp [hl, hv])) (by simpa [himg] using hr), orPlan_none]
    · simp only [State.acceptNow, State.accept_images, State.accept_results]
  case align =>
    subst hv hnew
    refine (exec_quick (g := none) (m := 0) rfl ht rfl ?_ hs hd).trans ?_
    · rw [firstErr_eq_none.mpr (by simpa [hrole, hruns] using ⟨⟨hw, href⟩, hrest⟩), orPlan_none]
    · simp only [State.acceptNow, State.accept_tb, State.accept_link, State.updLink_dies, State.accept_dies]

end Sys2Proof.Machine

end

section
/-! Commands that wait for their tick or for a unit (O7). -/

namespace Sys2Proof.Machine

section
variable {u : State} (d : Desc) (g : Option Nat) (m : BitVec 8) (k : WorkKind) (p : Tb)

/-- CAPTURE_START and CAPTURE_STOP pass their checks. -/
theorem State.capPlan_passes {h : Hdr} {c : Nat} {streams : BitVec 16} {tick : Tb} {ok : Cap → Bool} {kind : WorkKind}
    (hav : u.unavailable [dieOfCluster c] true = none) (hok : ∀ i ∈ bitsOf streams, ok (u.cap c i) = true)
    (ht : u.tb + 20000 < tick) :
    u.capPlan h c streams tick ok kind =
      .inr { group := u.groupOf c, dies := dieBit (dieOfCluster c), kind
             ask := u.timed h (tick + u.maxIval c streams + 1000) } := by
  rw [State.capPlan, orElse_firstErr hav ?_, orPlan_none]
  exact List.forall_mem_cons.mpr ⟨List.all_eq_true.mpr hok, List.forall_mem_singleton.mpr (decide_eq_true ht)⟩

theorem State.acceptNow_armed (kind id : Nat) : (u.acceptNow d g m k p).armed kind id = u.armed kind id := by
  simp only [State.armed, State.membersOf, State.acceptNow, State.accept_group]

theorem State.acceptNow_postWindow (ks : List Nat) :
    (u.acceptNow d g m k p).postWindow ks = u.postWindow ks := by
  simp only [State.postWindow, State.streamIval, State.ivalOf, State.acceptNow_cap, State.acceptNow_chan]

end

/-- Settles O7: the plan of a tick to come is its promise, and what accepting leaves alone decides the rest of each
row. -/
theorem commandsWaitForTicksAndUnits : Obligations.CommandsWaitForTicksAndUnits := by
  refine ⟨fun s u t h d tick hs => ⟨fun k lanes ht hav htick hd => ?clear, fun k streams ht hav htick hok hd => ?start,
    fun k streams ht hav htick hok hd => ?stop, fun kind id opts max hold ks ht hks huse hav hrest htick hd => ?arm,
    fun kind id ks ht hks hav htick hd => ?disarm, fun mask ht hav hfree htick hd => ?sync⟩,
    fun s u t h d hs => ⟨fun x a ht hav hfree hd => ?pll, fun x sensor ht hav hext hd => ?read,
      fun x ht hav hoff hd => ?thermal, fun id i v ht hi hav hdram hd hv => ?verify⟩⟩
  case clear =>
    refine (exec_waits rfl ht rfl (by rw [hav]; rfl) hs hd).trans ?_
    rw [State.acceptNow_tb, if_neg (Nat.not_lt.mpr htick)]
  case start =>
    refine exec_waits rfl ht rfl (State.capPlan_passes hav (fun i hi => ?_) htick) hs hd
    obtain ⟨hmode, hact, hstart⟩ := hok i hi
    simp [hmode, hact, hstart]
  case stop =>
    refine exec_waits rfl ht rfl (State.capPlan_passes hav (fun i hi => ?_) htick) hs hd
    obtain ⟨hact, hstop⟩ := hok i hi
    simp [hact, hstop]
  case arm =>
    subst hks
    refine (exec_waits (g := if kind = 0 then some id.toNat else none)
      (m := maskOf 8 ((u.armed kind.toNat id.toNat).map dieOfCluster).eraseDups)
      (kind := .trigArm kind.toNat id.toNat tick.toNat) rfl ht rfl ?_ hs hd).trans ?_
    · simp only
      rw [firstErr_eq_none.mpr (by simpa using huse), none_orElse, orElse_firstErr hav ?_, orPlan_none]
      simpa [State.armPending] using ⟨hrest, htick⟩
    · simp only [State.acceptNow_armed, State.acceptNow_postWindow]
  case disarm =>
    subst hks
    refine (exec_waits (g := if kind = 0 then some id.toNat else none)
      (m := maskOf 8 ((u.armed kind.toNat id.toNat).map dieOfCluster).eraseDups)
      (kind := .trigDisarm kind.toNat id.toNat tick.toNat) rfl ht rfl ?_ hs hd).trans ?_
    · simp only
      rw [orElse_firstErr hav (List.forall_mem_singleton.mpr (decide_eq_true htick))]
      rfl
    · simp only [State.acceptNow_armed]
  case sync =>
    refine exec_waits rfl ht rfl ?_ hs hd
    rw [orElse_firstErr hav ?_]
    · rfl
    · simpa using ⟨hfree, htick⟩
  case pll =>
    refine (exec_waits (g := none) (m := dieBit x.toNat) (kind := .pllSet x.toNat) rfl ht rfl ?_ hs hd).trans ?_
    · rw [orElse_firstErr hav (by simp [hfree])]
      rfl
    · simp only [State.acceptNow_tb]
  case read =>
    refine (exec_waits (g := none) (m := dieBit x.toNat) (kind := .thermal x.toNat sensor.toNat) rfl ht rfl ?_ hs hd).trans ?_
    · rw [orElse_firstErr hav (by simpa using hext)]
      rfl
    · simp only [State.acceptNow_tb]
  case thermal =>
    refine (exec_waits (g := none) (m := dieBit x.toNat) (kind := .thermalClear x.toNat) rfl ht rfl ?_ hs hd).trans ?_
    · rw [orElse_firstErr hav (by simp [hoff])]
      rfl
    · simp only [State.acceptNow_tb]
  case verify =>
    subst hv
    have himg {w : State} (hw : w.images = u.images) : w.image? id.toNat = some i := by
      rw [← hi, State.image?, State.image?, hw]
    have hrow (hst : (i.state == .loaded || i.state == .verified) = true) :=
      exec_waits (g := none) (m := maskOf 8 (u.imgDies id.toNat)) (kind := .verify id.toNat) (s := s) rfl ht rfl (by
        simp only
        rw [imageErr_eq_none hi hst, none_orElse, hav, none_orElse, hdram]
        rfl) hs hd
    constructor
    · intro hst
      refine (hrow (by simp [hst])).trans ?_
      simp only [himg (State.accept_images ..), State.acceptNow]
      simp [hst]
    · intro hst
      refine (hrow (by simp [hst])).trans ?_
      simp only [himg (State.accept_images ..), State.acceptNow]
      simp [hst]

end Sys2Proof.Machine

end

section
/-! Commands that the weir places: transfers (O8) and runs (O9). -/

namespace Sys2Proof.Machine

/-- Settles O8: the weir's decision is given, so each row is its effect at the granted start. -/
theorem transfersAreGranted : Obligations.TransfersAreGranted := by
  refine fun s u t h d host start promise gs hs =>
    ⟨fun size units ds w v places ht hds hav hdram hslot hw hacc hplace => ?load,
      fun k i len off ht hav hdram hmode hspan hdma hw => ?capture,
      fun k first count ht hav hdram hdma hw => ?failLog,
      fun g hist first count runS x asks src v ht hx hasks hav hdma hw hsrc hacc => ?results⟩
  case load =>
    have hload : loadDies units = ds := by
      rw [hds, loadDies]
      exact List.filter_congr fun d _ => by rw [Bool.eq_iff_iff, bne_iff_ne, decide_eq_true_eq]
    subst hacc
    refine (exec_placed (g := none) (m := maskOf 8 ds) (kind := .bulk) (tab := u.table) rfl ht rfl ?_ hslot hs hw).trans ?_
    · simp only [hload, hav, hdram, none_orElse, orPlan_none, List.isEmpty_iff]
    · simp only [hload, ← hplace]
      rfl
  case capture =>
    refine exec_placed rfl ht rfl ?_ hdma hs hw
    simp only
    rw [hav, none_orElse, orElse_firstErr hdram (by simpa using ⟨hmode, hspan⟩)]
    rfl
  case failLog =>
    refine exec_placed rfl ht rfl ?_ hdma hs hw
    rw [hav, none_orElse, hdram]
    rfl
  case results =>
    subst hasks hsrc hacc
    refine (exec_placed (g := some g.toNat) (m :=
      maskOf 8 ((u.resultAsks x (hasBit hist 0) first.toNat count.toNat).map (·.die)))
      (kind := .bulk) (tab := u.table) rfl ht rfl ?_ hdma hs hw).trans ?_
    · simp only [hx, hav]
      rfl
    · simp only [List.isEmpty_iff]

section
variable (u : State) (d : Desc) (g : Option Nat) (m : BitVec 8) (k : WorkKind) (p : Tb)

theorem State.acceptNow_namedRun (x : BitVec 8) (tag : BitVec 16) :
    (u.acceptNow d g m k p).namedRun x tag = u.namedRun x tag := by
  simp only [State.namedRun, State.acceptNow, State.accept_runs]

theorem State.acceptNow_imgRd (id : Nat) : (u.acceptNow d g m k p).imgRd id = u.imgRd id := by
  simp only [State.imgRd, State.image?, State.acceptNow, State.accept_images]

theorem State.acceptNow_runEnding (r : Run) : (u.acceptNow d g m k p).runEnding r = u.runEnding r := by
  simp only [State.runEnding, State.runDone, State.runClusters, State.seq, State.acceptNow_imgRd, State.acceptNow_cluster]

end

/-- Settles O9: the checks of R197 pass one after the other, and the run is recorded as the weir granted it. -/
theorem runsAreAdmitted : Obligations.RunsAreAdmitted := by
  refine fun s u t h d g hs =>
    ⟨fun id mode at_ i hd start promise gs x ht hi hst hhd hav hdram hmem hmask hstart hspan hpatch hcal hlen hw hx v hv =>
      ?start, fun tag r v ht hr hd hv => ?stop, fun tag r v ht hr hd hv => ?abort⟩
  case start =>
    subst hhd hx hv
    have hsort : (if (imgHdr i.rd).allowUncal then none
        else ((imgChannels i.rd).mergeSort (· ≤ ·)).find? fun n => !u.calValid n) = none := by
      rcases hcal with hc | hc
      · exact if_pos hc
      · rw [List.find?_eq_none.mpr (by simpa using hc), ite_self]
    have himg : (u.accept d (some g.toNat) (imgHdr i.rd).dieMask .run start promise
        (start - startLatency (imgLoads i.rd))).imgRd id.toNat = i.rd := by
      rw [State.imgRd, State.image?, State.accept_images, ← State.image?, hi]
    refine (exec_granted (p := { group := some g.toNat, dies := (imgHdr i.rd).dieMask, kind := .run, tab := u.table
                                 ask := u.runAsk h i.rd g.toNat (mode == 1) at_.toNat
                                 arm := fun c => c - startLatency (imgLoads i.rd) }) rfl ht rfl ?_ rfl hs hw).trans ?_
    · simp only [hi]
      rw [hav, none_orElse, firstErr_eq_none.mpr (by simp [hst]), none_orElse, hdram, none_orElse,
        firstErr_eq_none.mpr (by simpa [← hmask] using hmem), none_orElse, orElse_firstErr hstart (by simp [hspan, hpatch])]
      simp only [hsort, if_neg (Nat.not_le.mpr hlen)]
    · simp only [himg]
      refine congrArg (fun ks => Host.Outcome.next (State.refreshHolds _ _ ks)) ?_
      exact congrArg (fun r => bitsOf (imgHdr r).clusterMask) himg
  case stop =>
    subst hv
    refine (exec_waits (g := some g.toNat) (m := (imgHdr (u.imgRd r.image)).dieMask)
      (kind := if u.runEnding r then .endingOf r.tag else .stopOf r.tag) rfl ht rfl ?_ hs hd).trans ?_
    · simp only [State.runPlan, hr]
    · simp only [State.acceptNow_namedRun, hr, State.acceptNow_runEnding, State.acceptNow_tb]
      refine congrArg _ (ite_congr rfl (fun _ => rfl) fun _ => congrArg _ (funext fun r => ?_))
      cases r.stopTb with
      | none => rfl
      | some x => rfl
  case abort =>
    subst hv
    refine (exec_waits (g := some g.toNat) (m := (imgHdr (u.imgRd r.image)).dieMask)
      (kind := if u.runEnding r then .endingOf r.tag else .abortOf r.tag) rfl ht rfl ?_ hs hd).trans ?_
    · simp only [State.runPlan, hr]
    · simp only [State.acceptNow_namedRun, hr, State.acceptNow_runEnding]

end Sys2Proof.Machine

end

section
/-! Class 3 rows: they wait for what they use, or start (R217; O10 to O12). -/

namespace Sys2Proof.Machine

/-- Work of class 3 that needs not wait starts at its acceptance. -/
theorem State.start3_acceptNow (u : State) (d : Desc) (g : Option Nat) (m : BitVec 8) (res : BitVec 9) (b : Nat)
    (w : Option Instr) (p : Tb) (c : Instr) :
    (u.acceptNow d g m (.class3 res b w) p).start3 c =
      match w with
      | none => (u.acceptNow d g m (.class3 res b none) p).run3 c
      | some _ => u.acceptNow d g m (.class3 res b w) p := by
  have hlast : (u.acceptNow d g m (.class3 res b w) p).works.getLast?.map Work.kind = some (.class3 res b w) := by
    simp [State.acceptNow, State.accept]
  unfold State.start3
  rw [hlast]
  cases w with
  | none => rfl
  | some c => rfl

section
variable {s₀ s u : State} {t : Tb} {c : Instr} {d : Desc} {h : Hdr} {res : BitVec 9} {dies : BitVec 8}
  {v : Option Instr → State}

/-- A class 3 row whose checks pass starts, or waits under the kind that its plan gives it. -/
theorem exec_start3 {plan : State → (Status × Nat) ⊕ Plan} {b : Nat} {waits : Bool}
    (hx : exec c s₀ = .next (s.request t c plan fun s _ _ _ => s.start3 c)) (ht : s.taken t c = some (d, u))
    (hh : (descOf c).map (·.h) = some h)
    (hp : plan u = .inr { u.plan3 h c res b dies with kind := .class3 res b (if waits then some c else none) })
    (hs : u.slotsFor h) (hb : u.bgSlot = none) (hd : promiseKept h (u.tb + u.ahead3 res + b))
    (hv : ∀ w, v w = u.acceptNow d none dies (.class3 res b w) (u.tb + u.ahead3 res + b)) :
    exec c s₀ = .next (if waits then v (some c) else (v none).run3 c) := by
  refine (exec_timed (short := fun _ => none) hx ht hh hp hb rfl rfl hs hd).trans (congrArg _ ?_)
  refine (State.start3_acceptNow u d none dies res b _ _ c).trans ?_
  rw [hv, hv]
  cases waits with
  | true => rfl
  | false => rfl

/-- A class 3 row whose checks pass waits where something before it uses what it needs, and starts else. -/
theorem exec_class3 {err : State → Option (Status × Nat)} {bound : State → Nat} {b : Nat}
    (hx : exec c s₀ = .next (s.class3 t h c err res bound dies)) (ht : s.taken t c = some (d, u))
    (hh : (descOf c).map (·.h) = some h) (he : err u = none) (hbound : bound u = b) (hs : u.slotsFor h)
    (hb : u.bgSlot = none) (hd : promiseKept h (u.tb + u.ahead3 res + b))
    (hv : ∀ w, v w = u.acceptNow d none dies (.class3 res b w) (u.tb + u.ahead3 res + b)) :
    exec c s₀ = .next (if u.busy3 res then v (some c) else (v none).run3 c) := by
  subst hbound
  exact exec_start3 hx ht hh (by rw [he]; rfl) hs hb hd hv

end

section
variable (u : State) (d : Desc) (g : Option Nat) (m : BitVec 8) (k : WorkKind) (p : Tb)

@[simp] theorem State.acceptNow_connected (n : Nat) : (u.acceptNow d g m k p).connected n = u.connected n := by
  rw [State.connected, State.acceptNow_chan, State.connected]

@[simp] theorem State.acceptNow_held (n : Nat) : (u.acceptNow d g m k p).held n = u.held n := by
  rw [State.held, State.acceptNow, State.accept_runs, State.held]

theorem State.acceptNow_nearTemp (a x : Nat) : (u.acceptNow d g m k p).nearTemp a x = u.nearTemp a x := by
  unfold State.nearTemp State.calRd
  simp only [State.acceptNow_die]

theorem State.acceptNow_cal : (u.acceptNow d g m k p).cal = u.cal := State.accept_cal ..

theorem State.acceptNow_dieMask : (u.acceptNow d g m k p).dieMask = u.dieMask := by
  unfold State.dieMask State.dieNums
  simp only [State.acceptNow_die]
  rw [State.acceptNow, State.accept_model]

theorem State.acceptNow_calHeader (n : Nat) (b : List Byte) :
    (u.acceptNow d g m k p).calHeader n b = u.calHeader n b := by
  unfold State.calHeader
  rw [State.acceptNow_dieMask, State.acceptNow, State.accept_otp]

end

theorem State.holdAna_connected (u : State) (d n : Nat) : (u.holdAna d).connected n = u.connected n := by
  unfold State.holdAna
  exact State.updChans_connected u (by intros; rfl) n

/-- The checks of CAL_WRITE pass where nothing holds the channels of its blocks or their RPS. -/
theorem State.calWriteErr_eq_none {u : State} {x off len : Nat}
    (hblk : ∀ i ∈ blocksOf off len, u.held (64 * x + i) = false ∧ (u.chan (64 * x + i)).st.rpsBusy = false)
    (hhdr : off < 0x100 → u.dieHeld x = false) : u.calWriteErr x off len = none := by
  unfold State.calWriteErr
  simp only [firstErr_eq_none, List.forall_mem_cons, List.all_map, List.all_eq_true, Bool.and_eq_true, Bool.or_eq_true,
    decide_eq_true_eq, Function.comp, Bool.not_eq_true']
  refine ⟨⟨fun i hi => (hblk i hi).1, ?_⟩, fun i hi => (hblk i hi).2, by simp⟩
  by_cases ho : 0x100 ≤ off
  · exact .inl ho
  · exact .inr (hhdr (by omega))

theorem toNat_eq_48 (x : BitVec 16) : (x.toNat = 48) = (x = 48) := by bv_omega

theorem toNat_beq_32 (x : BitVec 16) : (x.toNat == 32) = (x == 32) := by
  rw [Bool.eq_iff_iff, beq_iff_eq, beq_iff_eq]
  bv_omega

/-- Settles O10: a command of class 3 waits or runs (`exec_class3`), which leaves what the row does when it is served.
-/
theorem calibrationCommandsBegin : Obligations.CalibrationCommandsBegin := by
  refine ⟨fun s u t h d x off len host bound v hs hb hbound hd hv hav => 
      ⟨fun ht => ?read, fun data ht hblk hhdr => ?write⟩,
    fun s u t h d hs hb => ⟨fun step arg meas x n res bound v ht he hx hn hres hbound hd hv => ?step,
      fun waits v ht hav hfull hd hw hv => ?commit⟩⟩
  case read =>
    refine (exec_class3 rfl ht rfl hav hbound.symm hs hb hd hv).trans ?_
    simp only [State.run3, State.runCalRead, hv, State.acceptNow_die]
  case write =>
    refine (exec_class3 rfl ht rfl ?_ hbound.symm hs hb hd hv).trans ?_
    · rw [hav, none_orElse, State.calWriteErr_eq_none hblk hhdr]
    · have hconn (w : State) (f : Die → Die) (n : Nat) :
          ((w.holdAna x.toNat).updDie x.toNat f).connected n = w.connected n := State.holdAna_connected w x.toNat n
      have hheld (w : State) (f : Die → Die) (n : Nat) :
          ((w.holdAna x.toNat).updDie x.toNat f).held n = w.held n := rfl
      simp only [State.run3, State.runCalWrite, hv, hconn, hheld, State.acceptNow_connected, State.acceptNow_held]
  case step =>
    subst hres
    refine (exec_class3 rfl ht rfl he (by rw [hbound, hx]) hs hb hd hv).trans ?_
    simp only [State.run3, State.runCalStep, ← hx, ← hn, hv, State.acceptNow_connected, State.acceptNow_nearTemp,
      toNat_eq_48, toNat_beq_32, dState]
  case commit =>
    subst hw hv
    refine (exec_start3 (v := fun w => u.acceptNow d none 0 (.class3 flashRes u.commitBound w)
      (u.tb + u.ahead3 flashRes + u.commitBound)) (waits := u.busy3 flashRes || u.dieNums.any u.stepping)
      rfl ht rfl ?_ hs hb hd fun _ => rfl).trans ?_
    rotate_left
    · simp only [State.run3, State.runCalCommit, State.acceptNow_cal, State.acceptNow_dieMask,
        State.acceptNow_calHeader, State.acceptNow_die, hfull]
      cases u.busy3 flashRes || u.dieNums.any u.stepping with
      | true => rfl
      | false => rfl
    · exact congrArg (orPlan · _) (orElse_firstErr hav (by rw [hfull]; decide))

/-- Settles O11: each row is one operation of class 3 on the flash. -/
theorem flashCommandsQueue : Obligations.FlashCommandsQueue := by
  refine fun s u t h d off len v hs hb hv => ⟨fun host ht hd => ?_, fun host data ht hl hd => ?_, fun ht hl hd => ?_⟩
  · exact exec_class3 rfl ht rfl rfl rfl hs hb hd (hv _)
  · exact exec_class3 rfl ht rfl (by rw [hl]; rfl) rfl hs hb hd (hv _)
  · exact exec_class3 rfl ht rfl (by rw [hl]; rfl) rfl hs hb hd (hv _)

/-- Settles O12: class 3 again; a retraining waits for the one in hand. -/
theorem patchAndDramCommands : Obligations.PatchAndDramCommands := by
  refine fun s u t h d hs hb => ⟨fun v ht hr hrps hd hv => ?patch,
    fun mask apply age pd rh ival eye b v ht hav hbound hd hv => ?config,
    fun x mode bound v ht hav hfull hdram hbound hd hv => ?retrain⟩
  case patch =>
    generalize hbound : 50000 = bound at hd hv
    refine (exec_class3 rfl ht rfl (by rw [hr, hrps]; rfl) hbound hs hb hd hv).trans ?_
    simp only [State.run3, State.runPatch]
    cases (v none).patchAll.1 <;> rfl
  case config =>
    exact exec_class3 rfl ht rfl hav hbound.symm hs hb hd hv
  case retrain =>
    refine (exec_start3 (b := bound) (waits := u.busy3 (dieRes (dieBit x.toNat)) && !(mode != 1 && u.merges x.toNat)) rfl
      ht rfl ?_ hs hb hd hv).trans rfl
    have herr : (u.unavailable [x.toNat] false <|> (if mode == 1 then none else u.noDram [x.toNat]) <|>
        firstErr [(!(mode == 1) || !u.fullBlocked x.toNat, .badState, dState)]) = none := by
      rw [hav, none_orElse]
      by_cases hm : mode = 1#8
      · exact orElse_firstErr (by simp [hm]) (by simp [hfull hm])
      · exact orElse_firstErr (by simp [hdram hm]) (by simp [hm])
    have hbound' : (if mode == 1 then 150000000 else 1412000) = bound := by simp [hbound]
    show orPlan _ _ = _
    simp only [herr, orPlan_none, hbound', bne]
    cases u.merges x.toNat with
    | false => simp [State.plan3]
    | true =>
      by_cases hm : mode = 1#8
      · simp [State.plan3, hm]
      · simp [State.plan3, hm]

end Sys2Proof.Machine

end

section
/-! The host's registers: doorbells, rings and windows of BAR 0 (R284 to R305; O13 to O15). -/

namespace Sys2Proof.Machine

/-! ### What an event leaves -/

/-- A state that differs from `a` in its events and in what tells the host of them alone. -/
def State.EventsOf (a s : State) : Prop := { s with ev := a.ev, pci := a.pci, out := a.out } = a

section
variable {a s : State}

theorem State.EventsOf.refl (s : State) : s.EventsOf s := rfl

theorem State.EventsOf.updEv {f : EventUnit → EventUnit} (h : a.EventsOf s) : a.EventsOf (s.updEv f) := h

theorem State.EventsOf.updPci {f : Pci → Pci} (h : a.EventsOf s) : a.EventsOf (s.updPci f) := h

theorem State.EventsOf.updOut {f : Outputs → Outputs} (h : a.EventsOf s) : a.EventsOf (s.updOut f) := h

theorem State.EventsOf.ite {p : Prop} [Decidable p] {x y : State} (hx : a.EventsOf x) (hy : a.EventsOf y) :
    a.EventsOf (if p then x else y) := by
  split
  · exact hx
  · exact hy

theorem State.EventsOf.misc {c : MiscCause} (h : a.EventsOf s) : a.EventsOf (s.misc c) := .ite h.updPci.updPci h.updPci.updOut

theorem State.EventsOf.enqueue {e : NewEvent} (h : a.EventsOf s) : a.EventsOf (s.enqueue e) := h.updEv

theorem State.EventsOf.countDrop (h : a.EventsOf s) : a.EventsOf s.countDrop := h.updEv.misc

theorem State.EventsOf.arrive {e : NewEvent} (h : a.EventsOf s) : a.EventsOf (s.arrive e).2 := by
  unfold State.arrive
  simp only
  split
  · exact h.enqueue
  · split
    · exact h.updEv
    · split
      · exact h.enqueue
      · split
        · exact h.countDrop
        · split
          · exact h.updEv.countDrop.enqueue
          · exact h.countDrop

theorem State.EventsOf.raise_ {e : NewEvent} (h : a.EventsOf s) : a.EventsOf (s.raise_ e) := by
  unfold State.raise_ State.raise
  split
  · simp only
    split
    · exact h.arrive.updEv
    · exact h.arrive
  · exact h.updEv

theorem State.EventsOf.hostSign (h : a.EventsOf s) : a.EventsOf s.hostSign := by
  unfold State.hostSign
  split
  · simp only
    split
    · exact (h.updEv.updEv).raise_
    · exact h.updEv
  · exact h

theorem State.EventsOf.tb_eq (h : a.EventsOf s) : s.tb = a.tb := congrArg (·.tb) h

theorem State.EventsOf.inlet_eq (h : a.EventsOf s) (i : Nat) : s.inlet i = a.inlet i := congrArg (·.inlet i) h

end

/-! ### The register map of BAR 0 (R284) -/

section
variable (s : State) (v : Word)

theorem State.bar0Write_whole (off : Nat) :
    s.bar0Write off v 0xF = (s.updPci fun p => { p with l1 := false }).bar0Set off v := rfl

theorem State.bar0Set_low {off : Nat} (ho : off < 0x2000) : s.blockServed off = true := by
  simp [State.blockServed, ho]

variable (hr : s.ringsServed = true)
include hr

theorem State.blockServed_of_rings (off : Nat) : s.blockServed off = true := by simp [State.blockServed, hr]

theorem State.bar0Set_inletDb {i : Nat} (hi : i < 16) : s.bar0Set (0x3000 + 4 * i) v = s.inletDoorbell i v := by
  unfold State.bar0Set
  rw [if_neg (by simp [s.blockServed_of_rings hr])]
  repeat rw [if_neg (by omega)]
  rw [if_pos (by omega)]
  congr
  omega

theorem State.bar0Set_outletDb {i : Nat} (hi : i < 16) : s.bar0Set (0x3040 + 4 * i) v = s.outletDoorbell i v := by
  unfold State.bar0Set
  rw [if_neg (by simp [s.blockServed_of_rings hr])]
  repeat rw [if_neg (by omega)]
  rw [if_pos (by omega)]
  congr
  omega

theorem State.bar0Set_eventDb : s.bar0Set 0x3080 v = s.eventDoorbell v := by
  unfold State.bar0Set
  rw [if_neg (by simp [s.blockServed_of_rings hr])]
  rfl

theorem State.bar0Set_ring {off : Nat} (ho : 0x2000 ≤ off ∧ off < 0x3000) : s.bar0Set off v = s.ringSet off v := by
  unfold State.bar0Set
  rw [if_neg (by simp [s.blockServed_of_rings hr])]
  repeat rw [if_neg (by omega)]
  rw [if_pos ho]

theorem State.bar0Set_inletCfg (i : BitVec 4) : s.bar0Set (0x2008 + 0x20 * i.toNat) v = s.ringCfg (.inlet i) v := by
  have hi := i.isLt
  rw [s.bar0Set_ring v hr (by omega), State.ringSet, if_pos (by omega), if_pos (by omega),
    show (0x2008 + 0x20 * i.toNat - 0x2000) / 0x20 = i.toNat by omega, BitVec.ofNat_toNat, BitVec.setWidth_eq]

theorem State.bar0Set_outletCfg (o : BitVec 4) : s.bar0Set (0x2208 + 0x20 * o.toNat) v = s.ringCfg (.outlet o) v := by
  have ho := o.isLt
  rw [s.bar0Set_ring v hr (by omega), State.ringSet, if_neg (by omega), if_pos (by omega), if_pos (by omega),
    show (0x2208 + 0x20 * o.toNat - 0x2200) / 0x20 = o.toNat by omega, BitVec.ofNat_toNat, BitVec.setWidth_eq]

theorem State.bar0Set_eventCfg : s.bar0Set 0x2408 v = s.ringCfg .event v := by
  rw [s.bar0Set_ring v hr (by omega)]
  rfl

theorem State.bar0Set_diag {off : Nat} (ho : 0x8000 ≤ off ∧ off < 0x9000) : s.bar0Set off v = s.diagSet off v := by
  unfold State.bar0Set
  rw [if_neg (by simp [s.blockServed_of_rings hr])]
  repeat rw [if_neg (by omega)]
  rw [if_pos ho]

end

/-- Settles O13: a doorbell's offset names its ring, and the ring's state is what it was before the access. -/
theorem doorbellsMoveIndices : Obligations.DoorbellsMoveIndices := by
  intro s u w t v hu hr hw
  have hrw : w.ringsServed = true := by rw [hw]; exact hr
  have hinlet : w.inlet = u.inlet := by rw [hw]; rfl
  have houtlet : w.outlet = u.outlet := by rw [hw]; rfl
  have hev : w.evRing = u.evRing := by rw [hw]; rfl
  have htb : w.tb = u.tb := by rw [hw]; rfl
  refine ⟨fun i => ?inlet, fun o => ?outlet, ?event⟩
  case inlet =>
    show Host.Outcome.next ((s.at t).bar0Write (0x3000 + 4 * i.toNat) v 0xF) = _
    rw [← hu, State.bar0Write_whole, ← hw, State.bar0Set_inletDb _ _ hrw i.isLt]
    have hsign := (State.EventsOf.refl w).hostSign
    simp only [State.inletDoorbell, hsign.tb_eq, hsign.inlet_eq, hinlet, htb, Bool.or_eq_true, Bool.not_eq_true', gt_iff_lt]
  case outlet =>
    show Host.Outcome.next ((s.at t).bar0Write (0x3040 + 4 * o.toNat) v 0xF) = _
    rw [← hu, State.bar0Write_whole, ← hw, State.bar0Set_outletDb _ _ hrw o.isLt]
    simp only [State.outletDoorbell, houtlet, Ring.doorbellOk, Bool.and_eq_true, decide_eq_true_eq]
  case event =>
    show Host.Outcome.next ((s.at t).bar0Write 0x3080 v 0xF) = _
    rw [← hu, State.bar0Write_whole, ← hw, State.bar0Set_eventDb _ _ hrw]
    simp only [State.eventDoorbell, hev, Ring.doorbellOk, Bool.and_eq_true, decide_eq_true_eq]

/-- Settles O14: the offset of CFG names its ring; then by the enable bit before and after the write. -/
theorem ringsAreConfigured : Obligations.RingsAreConfigured := by
  refine ⟨fun s u w t v hu hr hw => ?_, fun r v => ?ring, fun r v => ?inlet⟩
  · have hrw : w.ringsServed = true := by rw [hw]; exact hr
    refine ⟨fun i => ?_, fun o => ?_, ?_⟩
    · show Host.Outcome.next ((s.at t).bar0Write (0x2008 + 0x20 * i.toNat) v 0xF) = _
      rw [← hu, State.bar0Write_whole, ← hw, State.bar0Set_inletCfg _ _ hrw]
      rfl
    · show Host.Outcome.next ((s.at t).bar0Write (0x2208 + 0x20 * o.toNat) v 0xF) = _
      rw [← hu, State.bar0Write_whole, ← hw, State.bar0Set_outletCfg _ _ hrw]
      rfl
    · show Host.Outcome.next ((s.at t).bar0Write 0x2408 v 0xF) = _
      rw [← hu, State.bar0Write_whole, ← hw, State.bar0Set_eventCfg _ _ hrw]
      rfl
  case ring =>
    unfold Ring.cfg
    cases hen : r.enable <;> cases hb : hasBit v 8 <;> simp [hen, field, newSize]
  case inlet =>
    unfold Inlet.cfg
    cases hen : r.enable <;> cases hb : hasBit v 8 <;> simp [hen]

/-! ### Snapshot, aperture and diagnostic window (R288, R300, R305) -/

section
variable (s : State) (v : Word)

theorem State.bar0Set_snapshot : s.bar0Set 0x1010 v = s.snap v := by
  rw [State.bar0Set, State.bar0Set_low s (by omega)]
  rfl

theorem State.bar0Set_apertureHi : s.bar0Set 0x1084 v = s.setAperture true v := by
  rw [State.bar0Set, State.bar0Set_low s (by omega)]
  rfl

theorem State.bar0Set_apertureLo : s.bar0Set 0x1080 v = s.setAperture false v := by
  rw [State.bar0Set, State.bar0Set_low s (by omega)]
  rfl

/-- The offsets of a snapshot are those of its group. -/
theorem State.groupCopy_offsets (g : Nat) :
    (s.groupCopy g).1.map (·.1) = (s.bar0Words.map (·.1)).filter (inGroup g) := by
  have hfold (offs : List Nat) (p : List (Nat × Word) × State) :
      (offs.foldl (fun (p : List (Nat × Word) × State) off =>
        match p.2.dmaDone off with
        | some (v, s) => (p.1 ++ [(off, v)], s)
        | none => (p.1 ++ [(off, wordAt s.bar0Words off)], p.2)) p).1.map (·.1) = p.1.map (·.1) ++ offs := by
    induction offs generalizing p with
    | nil => simp
    | cons off offs ih =>
      rw [List.foldl_cons, ih]
      cases p.2.dmaDone off <;> simp
  exact hfold _ _

/-- A write of DIAG_CTL with GO keeps the fields that are written with it. -/
theorem diagGo_fields : hasBit (v ||| 0x80000000) 31 = true ∧ hasBit (v ||| 0x80000000) 8 = hasBit v 8 ∧
    hasBit (v ||| 0x80000000) 9 = hasBit v 9 ∧ field (v ||| 0x80000000).toNat 6 0 = v.toNat % 128 := by
  refine ⟨?_, ?_, ?_, ?_⟩
  · simp [hasBit]
  · simp [hasBit]
  · simp [hasBit]
  · have h := Nat.or_mod_two_pow (a := v.toNat) (b := 0x80000000) (n := 7)
    simpa [field, BitVec.toNat_or] using h

theorem wordAt_eq_zero {ws : List (Nat × Word)} {off : Nat} (h : ∀ p ∈ ws, p.1 ≠ off) : wordAt ws off = 0 := by
  have hl : ws.lookup off = none := List.lookup_eq_none_iff.mpr fun p hp => by simpa using (h p hp).symm
  rw [wordAt, hl]
  rfl

variable {s}

/-- While an operation is in progress the diagnostic window shows no data (R305). -/
theorem State.bar0Words_below_diagData (hi : s.inlets.length = 16) (ho : s.outlets.length = 16)
    (hb : s.diag.busy = true) : ∀ p ∈ s.bar0Words, p.1 < 0x8100 := by
  have hid : ∀ p ∈ s.idWords, p.1 < 0x8100 := by simp [State.idWords, pairWords]
  have hpart : ∀ p ∈ s.partWords, p.1 < 0x8100 := by
    simp [State.partWords]
    omega
  have hring : ∀ p ∈ s.ringWords, p.1 < 0x8100 := by
    simp only [State.ringWords, List.forall_mem_append, List.mem_flatMap, forall_exists_index, and_imp]
    refine ⟨⟨fun p x hx hp => ?_, fun p x hx hp => ?_⟩, ?_⟩
    · have hlt := (List.mem_zipIdx' hx).1
      simp only [Inlet.words, pairWords, List.mem_append, List.mem_cons, List.not_mem_nil, or_false] at hp
      rcases hp with (rfl | rfl) | rfl | rfl <;> simp <;> omega
    · have hlt := (List.mem_zipIdx' hx).1
      simp only [Ring.words, pairWords, List.mem_append, List.mem_cons, List.not_mem_nil, or_false] at hp
      rcases hp with (((rfl | rfl) | rfl | rfl) | rfl | rfl) | rfl <;> simp <;> omega
    · simp [Ring.words, pairWords]
  have htime : ∀ p ∈ s.timeWords, p.1 < 0x8100 := by simp [State.timeWords, pairWords]
  have hdiag : ∀ p ∈ s.diagWords, p.1 < 0x8100 := by simp [State.diagWords, hb]
  simp only [State.bar0Words, List.forall_mem_append]
  refine ⟨⟨hid, hpart⟩, ?_⟩
  split
  · simp only [List.forall_mem_append]
    exact ⟨⟨hring, htime⟩, hdiag⟩
  · simp

theorem State.bar0Word_diagData (hi : s.inlets.length = 16) (ho : s.outlets.length = 16)
    (hb : s.diag.busy = true) : s.bar0Word 0x8100 = 0 := by
  have hw : wordAt s.bar0Words 0x8100 = 0 :=
    wordAt_eq_zero fun p hp => Nat.ne_of_lt (State.bar0Words_below_diagData hi ho hb p hp)
  unfold State.bar0Word
  split
  · rename_i f _
    rw [if_neg]
    · exact hw
    · rcases f.group with _ | _ | _ | _ | _ <;> simp [inGroup]
  · exact hw

theorem State.bar0Clear_diagData (hr : s.ringsServed = true) (hb : s.diag.busy = true) :
    s.bar0Clear 0x8100 = { s with diag := { s.diag with early := true } } := by
  unfold State.bar0Clear
  repeat rw [if_neg (by omega)]
  rw [if_pos ⟨by omega, by omega, hr, hb⟩]

/-- A read of a register of one word (R284, R288). -/
theorem State.bar0Read_word {w : State} (hw : w = s.updPci fun p => { p with l1 := false }) {off : Nat}
    (hd : w.dmaDone off = none) (hlo : bar0Lo off = false) (hhi : ¬ (4 ≤ off ∧ bar0Lo (off - 4) = true))
    (be : BitVec 4) :
    s.bar0Read off be =
      (w.bar0Clear off).updOut fun o => { o with readData := [byteEnabled (w.bar0Word off) be] } := by
  have hhi' : (decide (4 ≤ off) && bar0Lo (off - 4)) = false := by simpa using hhi
  unfold State.bar0Read
  simp only [← hw, hd, hlo, hhi']
  rfl

/-- A read of DIAG_DATA while an operation is in progress sets EARLY and reads 0 (R305). -/
theorem State.bar0Read_diagData {w : State} (hw : w = s.updPci fun p => { p with l1 := false })
    (hi : s.inlets.length = 16) (ho : s.outlets.length = 16) (hr : s.ringsServed = true) (hb : s.diag.busy = true) :
    s.bar0Read 0x8100 0xF =
      ({ w with diag := { s.diag with early := true } } : State).updOut fun o => { o with readData := [0] } := by
  have hword : w.bar0Word 0x8100 = 0 := by subst hw; exact State.bar0Word_diagData hi ho hb
  have hclear : w.bar0Clear 0x8100 = { w with diag := { s.diag with early := true } } := by
    subst hw
    exact State.bar0Clear_diagData hr hb
  rw [State.bar0Read_word hw (if_neg (by omega)) (by decide) (by decide), hword, hclear]
  rfl

end

/-- Settles O15: each offset names its window; DIAG_DATA meets no register word of another group. -/
theorem windowsAreSet : Obligations.WindowsAreSet := by
  intro s u w t v hu hw
  have hdiag : w.diag = u.diag := by rw [hw]; rfl
  refine ⟨fun ws x hx => ⟨?snap, ?words⟩, ?apHi, ?apLo, fun hr x hx => ?go, fun hr hb hsz wr => ?early⟩
  case snap =>
    show Host.Outcome.next ((s.at t).bar0Write 0x1010 v 0xF) = _
    rw [← hu, State.bar0Write_whole, ← hw, State.bar0Set_snapshot]
    simp [State.snap, field, hx]
  case words => rw [← State.groupCopy_offsets, hx]
  case apHi =>
    show Host.Outcome.next ((s.at t).bar0Write 0x1084 v 0xF) = _
    rw [← hu, State.bar0Write_whole, ← hw, State.bar0Set_apertureHi]
    rfl
  case apLo =>
    show Host.Outcome.next ((s.at t).bar0Write 0x1080 v 0xF) = _
    rw [← hu, State.bar0Write_whole, ← hw, State.bar0Set_apertureLo]
    rfl
  case go =>
    have hrw : w.ringsServed = true := by rw [hw]; exact hr
    obtain ⟨hgo, hwr, hsn, hn⟩ := diagGo_fields v
    show Host.Outcome.next ((s.at t).bar0Write 0x8008 (v ||| 0x80000000) 0xF) = _
    rw [← hu, State.bar0Write_whole, ← hw, State.bar0Set_diag _ _ hrw (by omega)]
    show Host.Outcome.next (w.diagCtl (v ||| 0x80000000)) = _
    simp only [State.diagCtl, hgo, hwr, hsn, hn, if_true]
    rw [hdiag] at hx ⊢
    subst hx
    rfl
  case early =>
    have hrw : w.ringsServed = true := by rw [hw]; exact hr
    have hbw : w.diag.busy = true := by rw [hdiag]; exact hb
    have hx : exec (.diagDataEarly t wr) s = .next (if u.diag.busy then
        (if wr then u.bar0Write 0x8100 0 0xF else u.bar0Read 0x8100 0xF) else u) := by rw [hu]; rfl
    rw [hx, if_pos hb]
    cases wr with
    | true =>
      have he : u.bar0Write 0x8100 0 0xF = { w with diag := { u.diag with early := true } } := by
        rw [State.bar0Write_whole, ← hw, State.bar0Set_diag _ _ hrw (by omega), ← hdiag]
        exact if_pos hbw
      exact ⟨_, congrArg _ he, rfl, fun _ => rfl, nofun⟩
    | false =>
      obtain ⟨-, -, -, hi, ho, -⟩ := hsz
      exact ⟨_, congrArg _ (State.bar0Read_diagData hw hi ho hr hb), rfl, nofun, fun _ => rfl⟩

end Sys2Proof.Machine

end

section
/-! Accesses to registers and to DRAM through BAR 2, and the endpoint's states (R11 to R13, R279 to R303; O16 to O18). -/

namespace Sys2Proof.Machine

/-- The offsets of the _LO registers. -/
theorem bar0Lo_cases {off : Nat} (hlo : bar0Lo off = true) :
    off = 0x0010 ∨ off = 0x0018 ∨ off = 0x4000 ∨ off = 0x4010 ∨ off = 0x4018 := by
  simpa [bar0Lo] using hlo

section
variable {s w : State} (hw : w = s.updPci fun p => { p with l1 := false }) {off : Nat}
include hw

/-- A read of a register whose word is a free value (log entry 7). -/
theorem State.bar0Read_free {v : Word} {y : State} (hd : w.dmaDone off = some (v, y)) (hlo : bar0Lo off = false)
    (be : BitVec 4) :
    s.bar0Read off be = (y.bar0Clear off).updOut fun o => { o with readData := [byteEnabled v be] } := by
  unfold State.bar0Read
  simp only [← hw, hd, hlo]
  rfl

/-- A read of a _LO register latches its _HI (R287). -/
theorem State.bar0Read_lo (hlo : bar0Lo off = true) (be : BitVec 4) :
    s.bar0Read off be =
      ({ w with latBar := (off + 4, w.bar0Word (off + 4)) :: w.latBar.filter fun p => p.1 ≠ off + 4 } : State).updOut
        fun o => { o with readData := [byteEnabled (w.bar0Word off) be] } := by
  have hd : w.dmaDone off = none := if_neg (by rcases bar0Lo_cases hlo with h | h | h | h | h <;> omega)
  have hhi : (decide (4 ≤ off) && bar0Lo (off - 4)) = false := by
    rcases bar0Lo_cases hlo with rfl | rfl | rfl | rfl | rfl <;> decide
  have hclear (x : State) : x.bar0Clear off = x := by
    unfold State.bar0Clear
    rcases bar0Lo_cases hlo with rfl | rfl | rfl | rfl | rfl <;> simp
  unfold State.bar0Read
  have hne : (fun p : Nat × Word => p.1 != off + 4) = fun p => decide (p.1 ≠ off + 4) := by
    funext p
    rw [Bool.eq_iff_iff, bne_iff_ne, decide_eq_true_iff]
  simp only [← hw, hd, hlo, hhi, hclear, hne]
  rfl

/-- A read of a _HI register finds what its _LO latched (R287). -/
theorem State.bar0Read_hi (hlo : bar0Lo off = true) (be : BitVec 4) :
    s.bar0Read (off + 4) be =
      w.updOut fun o => { o with readData := [byteEnabled ((w.latBar.lookup (off + 4)).getD 0) be] } := by
  have hd : w.dmaDone (off + 4) = none := if_neg (by rcases bar0Lo_cases hlo with h | h | h | h | h <;> omega)
  have hhi : (decide (4 ≤ off + 4) && bar0Lo (off + 4 - 4)) = true := by simp [hlo]
  have hlo' : bar0Lo (off + 4) = false := by
    rcases bar0Lo_cases hlo with rfl | rfl | rfl | rfl | rfl <;> decide
  have hclear (x : State) : x.bar0Clear (off + 4) = x := by
    unfold State.bar0Clear
    rcases bar0Lo_cases hlo with rfl | rfl | rfl | rfl | rfl <;> simp
  unfold State.bar0Read
  simp only [← hw, hd, hhi, hlo', hclear]
  rfl

end

/-- Settles O16: what a read gives is the register's word, its latch set by the low half and taken by the high half.
-/
theorem registersAreAccessed : Obligations.RegistersAreAccessed := by
  intro s u w t hu hw
  have hread (off : Nat) (be : BitVec 4) : exec (.rcRead t .bar0 (.bar0 off) be) s = .next (u.bar0Read off be) := by
    rw [hu]; rfl
  refine ⟨fun off v be => ?_, fun off v be => ⟨?_, ?_⟩, fun x off v be hd ho h4 hready hserved => ?_,
    fun off be hd hlo hhi => ?_, fun off be v y hd hlo => ?_, fun off hlo => ?_, fun off be hlo => ?_,
    fun x off be v lat y hd ho h4 hready hserved hr => ?_⟩
  · subst hu hw; rfl
  · subst hu hw; rfl
  · subst hu hw; rfl
  · subst hu
    exact congrArg _ (if_pos ⟨hd, ho, h4, hready, hserved⟩)
  · rw [hread, State.bar0Read_word hw hd hlo hhi]
  · rw [hread, State.bar0Read_free hw hd hlo]
  · refine (hread off 0xF).trans ?_
    rw [State.bar0Read_lo hw hlo]
  · rw [hread, State.bar0Read_hi hw hlo]
  · have hx : u.readReg .diag (.die x off) be =
        ({ y with latDiag := lat } : State).updOut fun o => { o with readData := [v] } := by
      unfold State.readReg
      simp only
      rw [if_pos ⟨hd, ho, h4, hready, hserved⟩, hr]
    subst hu
    exact ⟨congrArg _ hx, congrArg _ hx⟩

/-- Settles O17: the window maps the span to one die, byte by byte. -/
theorem windowReachesDram : Obligations.WindowReachesDram := by
  intro s u w t off hu hw
  refine ⟨fun len ws hlen hws => ?read, fun data hlen => ?write⟩
  case read =>
    have hn : min len (2 ^ 28 - off) = len := by omega
    have hap : w.aperture off = (u.pci.apDie.toNat, (u.pci.apBaseLo.toNat + u.pci.apBaseHi.toNat * 16) * 2 ^ 28 + off) := by
      subst hw; rfl
    show execBar2Read t off len s = _
    unfold execBar2Read
    simp only [← hu, ← hw, hn, hap, hws]
    rfl
  case write =>
    have hn : min data.length (2 ^ 28 - off) = data.length := by omega
    have hap : w.aperture off = (u.pci.apDie.toNat, (u.pci.apBaseLo.toNat + u.pci.apBaseHi.toNat * 16) * 2 ^ 28 + off) := by
      subst hw; rfl
    have hwr : w.bar2Writable = u.bar2Writable := by subst hw; rfl
    show execBar2Write t off data s = _
    unfold execBar2Write
    simp only [← hu, ← hw, hn, hap, hwr, List.take_length, List.all_eq_true, List.mem_range]
    rfl

/-- Settles O18: the rows without a guard by computation, the others by the case of their guard. -/
theorem endpointSteps : Obligations.EndpointSteps := by
  refine ⟨fun s u t hu => ⟨?l1, ?d3, ?d0, ?reset, fun width speed => ?link⟩, fun s u t t1 hu => ⟨fun resp hoff => ?off,
    fun hon host prop => ⟨fun hp => ?first, fun t0 hp => ?pair⟩, fun hon hm => ?missed, fun hon hm => ?lost⟩⟩
  case l1 =>
    subst hu
    show execL1Entry t s = _
    simp only [execL1Entry, List.isEmpty_iff]
  case d3 => subst hu; rfl
  case d0 => subst hu; rfl
  case reset => subst hu; rfl
  case link => subst hu; rfl
  case off =>
    subst hu
    exact if_pos hoff
  case first =>
    subst hu
    show execPtmDialogue t t1 (some (host, prop)) s = _
    simp only [execPtmDialogue, hon, hp]
    rfl
  case pair =>
    subst hu
    show execPtmDialogue t t1 (some (host, prop)) s = _
    simp only [execPtmDialogue, hon, hp]
    rfl
  case missed =>
    subst hu
    show execPtmDialogue t t1 none s = _
    have h3 : ¬ (s.at t).ptm.missed + 1 ≥ 3 := by omega
    have h3' : (s.at t).ptm.missed + 1 < 3 := by omega
    simp only [execPtmDialogue, hon, if_neg h3, h3', decide_true, Bool.and_true]
    rfl
  case lost =>
    subst hu
    show execPtmDialogue t t1 none s = _
    have h3 : (s.at t).ptm.missed + 1 ≥ 3 := by omega
    have h3' : ¬ (s.at t).ptm.missed + 1 < 3 := by omega
    simp only [execPtmDialogue, hon, if_pos h3, h3', decide_false, Bool.and_false]
    rfl

end Sys2Proof.Machine

end

section
/-! Messages, events, the watch of the host, and resets (R295, R317, R347, R434; O20, O21). -/

namespace Sys2Proof.Machine

/-- A message that COAL held back may go. -/
theorem Ring.msiReady_of {r : Ring} {tb : Tb} (h : ∀ l, r.lastMsi = some l → r.coal = 0 ∨ l + r.coal ≤ tb) :
    r.msiReady tb = true := by
  unfold Ring.msiReady
  split
  · rfl
  · next l hl => simpa using h l hl

/-- Settles O20: COAL has passed exactly where the ring's message is ready. -/
theorem eventsReachTheHost : Obligations.EventsReachTheHost := by
  intro s u t hu
  refine ⟨fun o howed hcoal => ?outlet, fun howed hcoal => ?event, fun e rest w hq hen hd3 hroom hw => ?post,
    fun p hwatch hlost hlate hp => ?watch⟩
  case outlet =>
    show execMsixCoalesce t (.outlet o) s = _
    simp only [execMsixCoalesce, ← hu, howed, Ring.msiReady_of hcoal, Bool.and_self, if_true]
  case event =>
    show execMsixCoalesce t .event s = _
    simp only [execMsixCoalesce, ← hu, howed, Ring.msiReady_of hcoal, Bool.and_self, if_true]
  case post =>
    show execEventPost t s = _
    simp only [execEventPost, ← hu, hq, hen, State.hostUp, hd3, hroom, decide_true, Bool.not_false, Bool.and_self, if_true]
    have hwev : w.ev = u.ev := by rw [hw]; rfl
    have hwring : w.evRing = u.evRing := by rw [hw]; rfl
    simp only [entryAddr, ← hw, State.updEv, hwev, hwring, hen]
  case watch =>
    show execHostWatchTimeout t s = _
    simp only [execHostWatchTimeout, ← hu, hwatch, hlost, hlate, decide_true, Bool.not_false, Bool.and_self, if_true]
    simp only [evHostLost, ← hp]
    split
    · next h0 => rw [h0]; rfl
    · rfl

section
variable (s : State) (t : Tb)

@[simp] theorem State.at_model : (s.at t).model = s.model := by unfold State.at; split <;> rfl

@[simp] theorem State.at_boot : (s.at t).boot = s.boot := by unfold State.at; split <;> rfl

@[simp] theorem State.at_otp : (s.at t).otp = s.otp := by unfold State.at; split <;> rfl

@[simp] theorem State.at_serial : (s.at t).serial = s.serial := by unfold State.at; split <;> rfl

@[simp] theorem State.at_out : (s.at t).out = s.out := by unfold State.at; split <;> rfl

@[simp] theorem State.at_free : (s.at t).free = s.free := by unfold State.at; split <;> rfl

@[simp] theorem State.at_pending : (s.at t).pending = s.pending := by unfold State.at; split <;> rfl

end

/-- A torn operation changes the flash, by free values, alone. -/
def State.FlashOf (a s : State) : Prop :=
  { s with serial := { s.serial with flash := a.serial.flash }, free := a.free } = a

theorem State.flashOf_tearSpan {a s : State} (h : a.FlashOf s) (off n : Nat) : a.FlashOf (s.tearSpan off n) := by
  induction n generalizing s off with
  | zero => exact h
  | succ n ih => exact ih (by exact h) (off + 1)

theorem State.flashOf_tear (s : State) : s.FlashOf s.tear := by
  unfold State.tear
  split
  · rfl
  · split
    · exact State.flashOf_tearSpan (a := s) (by rfl) _ _
    · rfl

section
variable {a s : State} (h : a.FlashOf s)
include h

theorem State.FlashOf.model_eq : s.model = a.model := congrArg (·.model) h

theorem State.FlashOf.otp_eq : s.otp = a.otp := congrArg (·.otp) h

theorem State.FlashOf.out_eq : s.out = a.out := congrArg (·.out) h

theorem State.FlashOf.pending_eq : s.pending = a.pending := congrArg (·.pending) h

end

theorem State.tear_idle {s : State} (h : s.serial.ops = []) : s.tear = s := by rw [State.tear, h]

/-- A reset leaves the reset state but for the fuses, the flash, the queue and what has left the part (R434). -/
theorem State.partReset_eq (s : State) (t : Tb) (cause : Nat) (epoch : BitVec 16) (low : Bool) :
    (s.at t).partReset cause epoch low = { State.resetOf s.model with
      otp := s.otp
      serial := { (State.resetOf s.model).serial with flash := ((s.at t).partReset cause epoch low).serial.flash }
      boot := { (State.resetOf s.model).boot with resetCause := cause, epoch := epoch, perstLow := low }
      out := s.out, free := ((s.at t).partReset cause epoch low).free, pending := s.pending } := by
  have hf := State.flashOf_tear (s.at t)
  simp only [State.partReset, hf.model_eq, hf.otp_eq, hf.out_eq, hf.pending_eq, State.at_model, State.at_otp,
    State.at_out, State.at_pending]

/-- A reset keeps the flash where no operation was in progress. -/
theorem State.partReset_idle {s : State} (h : s.serial.ops = []) (t : Tb) (cause : Nat) (epoch : BitVec 16) (low : Bool) :
    ((s.at t).partReset cause epoch low).serial.flash = s.serial.flash ∧
      ((s.at t).partReset cause epoch low).free = s.free := by
  have hops : (s.at t).serial.ops = [] := by rw [State.at_serial, h]
  simp only [State.partReset, State.tear_idle hops, State.at_serial, State.at_free, and_self]

theorem State.allStill_chans (s : State) (cause : BitVec 4) :
    (s.allStill cause).chans = s.chans.map fun c => { c with st := { c.st with lastCause := cause } } := by
  refine List.ext_getElem? fun n => ?_
  simp [State.allStill, State.updChans]

/-- Settles O21: a reset writes out every field, and only a torn operation of the flash tells its flash from the old
one. -/
theorem resetsStartAnew : Obligations.ResetsStartAnew := by
  intro s u t hu
  refine ⟨⟨(s.at t).partReset 0 0 s.boot.perstLow, ?_, State.partReset_eq .., fun h => State.partReset_idle h ..⟩,
    fun hlow => ?_, fun hlow => ⟨((s.at t).partReset 1 0 true).allStill 10, ?_, ?_, ?_, fun h => ?_⟩⟩
  · show execPowerOnReset t s = _
    simp only [execPowerOnReset, State.at_boot]
  · show execPerstNAssert t s = _
    simp only [execPerstNAssert, ← hu, hlow, if_true]
  · show execPerstNAssert t s = _
    simp only [execPerstNAssert, ← hu, hlow]
    rfl
  · have hp := State.partReset_eq s t 1 0 true
    generalize (s.at t).partReset 1 0 true = w at hp
    exact congrArg (fun v : State => { v with chans := (w.allStill 10).chans }) hp
  · have hchans : ((s.at t).partReset 1 0 true).chans = (State.resetOf s.model).chans := by
      rw [State.partReset_eq]
    rw [State.allStill_chans, hchans]
  · obtain ⟨hflash, hfree⟩ := State.partReset_idle h t 1 0 true
    exact ⟨hflash, hfree⟩

end Sys2Proof.Machine

end

section
/-! Channel monitors and DIE faults (R39, R61, R342, R344; O23, O24). -/

namespace Sys2Proof.Machine

/-- Settles O23: each monitor's guard holds, which leaves its trip. -/
theorem channelMonitorsTrip : Obligations.ChannelMonitorsTrip := by
  intro s u t n hu
  refine ⟨fun hn hc above => ?prot, fun hn hc hm hr => ?sense,
    fun pmu w hn hl hw => ⟨fun hc => ?closed, fun hc hcl => ?opened⟩,
    fun pmu => ?clear⟩
  case prot =>
    show execProtTrip t n above s = _
    simp only [execProtTrip, ← hu, hn, hc, Bool.and_self, if_true]
    rfl
  case sense =>
    have hm' : ((u.chan n).st.mode == .fv || (u.chan n).st.mode == .fi) = true := by simpa using hm
    show execSenseDiverge t n s = _
    simp only [execSenseDiverge, ← hu, hn, hc, hm', hr, Bool.and_self, Bool.not_false, if_true]
    rfl
  case closed =>
    show execOvertempStage t n pmu s = _
    have hn' : ({ u with free := u.free + 1 } : State).hasChan n = true := hn
    have hc' : ({ u with free := u.free + 1 } : State).connected n = true := hc
    have hl' : (if pmu then (({ u with free := u.free + 1 } : State).chan n).st.otPmuLive
      else (({ u with free := u.free + 1 } : State).chan n).st.otDrvLive) = false := hl
    simp only [execOvertempStage, ← hu, State.takeFree, hn', hc', hl', Bool.not_true, Bool.or_self, Bool.true_or, if_true]
    rw [hw]
    cases pmu <;> rfl
  case opened =>
    show execOvertempStage t n pmu s = _
    have hn' : ({ u with free := u.free + 1 } : State).hasChan n = true := hn
    have hc' : ({ u with free := u.free + 1 } : State).connected n = false := hc
    have hcl' : ({ u with free := u.free + 1 } : State).closing n ((Config.freeValue u.free).getLsbD 0) = false := hcl
    have hl' : (if pmu then (({ u with free := u.free + 1 } : State).chan n).st.otPmuLive
      else (({ u with free := u.free + 1 } : State).chan n).st.otDrvLive) = false := hl
    simp only [execOvertempStage, ← hu, State.takeFree, hn', hc', hcl', hl', Bool.not_true, Bool.or_self]
    rw [hw]
    cases pmu <;> rfl
  case clear => subst hu; rfl

/-- Settles O24: each row's guard holds; what follows is the fault, or the handling in hand. -/
theorem dieFaultsAreHandled : Obligations.DieFaultsAreHandled := by
  refine ⟨fun s u t x rec boot hu => ⟨fun hd => ?watchdog, fun hd hl => ?tbpll, fun ctx kind addr hd hf => ?rps⟩,
    fun s u t x hu => ⟨fun h p hh hsev hst hp => ?timeout, fun h r hh hsev hst hr => ?restart,
      fun h q rec hh hq hov => ?next, fun port w hp hl hw => ?link⟩⟩
  case watchdog =>
    show execFwWatchdog t x rec boot s = _
    simp only [execFwWatchdog, ← hu, hd, if_true]
    rfl
  case tbpll =>
    show execTbpllLol t x rec boot s = _
    simp only [execTbpllLol, ← hu, hd, hl, Bool.and_self, if_true]
    rfl
  case rps =>
    show execRpsFault t x ctx kind addr rec boot s = _
    simp only [execRpsFault, ← hu, hd, hf, Bool.and_self, Bool.not_false, if_true]
    rfl
  case timeout =>
    show execDieRecoveryTimeout t x s = _
    simp only [execDieRecoveryTimeout, ← hu, hh, hsev, hst, and_self, if_true, State.recoveryLost]
    rw [hp]
  case restart =>
    show execHandlingDequeue t x (some r) s = _
    simp only [execHandlingDequeue, ← hu, hh, hsev, hst, hr, and_self, if_true]
  case next =>
    show execHandlingDequeue t x rec s = _
    have hany : (u.dieNums.any fun o => (u.die o).hand.any fun y => u.overlap h.scope y.scope) = false := by
      simp only [List.any_eq_false, Option.any_eq_true, not_exists, not_and, Bool.not_eq_true]
      exact hov
    simp only [execHandlingDequeue, ← hu, hh, hq, hany]
    rfl
  case link =>
    show execBridgeDegrade t port s = _
    simp only [execBridgeDegrade, ← hu, hp, hl, and_self, if_true]
    rw [hw]
    rfl

end Sys2Proof.Machine

end

section
/-! Pattern PLLs and the lock link (R87 to R106; O25, O26). -/

namespace Sys2Proof.Machine

@[simp] theorem State.updPll_tb (s : State) (d : Nat) (f : Pll → Pll) : (s.updPll d f).tb = s.tb := rfl

@[simp] theorem State.updPll_hasDie (s : State) (d : Nat) (f : Pll → Pll) (x : Nat) :
    (s.updPll d f).hasDie x = s.hasDie x := rfl

/-- Settles O25: each row by its guard; SYNC names the dies whose lock held. -/
theorem pllsLockAndLose : Obligations.PllsLockAndLose := by
  refine ⟨fun s u t x hu => ⟨fun htr hdue => ?step, fun w hw => ⟨fun hre hin => ?relock, fun hho hre => ?holdover⟩,
    fun hre hout => ?nolock, fun hd => ?guard⟩, fun s u t hu => ⟨fun x w hd hl hw => ?lol,
      fun tag wk mask lost tick bad good w hwk hkind hdone htick hbad hgood hw => ?sync⟩⟩
  case step =>
    show execTrackedStepDone t x s = _
    simp only [execTrackedStepDone, ← hu, htr, hdue, and_self, if_true]
    rfl
  case relock =>
    show execRelockDone t x true s = _
    simp only [execRelockDone, ← hu, hre, hin, not_true_eq_false, if_false, and_self, if_true]
    rw [hw]
    rfl
  case holdover =>
    show execHoldoverExit t x s = _
    simp only [execHoldoverExit, ← hu, hre, hho, Bool.false_eq_true, not_false_eq_true, and_self, if_true]
    rw [hw]
    rfl
  case nolock =>
    show execRelockDone t x false s = _
    simp only [execRelockDone, ← hu, hre, hout, not_true_eq_false, Bool.false_eq_true, false_and, if_false,
      not_false_eq_true, and_self, if_true]
    rfl
  case guard =>
    show execGuardHit t x s = _
    simp only [execGuardHit, ← hu, State.updPll_hasDie, hd, State.updPll_tb]
    by_cases hq : (u.die x).pll.relocking = true ∨ (u.die x).pll.switchTb = some u.tb
    · rw [if_pos hq, if_neg (by simpa [Decidable.or_iff_not_imp_left] using hq)]
    · rw [if_neg hq, if_pos (by simpa using hq)]
  case lol =>
    show execPllLol t x s = _
    simp only [execPllLol, ← hu, hd, hl, Bool.and_self, if_true]
    rw [hw]
    rfl
  case sync =>
    show execRippleSync t tag s = _
    simp only [execRippleSync, ← hu, hwk, hkind, hdone, htick, Option.isNone_none, and_self, if_true,
      List.partition_eq_filter_filter]
    have hsync : u.syncDies good tick = w := by rw [hw]; rfl
    subst hbad hgood
    simp only [Function.comp_def, hsync, List.isEmpty_iff]
    split
    · rfl
    · rfl

/-! ### The fields of frames and superframes (R102, R103) -/

theorem frame_crc (f : BitVec 80) : field f.toNat 79 72 = f.toNat / 2 ^ 72 :=
  Nat.mod_eq_of_lt (by have := f.isLt; omega)

theorem frame_nibble (f : BitVec 80) : BitVec.ofNat 4 (field f.toNat 69 66) = BitVec.ofNat 4 (f.toNat / 2 ^ 66) := by
  apply BitVec.eq_of_toNat_eq
  simp [field]

theorem frame_word (v i : Nat) : field v (17 + 16 * i) (2 + 16 * i) = v / 2 ^ (2 + 16 * i) % 2 ^ 16 := by
  rw [field, show 17 + 16 * i + 1 - (2 + 16 * i) = 16 by omega]

theorem superframe_crc (sf : BitVec 128) : field sf.toNat 127 120 = sf.toNat / 2 ^ 120 :=
  Nat.mod_eq_of_lt (by have := sf.isLt; omega)

theorem superframe_tb (sf : BitVec 128) : BitVec.ofNat 64 (field sf.toNat 63 0) = sf.setWidth 64 := by
  apply BitVec.eq_of_toNat_eq
  simp [field]

/-- A trim of the phase is at most 1 ps for each µs since the last (R104). -/
theorem LockLink.pull_spec (l : LockLink) (err : Int) (tb : Tb) :
    ∃ n : Int, (n.natAbs : Int) ≤ max 0 (((tb : Rat) - l.trimTb) * 2048 / 10 ^ 6).floor ∧
      (l.pull err tb).phaseErr = BitVec.ofInt 16 (err - n) ∧ (l.pull err tb).trim = l.trim + n := by
  refine ⟨_, ?_, rfl, rfl⟩
  split
  · omega
  · omega

/-- The FOLLOWER's view of a superframe by UP (R103, R104), which its receipt writes out. -/
def LockLink.follow (l : LockLink) (tb : Tb) (sf : BitVec 128) (err : BitVec 16) : LockLink :=
  let l := { l with
    sfUp := some (sf.setWidth 64, tb - 256), mgmtUp := []
    transit := echoTransit (field sf.toNat 71 64) (field sf.toNat 87 72) (tb - 256) % 2 ^ 24, phaseErr := err }
  let near : Int := ((field sf.toNat 63 0 + (l.transit + 64) / 128 : Nat) : Int) - (tb - 256 : Nat)
  let close := decide (near = 0) && l.within 1024
  { l.pull err.toInt tb with
    offset := near, returned := l.returned && !(close && !l.stray), stray := l.returned && (l.stray || !close) }.align

section
variable (l : LockLink) (tb : Tb) (sf : BitVec 128) (err : BitVec 16)

theorem LockLink.follow_trim :
    ∃ n : Int, (n.natAbs : Int) ≤ max 0 (((tb : Rat) - l.trimTb) * 2048 / 10 ^ 6).floor ∧
      (l.follow tb sf err).phaseErr = BitVec.ofInt 16 (err.toInt - n) ∧ (l.follow tb sf err).trim = l.trim + n :=
  LockLink.pull_spec { l with
    sfUp := some (sf.setWidth 64, tb - 256), mgmtUp := []
    transit := echoTransit (field sf.toNat 71 64) (field sf.toNat 87 72) (tb - 256) % 2 ^ 24, phaseErr := err }
    err.toInt tb

theorem LockLink.follow_offset : (l.follow tb sf err).offset =
    ((sf.toNat % 2 ^ 64 + ((l.follow tb sf err).transit + 64) / 128 : Nat) : Int) - (tb - 256 : Nat) := by
  have h : field sf.toNat 63 0 = sf.toNat % 2 ^ 64 := by simp [field]
  rw [← h]
  rfl

theorem LockLink.follow_aligned (hr : l.role = 2) : (l.follow tb sf err).aligned = true ↔
    (l.follow tb sf err).up = true ∧ (l.follow tb sf err).offset = 0 ∧
      (l.follow tb sf err).phaseErr.toInt.natAbs ≤ 20 ∧ (l.follow tb sf err).returned = false := by
  have hrole : (l.follow tb sf err).role = 2 := hr
  have hal : (l.follow tb sf err).aligned = ((l.follow tb sf err).role == 2 && (l.follow tb sf err).up &&
    decide ((l.follow tb sf err).offset = 0) && (l.follow tb sf err).within 20 && !(l.follow tb sf err).returned) := rfl
  rw [hal, hrole]
  simp [LockLink.within, and_assoc]

end

/-- Settles O26: the bits of a frame are the fields that R102 names, and the trim is bounded by the time since the
last. -/
theorem lockLinkMoves : Obligations.LockLinkMoves := by
  refine ⟨fun s u t dn f hu hrole hmark => ⟨fun hcrc => ?bad, fun put hput hcrc => ?good⟩,
    fun s u t sf err hu hrole hcrc => ⟨fun hm => ?dn, fun hm hr => ?up, fun hm hr => ?follow⟩,
    fun s u t dn hu hrole hlive => ?lost, fun s v t hv => ?act⟩
  case bad =>
    show execLlFrame t dn f s = _
    have hnot : ¬ (u.link.role = 0 ∨ field f.toNat 1 0 ≠ 2) := by
      simpa [field, hrole] using hmark
    simp only [execLlFrame, ← hu]
    rw [if_neg hnot, if_pos (by rw [frame_crc]; exact hcrc)]
  case good =>
    show execLlFrame t dn f s = _
    have hnot : ¬ (u.link.role = 0 ∨ field f.toNat 1 0 ≠ 2) := by
      simpa [field, hrole] using hmark
    simp only [execLlFrame, ← hu]
    rw [if_neg hnot, if_neg (by rw [frame_crc]; exact not_not_intro hcrc)]
    simp only [frame_nibble, ← hput, frame_word, State.updLink_tb]
  case dn =>
    show execLlSuperframe t true sf err s = _
    simp only [execLlSuperframe, ← hu]
    rw [if_neg (by simp [hrole, hm, superframe_crc, hcrc])]
    simp only [superframe_tb, if_true]
  case up =>
    show execLlSuperframe t false sf err s = _
    simp only [execLlSuperframe, ← hu]
    rw [if_neg (by simp [hrole, hm, superframe_crc, hcrc]), if_neg (by decide), superframe_tb]
    exact congrArg Host.Outcome.next (if_pos hr)
  case follow =>
    have hx : exec (.llSuperframe t false sf err) s = .next ((u.updLink (·.follow u.tb sf err)).updOut fun o =>
        { o with relayed := o.relayed ++ [(u.link.follow u.tb sf err).superframe true (roundUp u.tb 256)] }) := by
      show execLlSuperframe t false sf err s = _
      simp only [execLlSuperframe, ← hu]
      rw [if_neg (by simp [hrole, hm, superframe_crc, hcrc]), if_neg (by decide), superframe_tb]
      exact (congrArg Host.Outcome.next (if_neg (not_not_intro hr))).trans rfl
    obtain ⟨n, hn, hphase, htrim⟩ := u.link.follow_trim u.tb sf err
    exact ⟨_, n, hx, rfl, rfl, rfl, rfl, u.link.follow_offset u.tb sf err, hn, hphase, htrim,
      u.link.follow_aligned u.tb sf err hr⟩
  case lost =>
    show execLlLinkLost t dn s = _
    simp only [execLlLinkLost, ← hu, hlive, ne_eq, hrole, not_false_eq_true, and_self, if_true]
  case act =>
    show execLlEventAct t s = _
    simp only [execLlEventAct, ← hv, List.partition_eq_filter_filter]
    rfl

end Sys2Proof.Machine

end

section
/-! Triggers, samples and charge (R144 to R167; O27 to O29). -/

namespace Sys2Proof.Machine

theorem any_armPending {s : State} {ks : List Nat} (h : ∃ k ∈ ks, (s.trig k).armAt ≠ none) :
    ks.any s.armPending = true := by
  obtain ⟨k, hk, ha⟩ := h
  exact List.any_eq_true.mpr ⟨k, hk, Option.isSome_iff_ne_none.mpr ha⟩

theorem BitVec.toNat_one_eq_zero (kind : BitVec 1) : (kind.toNat = 0) = (kind = 0) := by bv_omega

theorem State.armed_eq (s : State) (kind : BitVec 1) (id : Nat) :
    s.armed kind.toNat id = if kind = 0 then s.membersOf id else [id] := by
  simp only [State.armed, BitVec.toNat_one_eq_zero]

/-- Settles O27: the engines that a tick names are found by their group or by their cluster alone. -/
theorem triggersArmAndFire : Obligations.TriggersArmAndFire := by
  refine ⟨fun s u t hu => ⟨fun line level w hl hw => ?edge, fun kind id ks a hks hp ha => ⟨fun hk hs hd => ?span,
      fun hk hs hd => ?group, fun hk hd => ?single⟩⟩,
    fun s u t hu => ⟨fun id l rest v hv hf hd => ?fire, fun k l rest v hv hm hg hd => ?fireOne,
      fun k e he hs hd => ?holdoff, fun k hs hd => ?rearm, fun kind id ks hks hne => ?disarm⟩⟩
  case edge =>
    show execTrigInEdge t line level s = _
    simp only [execTrigInEdge, ← hu]
    rw [if_neg hl, hw]
  case span =>
    show execRippleArm t kind id s = _
    have hks' : u.armed kind.toNat id = ks := (u.armed_eq kind id).trans hks.symm
    have ha' : (ks.filterMap fun k => (u.trig k).armAt).foldl max 0 = a := ha.symm
    simp only [execRippleArm, ← hu, hks', ha', any_armPending hp]
    simp only [hk, hs, hd, and_self, if_true]
    rfl
  case group =>
    show execRippleArm t kind id s = _
    have hks' : u.armed kind.toNat id = ks := (u.armed_eq kind id).trans hks.symm
    have ha' : (ks.filterMap fun k => (u.trig k).armAt).foldl max 0 = a := ha.symm
    simp only [execRippleArm, ← hu, hks', ha', any_armPending hp]
    simp only [hk, hs, hd, if_true]
    rfl
  case single =>
    show execRippleArm t kind id s = _
    have hks' : u.armed kind.toNat id = ks := (u.armed_eq kind id).trans hks.symm
    have ha' : (ks.filterMap fun k => (u.trig k).armAt).foldl max 0 = a := ha.symm
    simp only [execRippleArm, ← hu, hks', ha', any_armPending hp]
    simp only [hk, hd, if_true]
    rfl
  case fire =>
    show execRippleFire t 0 id s = _
    have hv' : (u.armed (0 : BitVec 1).toNat id).foldl (fun s k => s.trigFlush k s.tb) u = v := hv.symm
    simp only [execRippleFire, ← hu, hv', hf, hd, if_true]
    rfl
  case fireOne =>
    show execRippleFire t 1 k s = _
    have hv' : (u.armed (1 : BitVec 1).toNat k).foldl (fun s k => s.trigFlush k s.tb) u = v := hv.symm
    simp only [execRippleFire, ← hu, hv', hm, hg, hd]
    rfl
  case holdoff =>
    show execHoldoffEnd t k s = _
    simp only [execHoldoffEnd, ← hu, he, hs, hd, and_self, if_true]
    simp
  case rearm =>
    show execRearmEnd t k s = _
    simp only [execRearmEnd, ← hu, hs, hd, and_self, if_true]
  case disarm =>
    show execDisarmTick t kind id s = _
    simp only [execDisarmTick, ← hu, u.armed_eq, ← hks]
    cases ks with
    | nil => exact absurd rfl hne
    | cons k ks => rfl

/-- Settles O28: the average is complete, so the record is that of its conversions. -/
theorem samplesAreTaken : Obligations.SamplesAreTaken := by
  intro s u t hu
  refine ⟨fun x => ?ref, fun n avg codes clamp hit live last stamp ps cs p x w value hn havg hlen htb hstamp hfrom hlast hps
    hp hcs hvalue hx hw => ?sar⟩
  case ref =>
    show execRefdacUpdate t x s = _
    simp only [execRefdacUpdate, ← hu]
    simp
  case sar =>
    show execSarSample t n codes clamp hit live last s = _
    have hst : sarStamp avg u.tb = some stamp := by rw [sarStamp, if_pos htb, hstamp]
    have hread (hit : Bool) : u.sarRead n stamp codes hit = { x with clamp := hit && ps.any PinPast.forces } := by
      have hps' : (u.chan n).conversions stamp codes.length = ps := by rw [hps, hlen]; rfl
      have hcs' : ((ps.zip codes).map fun y => u.conversion n y.1 y.2) = cs := hcs.symm
      rw [State.sarRead, hps', hcs', hx, hvalue, hlen]
      push_cast
      rfl
    have hgo : (!u.hasChan n || codes.length != avg || decide (stamp < (u.chan n).meas.avgFrom)
        || ((u.chan n).meas.last != 0 && decide (stamp ≤ (u.chan n).meas.lastTb))) = false := by
      simpa [hn, hlen, hfrom, Decidable.or_iff_not_imp_left] using hlast
    have hxc : { x with clamp := clamp && ps.any PinPast.forces } = x := by rw [hx]; rfl
    have hword : u.sarWord n avg x = w := by
      rw [hw, State.sarWord, hx, hp]
      rfl
    simp only [execSarSample, ← hu, ← havg, hst, hgo, hread, hxc, hword]
    have hval : x.value.toNat = value := by rw [hx]; rfl
    rw [hval]
    rfl

/-- Settles O29: a gang member counts nothing, an open interval nothing, and any other by its corrected increment. -/
theorem chargeIsCounted : Obligations.ChargeIsCounted := by
  intro s u t hu
  refine ⟨fun n m dq ovr clamp hit live last hn hg => ?gang, fun n m k l dq ovr clamp hit live last v stamp ps hn hk hl hg
    hstamp htb hchg hv hps => ⟨fun hall => ?open_, fun q frac x w y z hany hq hx hw hy hz => ?counted⟩,
    fun tag w hw hd => ⟨fun k lanes b hk hb => ?clear, fun r hk hr => ?clearRun⟩⟩
  case gang =>
    show execChargeIncrement t n m dq ovr clamp hit live last s = _
    simp only [execChargeIncrement, ← hu, hn, hg]
    rfl
  case open_ =>
    show execChargeIncrement t n m dq ovr clamp hit live last s = _
    have hno : (u.capOpened n 0 (stamp + 30)).chargeSpans n stamp = ps := by rw [hps, hv]; rfl
    have hgo : (!u.hasChan n || (u.chan n).st.gangMember || decide (u.tb < stamp + 100030)
        || decide (stamp + 100000 ≤ (u.chan n).meas.chgTb)) = false := by
      simp [hn, hg, htb, hchg]
    have hany : ps.any PinPast.closed = false := by simpa using hall
    simp only [execChargeIncrement, ← hu, ← hstamp, hgo, hno, hany, hv]
    rw [hk]
    rfl
  case counted =>
    have hno : v.chargeSpans n stamp = ps := by rw [hps]; rfl
    have hgo : (!u.hasChan n || (u.chan n).st.gangMember || decide (u.tb < stamp + 100030)
        || decide (stamp + 100000 ≤ (u.chan n).meas.chgTb)) = false := by
      simp [hn, hg, htb, hchg]
    have hany' : ps.any PinPast.closed = true := by simpa using hany
    have hread : v.chargeRead n stamp q ovr (clamp || hit) = x := by
      rw [hx, State.chargeRead, hno, hl]
      rfl
    have hxs : x.stamp = stamp := by rw [hx]
    have hword : v.chargeOf n x = w := by
      rw [hw, State.chargeOf, hxs, hno, hx]
      rfl
    have htake : v.takeCharge n frac x live = match z.runOfCluster k with
        | some r => z.feedRed k r.group x
        | none => z := by
      rw [State.takeCharge, hword, hz, hy, hk, hl, hx]
      rfl
    have hexec : exec (.chargeIncrement t n m dq ovr clamp hit live last) s =
        .next ((v.takeCharge n frac x live).endBatch k last) := by
      show execChargeIncrement t n m dq ovr clamp hit live last s = _
      simp only [execChargeIncrement, ← hu, ← hstamp, hgo, ← hv, hno, hany', ← hq, hread, if_true]
      rw [hk]
      rfl
    refine ⟨fun r hr => ?_, fun hr => ?_⟩
    · rw [hexec, htake, hr]
    · rw [hexec, htake, hr]
  case clear =>
    show execChargeClearTick t tag s = _
    simp only [execChargeClearTick, ← hu, hw, hd, hk, Option.isSome_none, Nat.not_lt.mpr hb, if_false]
    rfl
  case clearRun =>
    show execChargeClearTick t tag s = _
    simp only [execChargeClearTick, ← hu, hw, hd, hk, hr, Option.isSome_none]
    rfl

end Sys2Proof.Machine

end

section
/-! Fails, runs and their segments (R113 to R142, R168 to R191, R198 to R203; O31 to O34). -/

namespace Sys2Proof.Machine

/-- Settles O31: the entry is logged exactly where the FIFO has room and the die takes a log. -/
theorem failsAreRecorded : Obligations.FailsAreRecorded := by
  intro s u t k copy above below full a l0 ls time tb vec w v hu ha hls hcopy htime htb hvec hw hv
  have hkept : w.logKept k = u.logKept k := by rw [hw]; rfl
  have hlog : (if !full && w.logKept k then w.houseAsk (dieOfCluster k) (w.logAddr k ((w.cluster k).flog.wr - 1)) 16
      else w) = v := by
    rw [hv, hkept]
    simp only [Bool.and_eq_true, Bool.not_eq_true']
  have htb' : tick (time / 2048) = tb := htb.symm
  show execFailLogEntry t k copy above below full s = _
  simp only [execFailLogEntry, ← hu, ha, hls, Nat.not_le.mpr hcopy, if_false, ← htime, htb', ← hvec]
  rw [← hlog, hw]
  rfl

/-- Settles O32: the arm and the start each by the conditions at their instant. -/
theorem runsArmAndBegin : Obligations.RunsArmAndBegin := by
  refine ⟨fun s u t tag x hu hx hst ha => ⟨fun hbad => ?fault, fun hgood => ⟨fun hbusy => ?start,
      fun hrun herr load v hload hv => ?arm⟩⟩,
    fun s u₀ u w t tag phase x r ks ds own gang edge hu₀ hu hx hst hs hks harmed hr hds hedge hown hgang hw => ?begin⟩
  case fault =>
    have hany : (x.mapped.any fun n => !u.connected n || (u.chan n).faulted) = true := by
      simpa using hbad
    show execRunArm t tag s = _
    simp only [execRunArm, ← hu, hx, hst, hany, Nat.not_lt.mpr ha]
    rfl
  case start =>
    have hany : (x.mapped.any fun n => !u.connected n || (u.chan n).faulted) = false := by
      simpa using hgood
    show execRunArm t tag s = _
    simp only [execRunArm, ← hu, hx, hst, hany, Nat.not_lt.mpr ha, Bool.or_eq_true, hbusy]
    rfl
  case arm =>
    have hany : (x.mapped.any fun n => !u.connected n || (u.chan n).faulted) = false := by
      simpa using hgood
    show execRunArm t tag s = _
    simp only [execRunArm, ← hu, hx, hst, hany, Nat.not_lt.mpr ha, hrun, herr, ← hload]
    rw [hv]
    rfl
  case begin =>
    have hall : (ks.all fun k => (u₀.seq k).state == .armed) = true := by simpa using harmed
    show execRunBegin t tag phase s = _
    have hcond : ¬ (x.state ≠ .arming ∨ u₀.tb < x.s ∨ ¬ (ks.all fun k => (u₀.seq k).state == .armed) = true) := by
      simp [hst, hs, hall]
    simp only [execRunBegin, ← hu₀, hx, ← hks]
    have hr' : u.imgRd x.image = r := by
      rw [hr, hu]
      split <;> rfl
    rw [if_neg hcond, ← hds, ← hu, hr', ← hown, ← hgang, hw]
    simp only [← hedge]
    rfl

section
variable {u : State} {k : Nat} {a : At}

/-- At its end a segment of the master takes a stop that waits. -/
theorem State.endSegment_stop {tb : Tb} {st : Status} {detail : BitVec 8} (hstop : a.r.stopTb = some (tb, st, detail))
    (hm : u.masterOf a.r.group = some k) (hle : (tb : Rat) ≤ a.endAt) :
    u.endSegment k a = u.stopAll a.r a.endAt st detail := by
  unfold State.endSegment
  simp only [hstop, hm, hle, and_self, if_true]

/-- Without one, the segment that R123 names follows it, or its path is done. -/
theorem State.endSegment_goesOn (hno : ∀ tb st detail, a.r.stopTb = some (tb, st, detail) →
    ¬ (u.masterOf a.r.group = some k ∧ (tb : Rat) ≤ a.endAt)) {v : State}
    (hv : v = u.updSeq k fun q => { q with watch := (
      q.watch.filter (fun w => decide (a.endAt ≤ w.1 + u.latency k (u.brAt a.r k w.2.1))) ++
        if a.e.brEn && a.q.decided == some false && !a.q.lateDone then [(a.endAt, a.e.branch, a.q.seg)] else []) }) :
    (nextSegment (u.placed a.r k secSegments) (u.placed a.r k secBranches) a.e a.q.seg a.q.loops
        (a.q.decided.getD false) = none → u.endSegment k a = v.pathDone a.r k a.endAt) ∧
    ∀ i loops, nextSegment (u.placed a.r k secSegments) (u.placed a.r k secBranches) a.e a.q.seg a.q.loops
        (a.q.decided.getD false) = some (i, loops) →
      u.endSegment k a = ((v.closeWindows k (fun w =>
        (v.recipe k w.recipe).endMode == 0 || ((v.recipe k w.recipe).endMode == 1 && (v.recipe k w.recipe).endSeg == i))
        (Machine.tick a.endAt)).updSeq k fun q => { q with loops }).startSegment a.r k i a.endAt false := by
  unfold State.endSegment
  cases hstop : a.r.stopTb with
  | none =>
    simp only [← hv]
    exact ⟨fun hn => by rw [hn], fun i loops hn => by rw [hn]⟩
  | some p =>
    simp only [if_neg (hno p.1 p.2.1 p.2.2 hstop), ← hv]
    exact ⟨fun hn => by rw [hn], fun i loops hn => by rw [hn]⟩

end

/-- Settles O33: a stop that waits comes first (`endSegment_stop`), then the segment that R123 names. -/
theorem segmentsFollow : Obligations.SegmentsFollow := by
  intro s u t k a hu ha hend
  refine ⟨fun tb htb hst => ?under, fun hunder hdec => ?_⟩
  case under =>
    show execSegmentStart t k s = _
    simp only [execSegmentStart, ← hu, ha, Nat.not_lt.mpr hend, htb, hst, if_false]
  have hb : (a.e.brEn && a.q.decided.isNone) = false := by
    simpa [Option.isSome_iff_ne_none] using hdec
  have hexec : exec (.segmentStart t k) s = .next (u.endSegment k a) := by
    show execSegmentStart t k s = _
    simp only [execSegmentStart, ← hu, ha, Nat.not_lt.mpr hend, hunder, hb, if_false, Bool.false_eq_true]
  refine ⟨fun tb st detail hstop hm hle => ?_, fun v hno hv => ⟨fun hn => ?_, fun i loops hn => ?_⟩⟩
  · rw [hexec, State.endSegment_stop hstop hm hle]
  · rw [hexec, (State.endSegment_goesOn hno hv).1 hn]
  · rw [hexec, (State.endSegment_goesOn hno hv).2 i loops hn]

/-- Settles O34: each way of an end has its own guard. -/
theorem runsEnd : Obligations.RunsEnd := by
  intro s u t hu
  refine ⟨fun tag r hr hst hdone hend => ?end_, fun tag r hr hst hne htime hrest => ?limit,
    fun k r l v hr hl hst hout hlen hs hat hv => ?abort, fun k a ha hst hlate => ?watchdog⟩
  case end_ =>
    have hall : ((u.runClusters r).all fun k => (u.seq k).state == .done && u.passesReady k) = true := by
      simpa using hdone
    show execRunEnd t tag s = _
    simp only [execRunEnd, ← hu, hr, hst, hall, hend, decide_true, Bool.and_self, if_true]
  case limit =>
    show execRunLimit t tag s = _
    have hnot : ((u.runClusters r).all fun k => (u.seq k).state == .done) = false := by
      simpa using hrest
    have h72 : 72 * 3600 * 10 ^ 9 = 259200000000000 := by decide
    have hended : (decide (r.firstVec + r.d + r.heldBy u.tb ≤ u.tb) || decide (r.firstVec + 259200000000000 ≤ u.tb))
        = true := by
      rw [Bool.or_eq_true, decide_eq_true_eq, decide_eq_true_eq]
      exact htime
    simp only [execRunLimit, ← hu, hr, hst, hnot, h72, hended, bne_iff_ne.mpr hne]
    rfl
  case abort =>
    show execRippleAbort t k s = _
    simp only [execRippleAbort, ← hu, hr, ← hl]
    rw [if_pos ⟨hst, Option.isSome_iff_ne_none.mpr hout, hlen, hs, hat⟩, hv]
    rfl
  case watchdog =>
    show execSegWatchdog t k s = _
    simp only [execSegWatchdog, ← hu, ha]
    exact congrArg _ (if_neg (not_or.mpr ⟨hst, not_not_intro hlate⟩))

end Sys2Proof.Machine

end

section
/-! What a running cluster does: branches, tokens, timers, springs and holds (R110 to R140; O35, O36, O38, O39). -/

namespace Sys2Proof.Machine

/-! ### Branches (R127 to R129) -/

section
variable {sure td : Rat} {seen : List Bool} {log : List SrcEvent} {e : SrcEvent}

/-- What a branch has seen of its sources: all whose worst case is over. -/
theorem mem_splitSeen_taken (he : e ∈ log) (hs : e.origin ≤ sure) : e ∈ (splitSeen sure td seen log).1 := by
  induction log generalizing seen with
  | nil => exact absurd he List.not_mem_nil
  | cons x xs ih =>
    rw [splitSeen]
    rcases List.mem_cons.mp he with rfl | hx
    · simp [hs]
    · simp only
      split
      · exact List.mem_cons_of_mem _ (ih hx)
      · exact ih hx

/-- What it has not seen: all from after the decision clock. -/
theorem mem_splitSeen_hidden (he : e ∈ log) (hs : sure < e.origin) (ht : td < e.origin) :
    e ∈ (splitSeen sure td seen log).2 := by
  induction log generalizing seen with
  | nil => exact absurd he List.not_mem_nil
  | cons x xs ih =>
    rw [splitSeen]
    rcases List.mem_cons.mp he with rfl | hx
    · simp [Rat.not_le.mpr hs, Rat.not_le.mpr ht]
    · simp only
      split
      · exact ih hx
      · exact List.mem_cons_of_mem _ (ih hx)

end

/-- Settles O35: an event is seen where it is over by the decision clock or where the crossing lets it through, so the
split of the log is what the decision may see. -/
theorem branchesAreDecided : Obligations.BranchesAreDecided := by
  intro s u v t k seen a b td lat taken hidden result unsure hu ha hb hen hdec hun htd hdue hlat hsplit hres huns hv
  have hresult : (a.q.defer || b.cond taken td || (b.latch &&
      (a.q.since :: (taken.map SrcEvent.origin).filter fun x => decide (a.q.since ≤ x)).any fun x => b.cond taken x)) =
        result := by
    rw [Bool.eq_iff_iff, hres]
    simp [or_assoc]
  have hunsure : ((a.q.srcLog.filter b.watches).any fun e =>
      decide (e.origin ≤ td) && decide (td < e.origin + lat)) = unsure := by
    rw [Bool.eq_iff_iff, huns]
    simp
  have hexec : exec (.branchDecision t k seen) s = .next (
      if a.q.defer then (v.updSeq k fun q => { q with
          defer := false, deferCnt := inc32 q.deferCnt, fl := { q.fl with jumpDeferred := true } }).raise_
        { code := 0x0030, tb := a.q.deferTb, locKind := 2, location := k, run := some a.r.tag
          detail := a.q.seg + a.q.deferSeg * 2 ^ 16 }
      else if result then v
      else match lateEvent b (a.q.srcLog.filter b.watches) hidden a.endAt with
        | some e => (v.updSeq k fun q => { q with lateDone := true }).lateRequest k b a.q.seg e.origin
        | none => v) := by
    have hgo : (!a.e.brEn || a.q.decided.isSome || a.q.underTb.isSome || decide (u.tb < tick td)) = false := by
      simp [hen, hdec, hun, hdue]
    show execBranchDecision t k seen s = _
    simp only [execBranchDecision, ← hu, ha, ← hb, ← htd, ← hlat, hgo, ← hsplit, hresult, hunsure, ← hv]
    rfl
  refine ⟨fun e he hw => ⟨fun hs => ?_, fun hs ht => ?_⟩, fun hd => ?_, fun hd hr => ?_, fun log hlog hd hr =>
    ⟨fun hl => ?_, fun e hl => ?_⟩⟩
  · have h := mem_splitSeen_taken (td := td) (seen := seen) (List.mem_filter.mpr ⟨he, hw⟩) hs
    rwa [← hsplit] at h
  · have h := mem_splitSeen_hidden (seen := seen) (List.mem_filter.mpr ⟨he, hw⟩) hs ht
    rwa [← hsplit] at h
  · rw [hexec, if_pos hd]
  · rw [hexec, if_neg (by simp [hd]), if_pos hr]
  · rw [hexec, if_neg (by simp [hd]), if_neg (by simp [hr]), ← hlog, hl]
  · rw [hexec, if_neg (by simp [hd]), if_neg (by simp [hr]), ← hlog, hl]

/-! ### Tokens (R110 to R113) -/

section
variable {s u : State} {t : Tb} {k : Nat} {a : At}

theorem State.tokenStep_eq {tok : Token} (hu : u = s.at t) (hdec : u.decoding k = some (a, tok))
    (f : State → At → Token → Option State) : s.tokenStep t k f = (f u a tok).getD u := by
  rw [State.tokenStep, ← hu, hdec]

theorem State.controlStep_eq {op arg : Nat} (hu : u = s.at t) (hdec : u.decoding k = some (a, .control op arg))
    (f : State → At → Nat → State) : s.controlStep t k op f = (f u a arg).advance k 2 a := by
  rw [State.controlStep, State.tokenStep_eq hu hdec]
  simp only [if_true, Option.getD_some]

end

/-- Settles O36: a token acts on the decoder's position (`tokenStep_eq`, `controlStep_eq`). -/
theorem tokensAct : Obligations.TokensAct := by
  intro s u t k a tok hu hdec
  refine ⟨fun copies index htok => ?_, fun n htok => ?_, fun htok => ?_, fun arg htok => ?_, fun arg htok => ?_,
    fun arg htok => ?_, fun arg htok => ?_, fun arg htok => ?_, fun arg htok => ?_, fun arg htok => ?_⟩
  all_goals subst htok
  · exact congrArg Host.Outcome.next (State.tokenStep_eq hu hdec _)
  · exact congrArg Host.Outcome.next (State.tokenStep_eq hu hdec _)
  · exact congrArg Host.Outcome.next (State.tokenStep_eq hu hdec _)
  · exact congrArg Host.Outcome.next (State.controlStep_eq hu hdec _)
  · refine congrArg Host.Outcome.next ((State.tokenStep_eq hu hdec _).trans ?_)
    simp only
    split <;> rfl
  · exact congrArg Host.Outcome.next (State.controlStep_eq hu hdec _)
  · exact congrArg Host.Outcome.next (State.controlStep_eq hu hdec _)
  · exact congrArg Host.Outcome.next (State.controlStep_eq hu hdec _)
  · exact congrArg Host.Outcome.next (State.controlStep_eq hu hdec _)
  · exact congrArg Host.Outcome.next (State.controlStep_eq hu hdec _)

/-- Settles O38: each row's guard holds. -/
theorem springsFlow : Obligations.SpringsFlow := by
  intro s u t k i r x hu
  refine ⟨fun hr hx hd hroom v hv => ?issue, fun hr hx hf hl v hv => ?complete, fun hr hx hd => ?late⟩
  case issue =>
    show execSpringIssue t k i s = _
    simp only [execSpringIssue, ← hu, hr, hx, hd, hroom, and_self, if_true, ← hv]
  case complete =>
    show execSpringComplete t k i s = _
    simp only [execSpringComplete, ← hu, hr, hx, hf, hl, Bool.and_self, if_true]
    rw [hv]
  case late =>
    show execSpringLate t k i s = _
    simp only [execSpringLate, ← hu, hr, hx, hd, if_true]

/-- Settles O39: each row's guard holds; the members to hold are those that run. -/
theorem holdsStretchTheRun : Obligations.HoldsStretchTheRun := by
  intro s u t g r hu
  refine ⟨fun h x k ks hr hst hne hh hks => ?hold, fun k a h ha hat hd hne hun => ?entry,
    fun ks h c v hr hh hc hne hks hv => ?resume, fun k a e v ha he hd hne hp hv => ?timeline, fun hr hst hne hlong => ?limit⟩
  case hold =>
    have hgo : (!r.stretch || r.state == .ending || !r.holds.contains h) = false := by simp [hst, hne, hh]
    show execHold t g h x s = _
    simp only [execHold, ← hu, hr, hgo, hks]
    rfl
  case entry =>
    show execHoldEntry t k s = _
    simp only [execHoldEntry, ← hu, ha, hat]
    rw [if_neg (by simp [hd, hne, hun])]
  case resume =>
    show execResume t g s = _
    simp only [execResume, ← hu, hr, hh, hc, hne, ← hks, if_false]
    rw [hv]
  case timeline =>
    show execTimelineResume t k s = _
    simp only [execTimelineResume, ← hu, ha, he]
    rw [if_neg (by simp [hd, hne]), if_neg hp, ← hv]
  case limit =>
    have hheld : r.heldBy u.tb > 100000000 := hlong
    show execStretchLimit t g s = _
    simp only [execStretchLimit, ← hu, hr, hst, hheld, bne_iff_ne.mpr hne, decide_true, Bool.and_self, if_true]

end Sys2Proof.Machine

end

section
/-! Cluster timers and update instants (R44, R45, R113, R131, R132; O37). -/

namespace Sys2Proof.Machine

variable {s : State}

/-- Where no command is accepted, none is answered. -/
theorem State.finish_eq_self_of_works_nil {tag : BitVec 12} {status : Status} {detail : Nat} {result : BitVec 128}
    {cause : Nat} (hs : s.works = []) : s.finish tag status detail result cause = s := by
  have hw : s.work? tag = none := by simp only [State.work?, hs, List.find?_nil]
  simp only [State.finish, State.finishAt, hw]

theorem State.forceReplies_eq_self_of_works_nil (tags : List (BitVec 12)) (hs : s.works = []) :
    s.forceReplies tags = s := by
  unfold State.forceReplies
  refine List.foldlRecOn (motive := fun t => t = s) tags _ rfl fun t ht tag _ => ?_
  subst ht
  split
  · rfl
  · exact State.finish_eq_self_of_works_nil hs

/-- A waveform's step may end in a reset of the part, which moves the time base but leaves no force to answer. -/
theorem State.forceReplies_waveInstant (u : State) (r : Run) (k n : Nat) (f : Chan → Chan) (c : Chan) {v : State}
    (hv : (u.updChan n fun c => c.join u.tb).waveInstant r k n = v) :
    (v.updChan n f).forceReplies (c.forcesTaken v.tb) = (v.updChan n f).forceReplies (c.forcesTaken u.tb) := by
  obtain ⟨-, -, htb | hworks⟩ := ((Frame.Keeps.start u).updChan (n := n) (f := fun c => c.join u.tb)).waveInstant
    (r := r) (k := k) (n := n)
  · rw [← hv, htb]
  · rw [hv] at hworks
    have hworks' : (v.updChan n f).works = [] := hworks
    rw [State.forceReplies_eq_self_of_works_nil _ hworks', State.forceReplies_eq_self_of_works_nil _ hworks']

/-- Settles O37: by the step of a waveform (`forceReplies_waveInstant`), the state at the instant answers the same
forces. -/
theorem timersAndCodesStep : Obligations.TimersAndCodesStep := by
  intro s u t hu
  refine ⟨fun k j m hst hm hrun hexp => ?timer, fun n hn hi => ⟨fun active hout hact => ?idle,
    fun r v hr hmem hst => ⟨fun tb htb => ?held, fun hun hv => ⟨fun tb htb => ?heldLater, fun w hun' hw => ?wave⟩⟩⟩⟩
  case timer =>
    show execClusterTimerExpiry t k j s = _
    simp only [execClusterTimerExpiry, ← hu, hst, ← hm, hrun, hexp, and_self, if_true]
  all_goals
    have hgo : (!u.hasChan n || !(u.chan n).isInstant u.tb) = false := by simp [hn, hi]
    show execDacUpdateInstant t n s = _
  case idle =>
    have hactive : (!(u.chan n).forces.isEmpty || (u.chan n).queue.any fun e => e.owner.isSome) = active := by
      rw [Bool.eq_iff_iff, hact]
      simp
    simp only [execDacUpdateInstant, ← hu, hgo, hactive]
    cases hr : u.runOfCluster (clusterOf n) with
    | none => rfl
    | some r =>
      simp only [List.contains_iff_mem, if_neg (hout r hr)]
      rfl
  all_goals
    have hr' : u.runOfCluster (clusterOf n) = some r := hr
    have hst' : (u.seq (clusterOf n)).state = .running := hst
  case held =>
    have htb' : (u.seq (clusterOf n)).underTb = some tb := htb
    simp only [execDacUpdateInstant, ← hu, hgo, hr', List.contains_iff_mem.mpr hmem, hst', htb', if_true]
    rfl
  all_goals
    have hun₀ : (u.seq (clusterOf n)).underTb = none := hun
    have hv' : (u.updChan n fun c => c.join u.tb).waveInstant r (clusterOf n) n = v := hv.symm
  case heldLater =>
    have htb' : (v.seq (clusterOf n)).underTb = some tb := htb
    simp only [execDacUpdateInstant, ← hu, hgo, hr', List.contains_iff_mem.mpr hmem, hst', hun₀, hv', htb', if_true]
    rfl
  case wave =>
    have hun₁ : (v.seq (clusterOf n)).underTb = none := hun'
    simp only [execDacUpdateInstant, ← hu, hgo, hr', List.contains_iff_mem.mpr hmem, hst', hun₀, hv', hun₁, if_true]
    rw [hw, ← State.forceReplies_waveInstant u r (n / 8) n _ (u.chan n) hv.symm]
    rfl


end Sys2Proof.Machine
end

section
/-! The units of a die: RPS, DRAM and thermal unit (R258 to R273, R395 to R402; O40, O41). -/

namespace Sys2Proof.Machine

/-- An update of a die sees that die alone. -/
theorem State.updDie_congr {s : State} {d : Nat} {f g : Die → Die} (h : f (s.die d) = g (s.die d)) :
    s.updDie d f = s.updDie d g := by
  unfold State.updDie
  congr 1
  refine List.ext_getElem? fun i => ?_
  rw [List.getElem?_modify, List.getElem?_modify]
  by_cases hi : d = i
  · subst hi
    cases hd : s.dies[d]? with
    | none => rfl
    | some x =>
      have hx : s.die d = x := by rw [State.die, List.getD_eq_getElem?_getD, hd]; rfl
      rw [hx] at h
      simp [h]
  · simp [hi]

section
variable {u : State} {x ch : Nat} {mr4 mr4b : Option (BitVec 3)} {pass wake : BitVec 2} {n due : Nat} {v₀ v : State}
  (hw : u.windowEnds x ch = true)
  (hv₀ : v₀ = (u.updDram x fun y => { y with reqs := y.reqs.filter (u.dramStands x) }).updDram x fun y =>
    (y.serveFrame ch (u.tb - 400)).refreshed ch (u.tb - 400))
  (hn : n = (v₀.die x).dram.windows.getD ch 0 + 1) (hdue : due = (v₀.die x).dram.rfmDue.getD ch 0)
  (hv : v = v₀.updDram x fun y => { y with
    windows := y.windows.set ch (if 64 ≤ n then 0 else n)
    rfmDue := y.rfmDue.set ch (due - 2)
    rfmCnt := min (y.rfmCnt + min 2 due) (2 ^ 32 - 1)
    lowPower := y.lowPower.mapIdx fun i b => b && !(i / 2 == ch && hasBit wake (i % 2)) })
include hw hv₀ hn hdue hv

/-- What every maintenance window does, and what follows it: a reading of the rate in each 64th. -/
theorem State.window_eq : u.window x ch mr4 mr4b pass wake =
    if decide (64 ≤ n) && ((v₀.die x).dram.rateOf mr4 mr4b).isNone then
      ({ v with free := v.free + 1 } : State).dramOffline x ((Config.freeValue v.free).toNat % 4 + 4 * ch)
    else (if decide (64 ≤ n) then v.updDram x fun y => { y with
        rates := y.rates.set ch (((v₀.die x).dram.rateOf mr4 mr4b).getD 0)
        mult := BitVec.ofNat 2 (maxOf (y.channels.map fun c =>
          (y.rates.set ch (((v₀.die x).dram.rateOf mr4 mr4b).getD 0)).getD c 0)) } else v).retrainWindow x ch
            (u.tb - 400) pass := by
  have hv₀' : (u.dramLive x).updDram x (fun x => (x.serveFrame ch (u.tb - 400)).refreshed ch (u.tb - 400)) = v₀ :=
    hv₀.symm
  unfold State.window
  rw [if_pos hw]
  simp only [hv₀', ← hn, ← hdue, satTo, decide_eq_true_eq, ← hv, State.takeFree]

end

/-- Settles O40: each unit's guard holds; the maintenance window in the order in which it serves, refreshes and trains
(`window_eq`). -/
theorem dieUnitsStep : Obligations.DieUnitsStep := by
  intro s u t x hu
  refine ⟨fun c kelvin q hq hl hf => ?rps, fun ch mr4 mr4b pass n due wake v₀ v hw hv₀ hn hdue hv => ?window,
    fun hd ht hst => ?interval, fun hd hst hr => ?reform, fun ch rank hd hst hch hok hrank hin hidle hheld => ?power,
    fun y v hd hst hv hy => ?age, fun env hd hf => ?full⟩
  case rps =>
    show execRpsDone t x c kelvin s = _
    simp only [execRpsDone, ← hu, hq, hl, hf, Bool.or_self]
    rfl
  case window =>
    have hexec : exec (.maintenanceWindow t x ch mr4 mr4b pass wake) s =
        .next (u.window x ch mr4 mr4b pass wake).pump3 := by rw [hu]; rfl
    rw [hexec, State.window_eq hw hv₀ hn hdue hv]
    refine ⟨fun hlt => ?_, fun r hge hr => ?_, fun hge hr => ?_⟩
    · simp [Nat.not_le.mpr hlt]
    · simp [hge, hr]
    · refine ⟨(Config.freeValue v.free).toNat % 4, Nat.mod_lt _ (by omega), ?_⟩
      simp [hge, hr]
  case interval =>
    show execRetrainInterval t x s = _
    have hup : u.dramUp x = true := by simpa [State.dramUp] using hst
    simp only [execRetrainInterval, ← hu, hd, ht, decide_true, Bool.and_self, if_true, State.wantRetrain, hup]
  case reform =>
    show execReformDone t x s = _
    simp only [execReformDone, ← hu, hd, hst, hr, Bool.and_self, beq_self_eq_true, if_true]
  case power =>
    show execDramPowerDown t x ch rank s = _
    have hup : u.dramUp x = true := by simpa [State.dramUp] using hst
    have hrank' : rank ≤ bit (u.die x).dram.ranksM1 := by
      rcases hrank with rfl | ⟨rfl, h⟩
      · exact Nat.zero_le _
      · rw [h]; exact Nat.le_refl 1
    simp only [execDramPowerDown, ← hu, hd, hup, hch, hok, hrank', bne_iff_ne.mpr hin, hidle, hheld, decide_true,
      Bool.not_false, Bool.and_self, if_true]
  case age =>
    have hup : u.dramUp x = true := by simpa [State.dramUp] using hst
    have hexec : exec (.agePromotion t x) s = .next (v.updDram x fun _ => (v.die x).dram.promote u.tb) := by
      show execAgePromotion t x s = _
      have hlive : u.dramLive x = v := hv.symm
      simp only [execAgePromotion, ← hu, hd, hup, Bool.and_self, if_true, hlive]
      exact congrArg _ (State.updDie_congr rfl)
    rw [hexec, Dram.promote, ← hy]
    refine ⟨fun i hi hc => ?_, fun hno => ?_⟩
    · simp only [hi, if_pos hc]
      rfl
    · split
      · next i hi =>
        have hlow : ¬ 64 ≤ y.credit .age := Rat.not_le.mpr (by simpa [hi] using hno)
        rw [if_neg hlow]
      · rfl
  case full =>
    have hexec : exec (.fullRetrainDone t x env) s = .next (u.fullDone x env).pump3 := by rw [hu]; rfl
    rw [hexec]
    simp only [State.fullDone, hd, hf, Bool.and_self, if_true]

/-- Settles O41: each reading is the raw value with its offset, for every command that waits for it. -/
theorem thermalUnitsStep : Obligations.ThermalUnitsStep := by
  intro s u t x hu
  refine ⟨fun hd hw hms hdue => ?watch, fun raw rec boot c cs v tb w hc hd htb hdue hnone hsome hw => ?conversion,
    fun hd hst hth hg hsteps hdue => ?grace⟩
  case watch =>
    show execThermalWatch t x s = _
    simp only [execThermalWatch, ← hu, hd, hw, bne_iff_ne.mpr hms, hdue, decide_true, Bool.and_self, if_true]
  case conversion =>
    have hread : u.reading x c.sensor raw = v := by
      cases raw with
      | none => exact (hnone rfl).symm
      | some r => exact (hsome r rfl).symm
    have hnext : u.updThm x Thermal.next = w := by
      rw [hw]
      refine State.updDie_congr ?_
      simp only [Thermal.next, hc, List.drop_one, List.tail_cons]
    have hgo : (!u.dieWorks x || decide (u.tb < tb)) = false := by simp [hd, hdue]
    refine ⟨fun hs => ?_, fun hs hext => ?_⟩
    · show execThermalConversion t x raw rec boot s = _
      simp only [execThermalConversion, ← hu, hc, hgo, hread, hnext, ← htb]
      exact congrArg Host.Outcome.next (if_pos hs)
    · show execThermalConversion t x raw rec boot s = _
      simp only [execThermalConversion, ← hu, hc, hgo, hread, hnext, ← htb, hs, hext, if_false]
      rfl
  case grace =>
    show execGraceExpiry t x s = _
    simp only [execGraceExpiry, ← hu, hd, hst, hth, bne_iff_ne.mpr hg, hsteps, hdue, decide_true, beq_self_eq_true,
      Bool.and_self, if_true]

end Sys2Proof.Machine

end

section
/-! The serial port and the transfers (R213, R221, R246, R356 to R372; O42 to O44). -/

namespace Sys2Proof.Machine

/-- Settles O42: by the operation in progress, if any, and what its page or its sector leaves to do. -/
theorem serialPortSteps : Obligations.SerialPortSteps := by
  intro s u t hu
  refine ⟨fun w hw => ⟨fun hq => ?mmfIdle, fun o os ho hb v hv => ?mmfBusy⟩, fun idle hl hq => ?backoff,
    fun hb hl hs => ?done, fun o os ho hb hlate => ?xip, fun o os tag w ho hb hs htag hw hlate => ?promise,
    fun e es hj hl hs hb w hw => ?journal, fun sent hs => ?fall, fun cut hs => ?rise⟩
  case mmfIdle =>
    have hexec : exec (.mmf t) s = .next u.foreign.pump3 := by rw [hu]; rfl
    rw [hexec, State.foreign]
    simp only [← hw]
    rcases hq with ho | hb
    · rw [ho]
    · rw [hb]
      split <;> rfl
  case mmfBusy =>
    have hexec : exec (.mmf t) s = .next u.foreign.pump3 := by rw [hu]; rfl
    rw [hexec, State.foreign]
    have hv' : (if o.mmf then w else w.raise_ { code := evFlashMmf, tb := w.tb }) = v := hv.symm
    simp only [← hw, ho, hb, hv']
    by_cases h8 : 8 ≤ u.serial.attempt
    · rw [if_pos h8, if_neg (by decide), if_pos h8]
    · rw [if_neg h8, if_neg (by decide), if_neg h8]
  case backoff =>
    have hexec : exec (.mmfBackoffExpiry t idle) s = .next (u.backoff idle).pump3 := by rw [hu]; rfl
    rw [hexec, State.backoff]
    simp only [hl]
    by_cases h0 : u.serial.attempt = 0
    · rw [if_neg (by decide), if_pos h0]
    · obtain ⟨htb, hi⟩ := hq.resolve_left h0
      rw [if_neg (by decide), if_neg h0, if_neg (by simpa [hi, backoffNs] using htb)]
  case done =>
    have hexec : exec (.flashOpDone t) s = .next u.flashDone.pump3 := by rw [hu]; rfl
    rw [hexec, State.flashDone, Serial.busFree, hb, hl, hs]
    rfl
  case xip =>
    have hexec : exec (.xipTimeout t) s = .next u.xipLate.pump3 := by rw [hu]; rfl
    rw [hexec, State.xipLate]
    simp only [ho, hb]
    rw [if_pos (by simpa using hlate)]
  case promise =>
    have hexec : exec (.xipTimeout t) s = .next u.xipLate.pump3 := by rw [hu]; rfl
    rw [hexec, State.xipLate]
    simp only [ho, hb, hs, htag, Option.bind_some, hw, Option.any_some, hlate, decide_true]
    rfl
  case journal =>
    have hexec : exec (.journalAppend t) s = .next u.appendJob.pump3 := by rw [hu]; rfl
    have hfree : u.serial.busFree = true := by rw [Serial.busFree, hl, hs]; rfl
    rw [hexec, State.appendJob]
    cases ho : u.serial.ops with
    | nil =>
      simp only [hj, hfree, ← hw]
      rfl
    | cons o os =>
      have hprog : (u.serial.busy && !(o.cur u.serial.page).1) = false := by
        cases hbusy : u.serial.busy with
        | false => rfl
        | true => rw [hb hbusy o os ho]; rfl
      simp only [hj, hfree, hprog, ← hw]
      rfl
  case fall =>
    have hexec : exec (.spSlvSelNFall t sent) s = .next (u.slaveFall sent) := by rw [hu]; rfl
    rw [hexec, State.slaveFall]
    rw [if_neg (by rw [hs]; decide)]
    simp only [inc32, satTo, Bool.and_eq_true, Bool.not_eq_true']
  case rise =>
    have hexec : exec (.spSlvSelNRise t cut) s = .next (u.slaveRise cut).pump3 := by rw [hu]; rfl
    rw [hexec, State.slaveRise, if_pos hs]

/-- A frame that the selected slave receives whole, in order, is answered by its OP (R370). -/
theorem State.slaveFrame_eq {u : State} {op : Nat} {h : Word} {args : List Word} (hsel : u.serial.slvActive = true)
    (hstage : 0x10 ≤ u.boot.stage.toNat) (hmark : h.toNat / 2 ^ 28 = 0xB) (hcount : h.toNat / 256 % 256 = args.length)
    (hlen : args.length ≤ 62) (hcrc : frameCrc h args = h.toNat % 256) (hop : h.toNat / 2 ^ 24 % 16 = op) (h5 : op < 5) :
    u.slaveFrame op (h :: args) = (u.slaveOp op args).2.2.2.slaveReply
      (replyFrame h (u.slaveOp op args).1 0 (u.slaveOp op args).2.1 (u.slaveOp op args).2.2.1) := by
  have hdrop : (h :: args).dropWhile (fun w => w.toNat / 2 ^ 28 == 0) = h :: args := by
    rw [List.dropWhile_cons_of_neg (by rw [hmark]; decide)]
  have hgo : (!u.serial.slvActive || decide (u.boot.stage.toNat < 0x10) || h.toNat / 2 ^ 28 != 0xB
      || (h.toNat / 2 ^ 24 % 16 != op && decide (h.toNat / 2 ^ 24 % 16 < 5))) = false := by
    rw [hmark, hop, hsel]
    simp [hstage]
  have hshort : ¬ 64 < (h :: args).length := by rw [List.length_cons]; omega
  unfold State.slaveFrame
  simp only [hdrop, hgo]
  rw [if_neg (by decide), if_neg hshort, if_neg (by omega), if_neg (not_not_intro hcrc), if_neg (by omega), hop]

/-- Settles O43: a whole frame is answered by its OP (`slaveFrame_eq`), which leaves one operation of the slave for
each clause. -/
theorem managementFramesAreAnswered : Obligations.ManagementFramesAreAnswered := by
  intro s u t h args hu hsel hstage hmark hcount hlen hcrc
  have hframe {op : Nat} (hop : h.toNat / 2 ^ 24 % 16 = op) (h5 : op < 5) :=
    State.slaveFrame_eq hsel hstage hmark hcount hlen hcrc hop h5
  refine ⟨fun hop hn => ?echo, fun hop hn => ?status, fun a b st ws n lat v hop hn hready h1 h60 hread => ?reg,
    fun m hop hn hready => ?thermal, fun m hop hn hready => ?still⟩
  case echo =>
    have hexec : exec (.slvEcho t (h :: args)) s = .next (u.slaveFrame 0 (h :: args)) := by rw [hu]; rfl
    have hact : u.slaveOp 0 args = (.ok, args.length, args, u) := by
      unfold State.slaveOp
      rw [if_neg (by simp)]
      simp only [hn, if_true]
    rw [hexec, hframe hop (by decide), hact]
  all_goals subst hn
  case status =>
    have hexec : exec (.slvStatus t [h]) s = .next (u.slaveFrame 1 [h]) := by rw [hu]; rfl
    have hact : u.slaveOp 1 [] = (.ok, 11,
      [u.boot.statusWord, wordAt u.partWords 0x1000, u.boot.fwVersion] ++ (List.range 8).map u.slaveDie, u) := by
      unfold State.slaveOp
      rw [if_neg (by simp)]
      rfl
    rw [hexec, hframe hop (by decide), hact]
  case reg =>
    have hexec : exec (.slvRegRead t [h, a, b]) s = .next (u.slaveFrame 2 [h, a, b]) := by rw [hu]; rfl
    have hact : u.slaveOp 2 [a, b] = (st, n, ws, v) := by
      unfold State.slaveOp
      rw [if_neg (by simp [hready])]
      simp only
      rw [if_neg (by omega), hread]
    rw [hexec, hframe hop (by decide), hact]
  case thermal =>
    have hexec : exec (.slvThermal t [h, m]) s = .next (u.slaveFrame 3 [h, m]) := by rw [hu]; rfl
    have hact : u.slaveOp 3 [m] = if (bitsOf (m.setWidth 8 : BitVec 8)).all u.hasDie then
        (.ok, (bitsOf (m.setWidth 8 : BitVec 8)).length, (bitsOf (m.setWidth 8 : BitVec 8)).map u.slaveDie, u)
        else (.badArg, 0, [], u) := by
      unfold State.slaveOp
      rw [if_neg (by simp [hready])]
      simp only [List.length_map]
    rw [hexec, hframe hop (by decide), hact]
    simp only [List.all_eq_true]
    split <;> rfl
  case still =>
    have hexec : exec (.slvStill t [h, m]) s = .next (u.slaveFrame 4 [h, m]) := by rw [hu]; rfl
    have hact : u.slaveOp 4 [m] = (.ok, 0, [], if hasBit m 0 then u.disconnectUnheld.hostAbortAll 0
        else u.disconnectUnheld) := by
      unfold State.slaveOp
      rw [if_neg (by simp [hready])]
      rfl
    rw [hexec, hframe hop (by decide), hact]

/-- Settles O44: by the transfer's state; a verification ends by what it found. -/
theorem transfersMove : Obligations.TransfersMove := by
  intro s u t tag hu
  refine ⟨fun x header b idle v hb hm hd hst hidle hv => ?start, fun x data w b v hw hb hm hd hv => ?complete,
    fun moved w hw hk hd hdl hle => ?stop, fun w id v hw hk hd hi hv => ⟨fun hno => ?ok, fun hf => ?bad⟩⟩
  case start =>
    show execBulkTransferStart t tag x header s = _
    simp only [execBulkTransferStart, ← hu, hb, hm, hd, ← hidle, ← hv]
    rw [if_neg (by simp [hst])]
    by_cases hi : idle b.channel = true
    · rw [if_pos hi, if_pos hi]
    · cases (List.range 8).find? idle with
      | none => simp only [if_neg hi]
      | some c => simp only [if_neg hi]
  case complete =>
    show execBulkComplete t tag x data s = _
    simp only [execBulkComplete, ← hu, hw, hb, hm, hd]
    rw [if_neg (by decide), hv]
    rfl
  case stop =>
    show execBulkDeadlineStop t tag moved s = _
    simp only [execBulkDeadlineStop, ← hu, hw]
    rw [if_pos ⟨hk, by rw [hd]; rfl, hdl, hle⟩]
  all_goals
    have hcond : w.done.isNone = true ∧ (u.image? id).any (fun i => i.state == .verifying) = true := by
      obtain ⟨i, himg, hst⟩ := hi
      simp [hd, himg, hst]
  case ok =>
    have hrd : v.imgRd id = u.imgRd id := by rw [hv]; rfl
    show execVerificationDone t tag s = _
    simp only [execVerificationDone, ← hu, hw, hk, if_pos hcond, State.pickFail, State.takeFree, hno, ← hv,
      List.getElem?_nil, hrd]
  case bad =>
    have hlt : (Config.freeValue u.free).toNat % (verifyFails (u.imgRd id)).length < (verifyFails (u.imgRd id)).length :=
      Nat.mod_lt _ (List.length_pos_iff.mpr hf)
    refine ⟨(verifyFails (u.imgRd id))[(Config.freeValue u.free).toNat % (verifyFails (u.imgRd id)).length],
      List.getElem_mem hlt, ?_⟩
    show execVerificationDone t tag s = _
    simp only [execVerificationDone, ← hu, hw, hk, if_pos hcond, State.pickFail, State.takeFree,
      List.getElem?_eq_getElem hlt, ← hv]

end Sys2Proof.Machine

end

section
/-! What a reset leaves (R66, R78, R80, R223, R292, R300, R304, R373, R434; O50). -/

namespace Sys2Proof.Machine

/-- A table filled with the entry that stands for an absent one gives that entry everywhere. -/
theorem List.getD_replicate_self {α : Type} (n i : Nat) (x : α) : (List.replicate n x).getD i x = x := by
  rw [List.getD_eq_getElem?_getD, List.getElem?_replicate]
  split <;> rfl

theorem State.chan_resetOf (m : Model) (n : Nat) : (State.resetOf m).chan n = Chan.reset :=
  List.getD_replicate_self 512 n _

theorem State.inlet_resetOf (m : Model) (i : Nat) : (State.resetOf m).inlet i = Inlet.reset :=
  List.getD_replicate_self 16 i _

theorem State.group_resetOf (m : Model) (g : Nat) : (State.resetOf m).group g = Group.empty :=
  List.getD_replicate_self 32 g _

/-- The outlets beyond the last one read as reset, so every number gives its own reset ring. -/
theorem State.outlet_resetOf (m : Model) (o : Nat) : (State.resetOf m).outlet o = Ring.reset o := by
  show ((List.range 16).map Ring.reset).getD o (Ring.reset o) = Ring.reset o
  rw [List.getD_eq_getElem?_getD, List.getElem?_map, Option.getD_map]
  by_cases ho : o < 16
  · rw [List.getElem?_range ho]
    rfl
  · rw [List.getElem?_eq_none (by simpa using ho)]
    rfl

/-- Settles O50: a reset state's tables are full of reset entries, so any number reads one, inside the table or not. -/
theorem resetIsInOrder : Obligations.ResetIsInOrder := by
  rintro m s rfl
  have hchan := State.chan_resetOf m
  have hinlet := State.inlet_resetOf m
  have houtlet := State.outlet_resetOf m
  have hgroup := State.group_resetOf m
  refine ⟨⟨State.canonical_resetOf m, State.sized_resetOf m⟩, ⟨rfl, rfl, rfl, rfl, rfl, rfl, rfl⟩, fun n => ?_,
    ⟨rfl, rfl, rfl, rfl, fun i =>
      ⟨List.getD_replicate_self 80 i _, List.getD_replicate_self 16 i _⟩⟩,
    ⟨fun i => ?_, fun o => ?_, rfl, fun o _ => ?_⟩, ⟨rfl, rfl, rfl, rfl, rfl, rfl, rfl, rfl, rfl⟩, fun g => ?_⟩
  · rw [State.connected, hchan n]
    exact ⟨rfl, rfl, rfl⟩
  · rw [hinlet i]
    exact ⟨rfl, rfl⟩
  · rw [houtlet o]
    exact ⟨rfl, rfl⟩
  · rw [houtlet o]
    rfl
  · rw [hgroup g]
    exact ⟨rfl, rfl⟩

end Sys2Proof.Machine
end
